-- ==== Sys2Proof/Word.lean ====
section
/-! DEFINITION. Word types of the model and its sparse stores: a store is a list of keys and values, kept in one
canonical form (keys strictly rising, no entry equal to what an unlisted key reads as). -/

namespace Sys2Proof

/-- A byte: one lane of a slab, one byte of any memory (R10). -/
abbrev Byte := BitVec 8

/-- A frame number, compared modulo 2^48 (R49, R50). -/
abbrev Frame := BitVec 48

/-- A stream number; stream s serves partition s (R86). -/
abbrev StreamId := BitVec 4

/-- Values by key; what an unlisted key reads as is fixed where the store is read. -/
abbrev Sparse (α : Type) := List (Nat × α)

/-- A memory of bytes in canonical form; an unlisted address reads 0 (R329 clears every memory in Reset). -/
abbrev Mem := List Host.Cell

end Sys2Proof
end

