-- ==== Sys2Proof/Config.lean ====
section
/-! DEFINITION. What an implementation fixes and the spec leaves open: the four sizes of the design with their figures
(R3, R33, R35), and the free values, constants without a body, of which no proof can know a value. -/

namespace Sys2Proof

/-- The four configurations of the design (00, table of configurations). -/
inductive Configuration where
  | psiuno2 | psiuno4 | psiuno8 | psiuno16
  deriving DecidableEq, Repr

/-- log2 of the number of byte lanes: 2^10 to 2^13 (R33). -/
def Configuration.laneBits : Configuration → Nat
  | .psiuno2 => 10 | .psiuno4 => 11 | .psiuno8 => 12 | .psiuno16 => 13

/-- Lane arrays (R33, PSI_ID.ARRAYS of R405). -/
def Configuration.arrays : Configuration → Nat
  | .psiuno2 => 2 | .psiuno4 => 4 | .psiuno8 => 8 | .psiuno16 => 16

/-- P, the number of memory ports (R33, R35). -/
def Configuration.ports : Configuration → Nat
  | .psiuno2 => 1 | .psiuno4 => 2 | .psiuno8 => 4 | .psiuno16 => 8

/-- NB, the number of Pool banks (R33, R35). -/
def Configuration.banks : Configuration → Nat
  | .psiuno2 => 128 | .psiuno4 => 256 | .psiuno8 => 512 | .psiuno16 => 1024

/-- Bytes of a full-width setting: one bit for each switch of every stage and of SX (R33, R147). -/
def Configuration.settingBytes : Configuration → Nat
  | .psiuno2 => 1280 | .psiuno4 => 2816 | .psiuno8 => 6144 | .psiuno16 => 13312

/-- The part number in PSI_ID and IDCODE (R395, R405). -/
def Configuration.part : Configuration → BitVec 16
  | .psiuno2 => 0x5102 | .psiuno4 => 0x5104 | .psiuno8 => 0x5108 | .psiuno16 => 0x5110

/-- The core clock of an operating point in MHz (R385). -/
def coreMHz : BitVec 3 → Nat
  | 0 => 2400 | 1 => 2100 | 2 => 1800 | 3 => 1600 | 4 => 1400 | 5 => 1200 | 6 => 900 | _ => 600

/-- FREE VALUE. How far a region's timebase lags behind the always-on count, by draw; a use takes it modulo 5, for the
bound of 4 tb of R70. -/
opaque Config.lag : Nat → Nat

/-- FREE VALUE. A byte that a defective switch carries into a partition's pass from a lane of another partition (R83), by
draw and lane, where that partition passes no slab: the spec does not say what its lanes carry then. Nor does it say how the
switches of such a partition stand, by draw, stage and switch. -/
opaque Config.strayByte : Nat → Nat → Byte
opaque Config.idleBit   : Nat → Nat → Nat → Bool

/-- FREE VALUE. A byte of the boot ROM, whose contents the spec does not give (R294). -/
opaque Config.bootRom : Nat → Byte

/-- FREE VALUE. Byte `o` of the core registers that the Freeze window shows (R394), at the freeze of tick `t`: what the
firmware's code has left in them. -/
opaque Config.coreByte : Nat → Nat → Byte

/-- FREE VALUE. Byte `i` of SHA-384 of the identity public key (R367): the key lies in the security block. -/
opaque Config.identityByte : Nat → Byte

/-- FREE VALUE. Byte `i` of the public key that verifies firmware bundles and repair sets (R375 to R377), and byte `i` of the
signature values r and s, 48 bytes each, that a bundle or a signed set carries: the spec gives neither the key nor the
layout. -/
opaque Config.makerKeyByte : Nat → Byte
opaque Config.signatureByte : List Byte → Nat → Byte

/-- FREE VALUE. The flags that a consent record holds in clear, by draw (R369): they stand under the session key. -/
opaque Config.consentFlags : Nat → BitVec 2

/-- FREE VALUE. The security block's slot of the bundle that Boot obtains (R330, R376), which the spec does not name. -/
opaque Config.bootSlot : BitVec 8

/-- FREE VALUE. The version in a control firmware bundle's signed header (R375), whose layout the spec does not give. -/
opaque Config.bundleVersion : List Byte → BitVec 64

/-- FREE VALUE. Whether a loss of retention, by draw, leaves counter `i` a cell (below 4), and its other cell too (`4 + i`), or slot `i` of
the event log, intact (R372, R373): the spec says what becomes of the others, and not which those are. -/
opaque Config.keepsCell : Nat → Nat → Bool
opaque Config.keepsSlot : Nat → Nat → Bool

/-- FREE VALUE. What programming a fuse word makes of the fuses the spec names (R359, R367, R395): DEBUG_DISABLE,
MAKER_LOCK, the life-cycle state; the spec does not say which words hold them. -/
opaque Config.fuseDebug : BitVec 8 → BitVec 32 → Bool
opaque Config.fuseMaker : BitVec 8 → BitVec 32 → Bool
opaque Config.fuseLife  : BitVec 8 → BitVec 32 → BitVec 8

end Sys2Proof
end

