-- ==== Sys2Proof/Syntax.lean ====
section
/-! DEFINITION. The commands of Psiuno: one constructor of `Instr` per row of the opcode table, with the row's
operands. The 28 stream instructions carry the fields of their encodings (R104 to R142). -/

namespace Sys2Proof

/-- LVL and LEND of the instruction word (R104, R110). -/
structure LoopEnd where
  lvl  : BitVec 2
  lend : Bool
  deriving DecidableEq, Repr

/-- NOP (R119). -/
structure NopF where
  cyc   : BitVec 16
  lb    : Bool
  llvl  : BitVec 2
  count : BitVec 24
  deriving DecidableEq, Repr

/-- PERM (R120); `mode` true computes a setting. -/
structure PermF where
  dst  : BitVec 8
  src  : BitVec 8
  rpt  : BitVec 8
  slot : BitVec 8
  sub  : BitVec 4
  mode : Bool
  deriving DecidableEq, Repr

/-- PBPC (R123); `map` holds 13 entries of 5 bits. -/
structure PbpcF where
  dst : BitVec 8
  src : BitVec 8
  rpt : BitVec 8
  map : BitVec 65
  deriving DecidableEq, Repr

/-- LDT and STT (R124). -/
structure XferF where
  reg    : BitVec 8
  rpt    : BitVec 8
  region : BitVec 10
  off    : BitVec 26
  ilvl   : BitVec 2
  idxen  : Bool
  tr     : Bool
  stride : BitVec 24
  tsz    : BitVec 4
  cvt    : BitVec 8
  deriving DecidableEq, Repr

/-- GATH, SCAT and BCST (R126). -/
structure SluiceF where
  desc   : BitVec 12
  cur    : BitVec 3
  idxen  : Bool
  count  : BitVec 16
  region : BitVec 10
  off    : BitVec 26
  cvt    : BitVec 8
  cadv   : Bool
  deriving DecidableEq, Repr

/-- CONV (R128). -/
structure ConvF where
  dst     : BitVec 8
  src     : BitVec 8
  rpt     : BitVec 8
  cvt     : BitVec 8
  rnd     : BitVec 2
  sat     : Bool
  aux     : BitVec 8
  seedsel : BitVec 8
  deriving DecidableEq, Repr

/-- PACK and UNPK (R129). -/
structure PackF where
  dst : BitVec 8
  src : BitVec 8
  rpt : BitVec 8
  w   : BitVec 3
  pos : BitVec 3
  deriving DecidableEq, Repr

/-- SEPR (R130). -/
structure SeprF where
  kreg : BitVec 10
  koff : BitVec 21
  oreg : BitVec 10
  ooff : BitVec 21
  n    : BitVec 16
  b    : BitVec 16
  cap  : BitVec 16
  deriving DecidableEq, Repr

/-- SKIM (R131). -/
structure SkimF where
  dst    : BitVec 8
  region : BitVec 10
  off    : BitVec 21
  m      : BitVec 20
  k      : BitVec 6
  topp   : Bool
  p      : BitVec 16
  fmt    : BitVec 4
  ilvl   : BitVec 2
  idxen  : Bool
  stride : BitVec 16
  deriving DecidableEq, Repr

/-- SKP and COMB (R132). -/
structure CombF where
  src  : BitVec 8
  gate : BitVec 8
  widx : BitVec 8
  fmt  : BitVec 4
  n    : BitVec 13
  deriving DecidableEq, Repr

/-- DRAIN (R133). -/
structure DrainF where
  dst  : BitVec 8
  woff : BitVec 16
  n    : BitVec 13
  fmt  : BitVec 4
  clr  : Bool
  deriving DecidableEq, Repr

/-- TWAIT (R134). -/
structure TwaitF where
  tally  : BitVec 14
  target : BitVec 32
  dl     : BitVec 32
  toact  : Bool
  deriving DecidableEq, Repr

/-- TSIG (R134). -/
structure TsigF where
  tally : BitVec 14
  cnt   : BitVec 4
  deriving DecidableEq, Repr

/-- TADD (R134). -/
structure TaddF where
  tally : BitVec 14
  value : BitVec 32
  deriving DecidableEq, Repr

/-- CSEND (R137). -/
structure CsendF where
  ep   : BitVec 12
  src  : BitVec 8
  loff : BitVec 13
  nw   : BitVec 3
  deriving DecidableEq, Repr

/-- CRECV (R137). -/
structure CrecvF where
  ep    : BitVec 12
  dst   : BitVec 8
  loff  : BitVec 13
  sreg  : BitVec 8
  sen   : Bool
  dl    : BitVec 32
  toact : Bool
  deriving DecidableEq, Repr

/-- COPEN (R137). -/
structure CopenF where
  ep   : BitVec 12
  peer : BitVec 12
  deriving DecidableEq, Repr

/-- FWAIT (R139). -/
structure FwaitF where
  offset : BitVec 11
  nxt    : Bool
  deriving DecidableEq, Repr

/-- ALARM (R140). -/
structure AlarmF where
  timer  : BitVec 10
  kind   : BitVec 2
  carry  : Bool
  rel    : Bool
  tally  : BitVec 14
  period : BitVec 14
  target : BitVec 64
  deriving DecidableEq, Repr

/-- CHK (R141). -/
structure ChkF where
  a    : BitVec 8
  b    : BitVec 8
  mode : BitVec 2
  exp  : BitVec 32
  deriving DecidableEq, Repr

/-- What a program word says, without its loop field (R105). -/
inductive Op where
  | nop (f : NopF) | halt
  | perm (f : PermF) | pbpc (f : PbpcF)
  | ldt (f : XferF) | stt (f : XferF)
  | gath (f : SluiceF) | scat (f : SluiceF) | bcst (f : SluiceF)
  | conv (f : ConvF) | pack (f : PackF) | unpk (f : PackF)
  | sepr (f : SeprF) | skim (f : SkimF)
  | skp (f : CombF) | comb (f : CombF) | drain (f : DrainF)
  | twait (f : TwaitF) | tsig (f : TsigF) | tadd (f : TaddF)
  | csend (f : CsendF) | crecv (f : CrecvF) | copen (f : CopenF) | cclos (ep : BitVec 12)
  | fwait (f : FwaitF) | alarm (f : AlarmF) | chk (f : ChkF) | lfen (scope : BitVec 3)
  deriving DecidableEq, Repr

/-- Who makes an access on the control side: a control core, the host control port with its role and HC_ID (R42,
R303), or the IEEE 1149.1 port (R296). -/
inductive Master where
  | core (c : BitVec 2)
  | host (role : BitVec 2) (id : BitVec 5)
  | debug
  deriving DecidableEq, Repr

/-- The stores that carry a code (R345), in the order of PSI_ECCCORCNT (R433). -/
inductive Store where
  | pool | tiles | settings | wells | ledger | imageCopies | imageStores | sram | bootRom
  deriving DecidableEq, Repr

/-- One inbound flume in one cycle: its sideband (R29) and its data bytes (R36). -/
structure FlumeIn where
  flume : BitVec 4
  sb    : BitVec 32
  data  : List Byte
  deriving DecidableEq, Repr

/-- A control firmware bundle: whether the boot ROM verified it, its version and the SHA-384 of the bundle (R330 step 1, R375). -/
structure BundleIn where
  verified : Bool
  version  : BitVec 64
  digest   : List Byte
  deriving DecidableEq, Repr

/-- One command: a row of spec/opcode_table.json. -/
inductive Instr where
  -- stream instructions: the stream, the loop field of its word, the operand fields
  | nop (s : StreamId) (e : LoopEnd) (f : NopF)
  | halt (s : StreamId) (e : LoopEnd)
  | perm (s : StreamId) (e : LoopEnd) (f : PermF)
  | pbpc (s : StreamId) (e : LoopEnd) (f : PbpcF)
  | ldt (s : StreamId) (e : LoopEnd) (f : XferF)
  | stt (s : StreamId) (e : LoopEnd) (f : XferF)
  | gath (s : StreamId) (e : LoopEnd) (f : SluiceF)
  | scat (s : StreamId) (e : LoopEnd) (f : SluiceF)
  | bcst (s : StreamId) (e : LoopEnd) (f : SluiceF)
  | conv (s : StreamId) (e : LoopEnd) (f : ConvF)
  | pack (s : StreamId) (e : LoopEnd) (f : PackF)
  | unpk (s : StreamId) (e : LoopEnd) (f : PackF)
  | sepr (s : StreamId) (e : LoopEnd) (f : SeprF)
  | skim (s : StreamId) (e : LoopEnd) (f : SkimF)
  | skp (s : StreamId) (e : LoopEnd) (f : CombF)
  | comb (s : StreamId) (e : LoopEnd) (f : CombF)
  | drain (s : StreamId) (e : LoopEnd) (f : DrainF)
  | twait (s : StreamId) (e : LoopEnd) (f : TwaitF)
  | tsig (s : StreamId) (e : LoopEnd) (f : TsigF)
  | tadd (s : StreamId) (e : LoopEnd) (f : TaddF)
  | csend (s : StreamId) (e : LoopEnd) (f : CsendF)
  | crecv (s : StreamId) (e : LoopEnd) (f : CrecvF)
  | copen (s : StreamId) (e : LoopEnd) (f : CopenF)
  | cclos (s : StreamId) (e : LoopEnd) (ep : BitVec 12)
  | fwait (s : StreamId) (e : LoopEnd) (f : FwaitF)
  | alarm (s : StreamId) (e : LoopEnd) (f : AlarmF)
  | chk (s : StreamId) (e : LoopEnd) (f : ChkF)
  | lfen (s : StreamId) (e : LoopEnd) (scope : BitVec 3)
  -- events of the engines behind the streams
  | waitTimeout (s : StreamId)
  | setterIntake (s : StreamId)
  | setterComputationEnd (s : StreamId)
  | completionWordWrite
  -- the tick
  | rowTick (frame : Frame)
  | controlCrossingRelease
  | onLineExchange
  | frameTimerFire (n : BitVec 10)
  -- the row
  | replayRequest (frame : Frame)
  | inboundVector (vs : List FlumeIn)
  | weirRelease (s : StreamId)
  -- the Sluice and its memory ports
  | sluiceCheckPass (s : StreamId) (write : Bool)
  | sluiceRequestPass (s : StreamId) (write : Bool)
  | memoryReadRequest (port : BitVec 3)
  | memoryWriteRequest (port : BitVec 3)
  | memoryReadResponse (port : BitVec 3) (tag : BitVec 10) (stat : BitVec 2) (data : List Byte)
  | memoryWriteResponse (port : BitVec 3) (tag : BitVec 10) (stat : BitVec 2)
  -- the Pool and the patrol
  | poolWriteDrain (set : StreamId)
  | churnRekeyStep
  | patrol (store : Store) (word : Nat)
  -- the image
  | load (m : Master)
  | loadComplete
  | arm (m : Master)
  | release (m : Master)
  | initialisationComplete
  | exchange (m : Master) (frame : Frame)
  | stagingComplete
  | imageDrain (m : Master) (frame : Frame)
  | unload (m : Master) (frame : Frame)
  | drainComplete
  | abort (m : Master)
  | overlayPageIn (m : Master) (overlay : BitVec 8) (frame : Frame)
  | overlayChecked
  -- stream commands
  | start (m : Master) (s : StreamId) (frame : Frame)
  | stop (m : Master) (s : StreamId)
  | clear (m : Master) (s : StreamId)
  -- scrub and tenant
  | scrubStart (m : Master) (list : BitVec 22)
  | scrubCancel (m : Master)
  | scrubComplete
  | switch (m : Master) (tenant : BitVec 32)
  | storesCleared
  -- security
  | attest (m : Master)
  | deliver (m : Master)
  | sessionExpiry
  | securityResponse (status : BitVec 8) (data : List Byte)
  | securityFixedTime
  -- recovery
  | resume (m : Master)
  | recoveryRequest (m : Master)
  | resumeTimeout
  | probeRun (m : Master)
  | probeResult
  | sxposWrite (m : Master) (value : BitVec 32)
  | reformComplete
  | laneSpareAssign (m : Master) (word : BitVec 3) (value : BitVec 32)
  -- maker actions
  | update (m : Master) (slot : BitVec 8)
  | repair (m : Master) (set : Bool) (slot : BitVec 8)
  | resolve (m : Master) (set : Bool) (copy : BitVec 2)
  | permspare (m : Master)
  | fusewrite (m : Master) (word : BitVec 8) (value : BitVec 32)
  -- cores and registers
  | kick (m : Master) (mask : BitVec 4)
  | watchdogExpiry (c : BitVec 2)
  | remap (m : Master)
  | perfctlWrite (m : Master) (word : BitVec 3) (wide : Bool) (data : BitVec 64)
  | registerWrite (m : Master) (offset : BitVec 16) (wide : Bool) (data : BitVec 64)
  | registerCaptureRead (m : Master) (offset : BitVec 16) (wide : Bool)
  | settingStoreWrite (m : Master) (addr : BitVec 32) (data : List Byte)
  | poolWindowAccess (m : Master) (write : Bool) (addr : BitVec 26) (size : BitVec 7) (data : List Byte)
  -- the Ledger's port B
  | tallyAdd (m : Master) (n : BitVec 14) (v : BitVec 32)
  | sendAliasWrite (m : Master) (e : BitVec 12) (data : List Byte)
  | receiveAliasRead (m : Master) (e : BitVec 12)
  | timerWrite (m : Master) (n : BitVec 10) (at8 : BitVec 4) (data : List Byte)
  | endpointRecordWrite (m : Master) (e : BitVec 12) (at5 : BitVec 5) (data : List Byte)
  | detectorRecordWrite (m : Master) (n : BitVec 8) (at4 : BitVec 4) (data : List Byte)
  | ledgerWordWrite (m : Master) (offset : BitVec 21) (data : List Byte)
  -- Freeze and the IEEE 1149.1 port
  | freeze
  | freezeReadout (m : Master) (addr : BitVec 24) (size : BitVec 7)
  | idcode
  | extest
  | samplePreload
  | bypass
  | fzstat
  | fzaddr (value : BitVec 32)
  | fzdata
  -- reset and power
  | porN (level : Bool)
  | warmReq (level : Bool)
  | resetComplete
  | powerRemoved
  | retentionLoss
  | domainStateChange (d : BitVec 5)
  | pmOpAck
  | sensorReading (id : BitVec 6) (data : BitVec 16)
  -- the firmware's and the always-on block's events
  | policyPass
  | timebaseCheckpoint
  | matrixFault
  | logRecordWrite
  | hostControlRequest (m : Master) (write : Bool) (addr : BitVec 32) (size : BitVec 7) (data : List Byte)
  | bootComplete (fw : BundleIn) (repairs : List (List Byte)) (trims : List (List Byte))
  | imageCopyRewrite
  deriving DecidableEq, Repr

end Sys2Proof
end

