-- ==== Sys2Proof/Machine/State.lean ====
section
/-! DEFINITION. The state of Psiuno: every register, memory, queue, mode and pin the spec gives it, as plain data, and
the machine right after reset. The fields marked MODEL are the model's own bookkeeping and no state of the spec. -/

namespace Sys2Proof.Machine

/-- Why a command stops the model. The spec gives every input a response (R6), so no command of the table stops for
the machine's sake. -/
inductive Fault where
  /-- Raised by INBOUND_VECTOR and MEMORY_READ_RESPONSE whose data operand has not the width of its signal (R36): no
  such input exists. Safe: nothing is claimed of it. -/
  | malformedOperand
  deriving DecidableEq, Repr

/-- Why a command has no meaning in the model. -/
inductive Refusal where
  /-- Raised by an arm of `exec` that has no meaning yet, with the row's mnemonic. Safe. -/
  | notModelled (mnemonic : String)
  deriving DecidableEq, Repr

/-- The unit states (R326). -/
inductive UnitState where
  | off | reset | boot | hold | armed | running | draining | replay | recovery | limp | frozen | scrub
  deriving DecidableEq, Repr

/-- The stream states (R90). -/
inductive StreamState where
  | idle | armed | running | halted | faulted
  deriving DecidableEq, Repr

/-- The origin of a poison mark (R28). -/
inductive Origin where
  | upstream | internal
  deriving DecidableEq, Repr

/-- Time: the frame, the offset in it, the timebase and the operating point (R49, R70, R71, R385). -/
structure Clock where
  frame   : Frame
  offset  : Nat
  stamp   : BitVec 64
  tb      : BitVec 64
  /-- MODEL: what the last cycle left over of a tb, in units of 1/MHz tb. -/
  tbRem   : Nat
  /-- MODEL: control cycles passed (R11), and what is left over of one. -/
  ctl     : Nat
  ctlRem  : Nat
  /-- MODEL: ticks passed, and core cycles passed. -/
  ticks   : Nat
  cycles  : Nat
  point   : BitVec 3
  /-- The timebase as the Centre and the Control region read it in this cycle (R70). -/
  centre  : BitVec 64
  control : BitVec 64
  /-- MODEL: index of the next free value. -/
  drawn   : Nat
  deriving DecidableEq, Repr

/-- What follows Draining (R327). -/
inductive AfterDrain where
  | armed | hold
  deriving DecidableEq, Repr

/-- The unit state machine (R326) and what decides its next tick. -/
structure UnitCtl where
  state     : UnitState
  reason    : BitVec 8
  attempt   : BitVec 2
  /-- An accepted replay request for the frame in progress (R62), and one that R65 does not serve. -/
  replayReq : Bool
  thirdReq  : Bool
  /-- The RWL fields are locked (R15). -/
  locked    : Bool
  /-- MODEL: the step of R53 is open at offset 0; whether the ending frame committed at this tick. -/
  window     : Bool
  committing : Bool
  /-- Recovery causes that hold at the closing tick, by bit (R351). -/
  causes    : BitVec 5
  drainTo   : Option AfterDrain
  /-- The tick count at which DRAIN or UNLOAD took effect. -/
  drainTick : Nat
  /-- POR_N and WARM_REQ (R47), and the control cycle from which Reset's 50,000 cycles count (R329). -/
  porN      : Bool
  warmReq   : Bool
  resetAt   : Nat
  /-- An initialisation is running since this timebase (R328). -/
  initAt    : Option (BitVec 64)
  /-- An initialisation has ended, and Armed is entered at the next tick (R328). -/
  initDone  : Bool
  /-- The set-row that the Pool clear engine clears next (R275, R328). -/
  clear     : Option Nat
  /-- Recovery: the resume frame, READY, the tick at which READY was set, and whether G is a replay (R351, R353). -/
  resumeG   : Frame
  ready     : Bool
  readyTick : Nat
  gReplay   : Bool
  /-- An internal image copy read uncorrectable; its rewriting is due (R345, R351). -/
  copyBad   : Bool
  /-- Hold for want of a core is due at the next tick (R293, R301). -/
  noCore    : Bool
  /-- Hold from Recovery is due at the next tick, with its REASON (R326, R350, R351). -/
  holdDue   : Option (BitVec 8)
  /-- Limp is due at the next tick: the fast matrix has faulted in a state that is left at ticks only (R301, R326). -/
  limpDue   : Bool
  /-- The fast matrix has faulted: until Reset the fallback matrix alone serves (R300, R326). -/
  matrixOff : Bool
  deriving DecidableEq, Repr

/-- The stream context (R87). -/
structure Ctx where
  pc      : BitVec 13
  loop    : Vector (BitVec 24) 4
  lstart  : Vector (BitVec 13) 4
  state   : StreamState
  fault   : BitVec 8
  faddr   : BitVec 64
  dpos    : Vector (BitVec 64) 8
  pairsel : BitVec 256
  effseq  : BitVec 32
  latch   : BitVec 2
  deriving DecidableEq, Repr

/-- The per-stream status registers (R413). -/
structure StrmStat where
  waitTo     : BitVec 32
  fwLate     : BitVec 32
  setRef     : BitVec 32
  skNan      : BitVec 32
  headroom   : BitVec 32
  anchorMiss : BitVec 32
  protCause  : BitVec 3
  deriving DecidableEq, Repr

/-- A completion (R92, R94). -/
structure Completion where
  frame   : Frame
  offset  : Nat
  faulted : Bool
  stopped : Bool
  attempt : BitVec 2
  deriving DecidableEq, Repr

/-- A performed effect of the exactly-once rule (R64), with what a CRECV received and its status word (R117). -/
structure Effect where
  no     : BitVec 32
  recv   : List Byte
  status : List Byte
  deriving DecidableEq, Repr

/-- A fault that waits for the next tick at which a frame commits (R40, R127, R194). -/
structure FaultDue where
  pc      : BitVec 13
  code    : BitVec 8
  faddr   : BitVec 64
  cause   : BitVec 3
  /-- The position of the Sluice instruction in its stream's issue order. -/
  order   : Nat
  /-- Decided by a check pass, and not by a response. -/
  checked : Bool
  address : BitVec 64
  status  : BitVec 2
  deriving DecidableEq, Repr

/-- Where a Setter computation stands (R162, R166); a poisoned vector is discarded (R61). -/
inductive SetterPhase where
  | taken | computing | deferred | discard
  deriving DecidableEq, Repr

/-- A MODE 1 PERM in the Setter: the vector it handed over and its target (R122, R166). -/
structure SetterJob where
  pc     : BitVec 13
  slot   : BitVec 8
  sub    : BitVec 4
  dst    : List Nat
  /-- Offset of issue, then of the computation's first and last cycle. -/
  issued : Nat
  begins : Nat
  ends   : Nat
  phase  : SetterPhase
  deriving DecidableEq, Repr

/-- The Setter for one stream (R166, R167): at most one MODE 1 PERM outstanding, the results that wait for the commit
in order of computation end, and the sub-slots that the commit of this frame invalidates. -/
structure Setter where
  job        : Option SetterJob
  results    : List SetterJob
  invalidate : List Nat
  deriving DecidableEq, Repr

/-- Where a request of a Sluice instruction stands: still to form, held for want of a write buffer entry (R205), formed,
transferred, answered, or suppressed (R61). -/
inductive ReqState where
  | waiting | held | formed | sent | answered | suppressed
  deriving DecidableEq, Repr

/-- One memory block that a stream block touches: the stream block, the memory block's number pa >> 9, and for each addressed
byte in it the position j·512 + r in the instruction's order that the request serves (R193). A stream block of a SCAT or BCST
that is all FILL has one with no byte, which reads its source (R183). -/
structure BlockPlan where
  k     : Nat
  block : Nat
  /-- (byte in the memory block, position). -/
  bytes : List (Nat × Nat)
  /-- An address derives from a marked index or owner entry (R61, R435). -/
  taint : Bool
  st    : ReqState
  deriving DecidableEq, Repr

/-- Where a Sluice instruction stands (R197). -/
inductive JobPhase where
  | issued | checked | forming | formed
  deriving DecidableEq, Repr

/-- The entries of an index tensor or owner table as they held in the Pool when an instruction issued (R186): the region with the half
that reads took, the first offset, the bytes. -/
structure EntryTable where
  region : Nat
  half   : Nat
  off    : Nat
  bytes  : List Byte
  deriving DecidableEq, Repr

/-- A Sluice instruction from its issue until its traffic has ended (R196 to R205). -/
structure SluiceJob where
  /-- Position in the stream's issue order, over frames. -/
  order  : Nat
  pc     : BitVec 13
  op     : Op
  f      : SluiceF
  p0     : Nat
  eff    : BitVec 32
  frame  : Frame
  /-- Landing half of a GATH (R201); the half that holds the source of a SCAT or BCST at issue. -/
  half   : Nat
  /-- The entries that it uses (R186). -/
  tables : List EntryTable
  /-- Cycle of issue, and the cycle in which the request pass may begin (R197), as `Clock.cycles`. -/
  at_    : Nat
  from_  : Nat
  phase  : JobPhase
  /-- Issued by an attempt that was rolled back, and not yet issued again (R204). -/
  recorded : Bool
  /-- Outcome of the check pass: the requests in the order of R197, the filled positions and their byte (R183, R193). -/
  plan   : List BlockPlan
  fills  : List Nat
  fill   : Byte
  /-- Positions whose landing is not complete (R203). -/
  left   : List Nat
  /-- Memory-side bytes that have arrived for an element not yet whole, by position (R208, R225): a list of what came, the
  newest first, and no memory in canonical form. -/
  raw    : Mem
  /-- Answered blocks whose landing waits for an earlier write instruction to form its requests (R208): the block, the
  bytes served and the data. -/
  defer  : List (Nat × List (Nat × Nat) × List Byte)
  /-- Key and class of the memory region (R39, R211). -/
  key    : BitVec 8
  remote : Bool
  /-- The check pass failed: the instruction transfers and lands nothing (R191, R192). -/
  failed : Bool
  /-- Its stream has completed since in a frame that committed (R210). -/
  gone   : Bool
  deriving DecidableEq, Repr

/-- Whose memory request it is; a block of the loader or of an overlay by its number in the image (R319), a write of the
scrub engine by its entry (R217). -/
inductive Requester where
  | stream (s : StreamId) (order : Nat) | loader (gen step m : Nat) | overlay (gen m : Nat) | scrub (entry : Nat)
  deriving DecidableEq, Repr

/-- A memory request (R39, R193). -/
structure Req where
  from_  : Requester
  block  : Nat
  key    : BitVec 8
  remote : Bool
  /-- The request's number in its stream, direction and frame (R198), and the tick count and cycle at which it was
  formed (R199, R205). -/
  num    : Nat
  tick   : Nat
  formed : Nat
  /-- Read: (byte in the block, position served). -/
  bytes  : List (Nat × Nat)
  /-- Write: (byte in the block, value); exactly the enabled bytes. -/
  cells  : Mem
  /-- A request of the image that an exchange replaced (R338), or a write of a scrub that was cut off (log entry 52). -/
  old    : Bool
  deriving DecidableEq, Repr

/-- An outstanding tag (R39): its request, and the timebase of its transfer (R212). -/
structure Tag where
  tag    : BitVec 10
  write  : Bool
  req    : Req
  sentTb : BitVec 64
  /-- A response taken while Frozen, not landed (R393). -/
  held   : Option (BitVec 2 × List Byte)
  deriving DecidableEq, Repr

/-- An entry of a port's write buffer (R205). -/
structure WriteEntry where
  stream   : StreamId
  order    : Nat
  block    : Nat
  num      : Nat
  cells    : Mem
  tick     : Nat
  answered : Bool
  deriving DecidableEq, Repr

/-- One memory port (R199, R205): its two queues in the order of R199, its outstanding tags, the tags whose response was
transferred in the cycle given, its write buffer, and the requests presented on its two channels with their tags, which are
held until their transfer (R37). -/
structure Port where
  reads  : List Req
  writes : List Req
  tags   : List Tag
  freed  : List (BitVec 10 × Nat)
  wbuf   : List WriteEntry
  shownR : Option (Req × BitVec 10)
  shownW : Option (Req × BitVec 10)
  /-- The cycles after the last transfer on each request channel. -/
  afterR : Nat
  afterW : Nat
  deriving DecidableEq, Repr

/-- A write of the Ledger's port A on its way (R113). -/
inductive LedgerOp where
  | tsig (tally : BitVec 14) (cnt : BitVec 4)
  | tadd (tally : BitVec 14) (value : BitVec 32)
  | csend (ep : BitVec 12) (msg : List Byte)
  | copen (ep peer : BitVec 12)
  | cclos (ep : BitVec 12)
  | alarm (timer : BitVec 10) (kind : BitVec 2) (carry : Bool) (tally period : BitVec 14) (target : BitVec 64)
  deriving DecidableEq, Repr

/-- A product on its way to a well (R251). -/
inductive Product where
  | nan | inf (neg : Bool) | zero
  /-- ± m·2^q, with e the exponent of the product. -/
  | fin (neg : Bool) (m : Nat) (q : Int)
  deriving DecidableEq, Repr

/-- What a result of an instruction has replaced in a register, while a later slab of it may still raise a fault, so that it has no effect
on any destination (R92): the bytes by local lane, the in-use flag, the mark, whether the frame had written the register, and its
uncorrectable words. -/
structure Undone where
  reg     : BitVec 8
  cells   : Mem
  used    : Bool
  mark    : Option Origin
  written : Bool
  bad     : List Nat
  deriving DecidableEq, Repr

/-- What arrives in a later cycle (R26, R113). -/
inductive Arrival where
  /-- Slab `i` of an instruction is read (R107): the PC, loop counters and frame at issue, the latency, the source registers
  that writes before it in program order have yet to reach, once for each such write, the contents of source registers that
  a later instruction's write has met before the read (R108), and what its earlier slabs' results have replaced (R92). -/
  | slab (op : Op) (i : Nat) (pc : BitVec 13) (loop : Vector (BitVec 24) 4) (frame : Frame) (lat : Nat) (early : List (BitVec 8))
      (held : List (BitVec 8 × List Byte × Option Origin)) (undo : List Undone)
  /-- A tile register becomes readable: local lanes and their bytes, and the mark of the result. -/
  | tile (reg : BitVec 8) (cells : Mem) (mark : Option Origin)
  /-- A landed vector becomes readable in its register (R26, R28). -/
  | landing (reg : BitVec 8) (cells : Mem) (mark : Option Origin)
  | ledger (op : LedgerOp) (eff : BitVec 32) (pc : BitVec 13)
  /-- The step of a SKP or a COMB (R250). -/
  | skp (products : List (Nat × Product))
  | comb (products : List (Nat × Product))
  /-- A fault that is decided in a later cycle than the issue (R138, R141, R258). -/
  | fault (code : BitVec 8) (faddr : BitVec 64) (cause : BitVec 3) (pc : BitVec 13)
  /-- A conservation check that fails (R342): the destination and slot·16 + sub-slot, or 0xFFFF. -/
  | conserve (reg : BitVec 8) (slot : BitVec 16)
  /-- One further occupancy cycle of a SEPR or SKIM (R235): the PC at issue, bytes read so far and the mark so far. -/
  | sepr (f : SeprF) (cycle : Nat) (pc : BitVec 13) (got : List Byte) (mark : Option Origin)
  | skim (f : SkimF) (addr : Nat) (cycle : Nat) (pc : BitVec 13) (got : List Byte) (mark : Option Origin)
  /-- One further occupancy cycle of a DRAIN (R250): the PC at issue, the results so far. -/
  | drain (f : DrainF) (cycle : Nat) (pc : BitVec 13) (got : List Nat)
  /-- SEPR's output area becomes readable (R237, R239). -/
  | output (region : BitVec 10) (base : Nat) (bytes : List Byte) (late : Bool) (mark : Option Origin)
  /-- Landed bytes become readable (R202): Pool cells, and the job and positions they complete. -/
  | land (order : Nat) (cells : Mem) (positions : List Nat)
  /-- A weir drives its flumes in the release cycle (R27). -/
  | release (lanes : List Byte) (poison : Bool) (slip : Bool)
  /-- ROW_SLIP in the cycle after a sample whose check failed (R343). -/
  | slip
  deriving DecidableEq, Repr

/-- An arrival with its cycle and stream. -/
structure Pend where
  due    : Nat
  stream : StreamId
  act    : Arrival
  deriving DecidableEq, Repr

/-- Pool bytes that an instruction of this frame writes: its own stream sees them from cycle `own` on, every other agent from
`others` on (R113, R125, R272). -/
structure Stored where
  region : Nat
  off    : Nat
  len    : Nat
  own    : Nat
  others : Nat
  deriving DecidableEq, Repr

/-- A stream: its context and snapshot, its status registers, and the sequencer's work of the frame. -/
structure Stream where
  ctx       : Ctx
  snap      : Ctx
  stat      : StrmStat
  shown     : StrmStat
  refused   : Bool
  noEffect  : Bool
  startLate : Bool
  /-- A released Start that waits for its frame (R91) or for its domains (R383), and whether the tick that released it found
  its frame current or past, which makes it late (R91). -/
  start     : Option Frame
  startNow  : Bool
  /-- The first offset at which the next instruction may issue (R95, R113). -/
  next      : Nat
  /-- The completion in this frame (R92), and whether the opening tick found the stream Running (R58). -/
  done      : Option Completion
  opened    : Bool
  /-- Where the sequencer first reached a waiting instruction: tick count and offset (R135, R139), and its value at the
  opening tick. -/
  reached   : Option (Nat × Nat)
  reachedSnap : Option (Nat × Nat)
  /-- The deadline that reaching a TWAIT or CRECV fixed, all ones for none (R135), and whether an arrival in time has
  been observed, once evaluated (R80, R284). -/
  waitDl    : Option (BitVec 64)
  waitOk    : Option Bool
  pastEnd   : Bool
  /-- An internal image copy of the stream read uncorrectable in this frame (R345). -/
  stuck     : Bool
  effects   : List Effect
  /-- Effects that this attempt suppressed (R61). -/
  suppressed : Nat
  faultsDue : List FaultDue
  /-- The registers in the two operand reuse latches, the last used first (R109). -/
  latches   : List (BitVec 8)
  setter    : Setter
  setterSnap : Setter
  jobs      : List SluiceJob
  /-- Next position in the stream's Sluice issue order, and its value at the opening tick. -/
  order     : Nat
  orderSnap : Nat
  /-- Requests formed in this frame, by direction (R198). -/
  formedR   : Nat
  formedW   : Nat
  /-- Ends of the last occupancies of this frame by unit (R113, R234, R250, R271), and the cycle from which the wells are
  ready. -/
  cascadeEnd : Nat
  poolEnd   : Nat
  poolReadEnd : Nat
  formatEnd : Nat
  sepEnd    : Nat
  skimEnd   : Nat
  basinEnd  : Nat
  basinReady : Nat
  /-- Offset of issue of the last instruction counted for a late landing (R203). -/
  lateSeen  : Option Nat
  /-- Registers whose share a write of this frame has reached, once for each write (R27). -/
  arrived   : List (BitVec 8)
  /-- Pool writes of this frame that some agent does not see yet. -/
  stored    : List Stored
  deriving DecidableEq, Repr

/-- A word of a set's write buffer: its bytes at their physical addresses, and the cycles of the frame from which the
owner and the others see it (R113, R125, R272). -/
structure PoolEntry where
  set    : StreamId
  owner  : StreamId
  cells  : Mem
  own    : Nat
  others : Nat
  deriving DecidableEq, Repr

/-- The re-key in progress (R277). -/
structure Rekey where
  region : BitVec 10
  key    : BitVec 64
  frame  : Frame
  step   : Nat
  deriving DecidableEq, Repr

/-- The Churn (R276, R277): counts of the frame and hot runs by copy (region·16 + set), keys in force with their generations
(log entry 45), the queue, the tick count of the frame of the last step (R52); ENABLE and THRESH as the last policy pass
put them in force (R415). -/
structure Churn where
  enable    : Bool
  thresh    : BitVec 8
  accesses  : Sparse Nat
  conflicts : Sparse Nat
  runs      : Sparse Nat
  keys      : Sparse (BitVec 64)
  gens      : Sparse (BitVec 64)
  queue     : List (BitVec 10)
  step      : Option Rekey
  stepTick  : Option Nat
  deriving DecidableEq, Repr

/-- The Pool (R260 to R277). -/
structure Pool where
  bytes   : Mem
  wbuf    : List PoolEntry
  marks   : Sparse Origin
  /-- Current half of each persistent region, and the persistent regions written in this frame (R265, R434). -/
  half    : Sparse Nat
  written : List Nat
  churn   : Churn
  deriving DecidableEq, Repr

/-- A slab that a partition passes through the Cascade (R83, R145): in element form, with the sub-slot, or without one the map, that sets
the partition's switches; the register that it goes to, its latency and its mark. -/
structure Passing where
  stream : StreamId
  slot   : Option Nat
  map    : BitVec 65
  slab   : List Byte
  reg    : BitVec 8
  lat    : Nat
  mark   : Option Origin
  deriving DecidableEq, Repr

/-- MODEL: what the present core cycle has taken: the banks whose cycle on the instruction port is gone (R271), each once for every cycle
that an access takes of it (R267), and, on a Cascade with defects, the slabs that it passes, which leave it together as the cycle ends
(R83). -/
structure CycleUse where
  banks   : List Nat
  passing : List Passing
  deriving DecidableEq, Repr

/-- Nothing taken. -/
def CycleUse.none : CycleUse := { banks := [], passing := [] }

/-- A well (R245) with its arrival count (R255). -/
structure Well where
  acc    : BitVec 182
  anchor : BitVec 10
  count  : BitVec 10
  deriving DecidableEq, Repr

/-- The wells, the pointers of the persistent ones, those accessed and those written in this frame, and the streams whose wells
are marked (R245 to R248, R259). All by physical or local well number as the field says. -/
structure Basin where
  wells   : Sparse Well
  /-- stream·65,536 + local well: 1 when the second copy is current. -/
  ptr     : Sparse Nat
  touched : List Nat
  written : List Nat
  marks   : Sparse Origin
  deriving DecidableEq, Repr

/-- The Setting Store (R147 to R151) and the spare stage (R159 to R161). -/
structure Settings where
  bytes  : Mem
  /-- slot·16 + sub-slot of every valid sub-slot, ascending. -/
  valid  : List Nat
  /-- Sub-slots staged for an exchange (R336). -/
  staged : List Nat
  sxpos  : BitVec 5
  /-- The form the Store is in while a re-form runs (R161). -/
  reform : Option (BitVec 5)
  deriving DecidableEq, Repr

/-- The Ledger (R282) and which timers count as Armed (R77), which of them with a past or current target (R76). -/
structure Ledger where
  bytes     : Mem
  armed     : List Nat
  lateArmed : List Nat
  /-- The cycle of the last access of port B (R284). -/
  portAt    : Option Nat
  deriving DecidableEq, Repr

/-- What the loader keeps of an overlay section (R320 step 6). -/
structure OverlayInfo where
  index  : BitVec 8
  source : BitVec 64
  /-- Image byte of the section's first byte. -/
  offset : Nat
  size   : Nat
  digest : List Byte
  stream : StreamId
  dest   : BitVec 13
  /-- MODEL: the section's header bytes and instructions, which admission judges (R333, R436). -/
  head   : List Byte
  words  : List (BitVec 128)
  deriving DecidableEq, Repr

/-- An image store (R319 to R321). -/
structure ImageStore where
  bytes    : Mem
  present  : Bool
  admitted : Bool
  key      : BitVec 8
  overlays : List OverlayInfo
  deriving DecidableEq, Repr

/-- A landing or release entry (R317). -/
structure SchedEntry where
  stream : StreamId
  offset : Nat
  reg    : BitVec 8
  deriving DecidableEq, Repr

/-- The internal stores that an image fills (R328, R336). -/
structure Bank where
  streamTable : Mem
  /-- stream·8,192 + index; an unlisted entry holds `fill`: HALT once an image has filled the buffers (R315, R328), 0 where
  Reset or domain CS's Off has cleared them (R329, R379). -/
  programs    : Sparse (BitVec 128)
  fill        : BitVec 128
  descs       : Mem
  memRegions  : Mem
  poolRegions : Mem
  landings    : List SchedEntry
  releases    : List SchedEntry
  /-- stream·256 + entry; an unlisted entry is 0 (R228). -/
  seeds       : Sparse (BitVec 64)
  deriving DecidableEq, Repr

/-- A load in progress (R319, R320): which range is being fetched (0 the header, 1 the directory, 2 + i the i-th section
in the order of steps 5 and 6), the blocks of it that were asked for and that came, the overlay buffer at its image
offsets, and the outcome of the checks once it is known. -/
structure Loader where
  gen     : Nat
  source  : BitVec 64
  key     : BitVec 8
  step    : Nat
  asked   : List Nat
  got     : List Nat
  ovl     : Mem
  verdict : Option (BitVec 8 × BitVec 32)
  deriving DecidableEq, Repr

/-- An overlay command (R334). -/
structure OverlayCmd where
  gen     : Nat
  overlay : BitVec 8
  frame   : Frame
  /-- The control cycle of the command's enqueue, and released to the tick side (R67). -/
  at_     : Nat
  ready   : Bool
  asked   : List Nat
  got     : List Nat
  bytes   : Mem
  checked : Bool
  /-- OVERLAY_FAULT cause that is due at the next tick (R335). -/
  bad     : Option (BitVec 2)
  deriving DecidableEq, Repr

/-- Image commands (R327). -/
inductive ImgCmd where
  | load | arm | release | exchange | drain | unload | abort
  deriving DecidableEq, Repr

/-- An accepted EXCHANGE (R336, R337). -/
structure Exchange where
  frame  : Frame
  staged : Bool
  deriving DecidableEq, Repr

/-- The image stores and the loader. -/
structure Image where
  active   : ImageStore
  shadow   : ImageStore
  bank     : Bank
  staged   : Bank
  loader   : Option Loader
  overlays : List OverlayCmd
  /-- MODEL: loads and overlay commands so far, which number their requests. -/
  gen      : Nat
  /-- DRAIN and UNLOAD that wait for their frame. -/
  waiting  : List (ImgCmd × Frame)
  exchange : Option Exchange
  deriving DecidableEq, Repr

/-- An event record (R309). -/
structure LogRec where
  seq   : BitVec 64
  tb    : BitVec 64
  frame : Frame
  kind  : BitVec 16
  role  : BitVec 2
  agent : BitVec 8
  addr  : BitVec 64
  value : BitVec 64
  aux   : BitVec 64
  code  : BitVec 64
  /-- MODEL: the control cycle of its entry into the queue (R311). -/
  at_   : Nat
  deriving DecidableEq, Repr

/-- The log queue, the slots by SEQ mod 8,192 with their commit words, hardware records lost since the last log-overflow
record, and the pace of the service (R309 to R311). -/
structure Log where
  queue  : List LogRec
  slots  : List (Nat × LogRec)
  commit : Sparse (BitVec 64)
  lost   : BitVec 64
  /-- The first control cycle in which the service may write the next record (R311). -/
  nextAt : Nat
  deriving DecidableEq, Repr

/-- An entry of the Control crossing (R67). -/
inductive Crossing where
  | start (s : StreamId) (frame : Frame)
  | stop (s : StreamId)
  | clear (s : StreamId)
  | image (c : ImgCmd) (frame : Frame)
  | freeze
  | sxpos (v : BitVec 5)
  | laneSpare (word : BitVec 3) (v : BitVec 32)
  | probe
  | resume
  | recovery
  | record (r : LogRec)
  deriving DecidableEq, Repr

/-- A crossing entry with the control cycle of its enqueue. -/
structure XEntry where
  at_ : Nat
  act : Crossing
  deriving DecidableEq, Repr

/-- A monotonic counter cell (R373): its value, and whether its CRC matches. -/
structure Cell where
  value  : BitVec 64
  intact : Bool
  deriving DecidableEq, Repr

/-- The always-on block's counters and binding (R357, R358, R370 to R374). -/
structure AlwaysOn where
  /-- Two cells of each of the counters 0 to 3; counters 4 to 7 read 0. -/
  cellA      : Vector Cell 4
  cellB      : Vector Cell 4
  tenant     : BitVec 32
  consent    : BitVec 32
  continuity : Bool
  retLost    : Bool
  truncSeq   : BitVec 64
  /-- A truncation since the last tenant switch (R367). -/
  truncated  : Bool
  deriving DecidableEq, Repr

/-- The fuses that the spec names (R359, R367, R395) and the fuse words (R427). -/
structure Fuses where
  words        : Sparse (BitVec 32)
  debugDisable : Bool
  makerLock    : Bool
  lifeCycle    : BitVec 8
  revision     : BitVec 4
  manufacturer : BitVec 11
  deriving DecidableEq, Repr

/-- What the firmware has a security request for (R360, R368, R376, R377, R332, R348, R427). -/
inductive SecUse where
  | attestGen | attestSign | deliverEcdh | deliverInstall
  | switchErase | switchMap
  | updateFetch (slot : BitVec 8) | updateVerify
  | repairFetch (set : Bool) (slot : BitVec 8) | repairVerify (set : Bool) | repairWrite (set : Bool) (copy : Nat)
  | resolveWrite (set : Bool) (chosen copy : Nat) | permWrite (copy : Nat) | fuseWrite (word : BitVec 8) (value : BitVec 32)
  | bootFetch | bootVerify | bootRead (set : Bool) (copy : Nat)
  deriving DecidableEq, Repr

/-- A security request on SEC_REQ (R46, R364, R365): its beats that have been transferred, and the timebase of the last beat's
transfer. -/
structure SecReq where
  opcode   : BitVec 8
  operands : List Byte
  sent     : Nat
  sentTb   : Option (BitVec 64)
  use      : SecUse
  deriving DecidableEq, Repr

/-- Security sessions and the mailbox (R368, R431, R432). -/
structure Security where
  req     : Option SecReq
  /-- The response's STATUS, its data and its arrival (R365). -/
  rsp     : Option (BitVec 8 × List Byte × BitVec 64)
  status  : BitVec 8
  busy    : Bool
  /-- The open session: when it opened, and the report digest D. -/
  session : Option (BitVec 64 × List Byte)
  mailbox : Mem
  /-- The operands of KEY_INSTALL as DELIVER found them: D and every record (R368). -/
  offer   : List Byte
  /-- What a sequence of security requests carries on: a report before its signature, a fetched bundle or set. -/
  draft   : List Byte
  deriving DecidableEq, Repr

/-- An entry of a scrub list (R216). -/
structure ScrubEntry where
  base : BitVec 64
  nblk : Nat
  key  : BitVec 8
  deriving DecidableEq, Repr

/-- Phases of a tenant switch that are not yet ended (R360). -/
inductive SwitchPhase where
  | begin | cleared | keysErased | mapped | scrubbing
  deriving DecidableEq, Repr

/-- The scrub engine (R216, R217, R417) and the tenant switch (R360). -/
structure Scrub where
  status   : BitVec 3
  reason   : BitVec 4
  refused  : Bool
  entry    : BitVec 12
  errData  : BitVec 16
  errTgt   : BitVec 16
  list     : List ScrubEntry
  /-- Writes transferred by port, of which the blocks follow (R217); the cycles of the recent ones by port. -/
  sent     : Sparse Nat
  recent   : List (Nat × Nat)
  /-- A cancel has stopped the forming of writes (R217). -/
  stopped  : Bool
  /-- Entries whose first failing address is recorded. -/
  failed   : List Nat
  /-- Master whose act started it. -/
  role     : BitVec 2
  switch   : Option (SwitchPhase × BitVec 32)
  deriving DecidableEq, Repr

/-- Privilege modes of a core (R291). -/
inductive CoreMode where
  | machine | supervisor | user
  deriving DecidableEq, Repr

/-- What the spec gives a core besides its functions: whether it is held in reset (R293, R330), and where it begins execution and
in which mode once it is released (R291). Its store buffer is part of `held` (log entry 20). -/
structure CoreCtx where
  inReset : Bool
  pc      : BitVec 64
  mode    : CoreMode
  /-- The 32 KiB instruction cache: the bytes that it holds, by address (R291). -/
  icache  : Mem
  deriving DecidableEq, Repr

/-- The cores, working SRAM and maker state (R291 to R294, R425, R426). -/
structure Cores where
  ctx    : Vector CoreCtx 4
  f0     : BitVec 2
  f1     : BitVec 2
  f2     : BitVec 2
  stby   : BitVec 2
  noStby : Bool
  failed : BitVec 4
  /-- Timebase of each core's last watchdog write. -/
  kicked : Vector (BitVec 64) 4
  remap  : Bool
  testMode : Bool
  sram   : Mem
  /-- The running control firmware bundle (R367), and a staged one's version (R376). -/
  fwVersion : BitVec 64
  fwDigest  : List Byte
  fwStaged  : Option (BitVec 64 × List Byte)
  /-- The boot ROM has verified the control firmware (R294, R330 step 1). -/
  verified : Bool
  /-- Boot has assigned the functions (R330 step 2). -/
  assigned : Bool
  deriving DecidableEq, Repr

/-- Repair maps and trim records: the three copies as Boot found them, what of them is applied (R331, R347, R390). -/
structure Repair where
  maps   : List (List Byte)
  trims  : List (List Byte)
  /-- Step 3 of Boot has obtained the copies of both sets (R330). -/
  setsRead : Bool
  /-- Repaired Pool columns: bank, column, spare. -/
  columns : List (Nat × Nat × Nat)
  /-- PSI_LANESPARE words (R420), and a write that takes effect at the next tick (R348). -/
  lanes   : Vector (BitVec 32) 8
  lanesNext : List (BitVec 3 × BitVec 32)
  offsets : Sparse (BitVec 16)
  limits  : Sparse (BitVec 16)
  bootstat : BitVec 64
  /-- Status and BUSY of PSI_FWCTL and PSI_FUSECTL (R427). -/
  fwStatus   : BitVec 8
  fwBusy     : Bool
  fuseStatus : BitVec 8
  fuseBusy   : Bool
  deriving DecidableEq, Repr

/-- A conservation failure (R342, R422). -/
structure CFail where
  no    : Nat
  slot  : BitVec 16
  part  : BitVec 4
  off   : BitVec 11
  frame : Frame
  /-- MODEL: the cycle in which it was recorded (R16). -/
  cycle : Nat
  deriving DecidableEq, Repr

/-- Recovery registers (R422, R424) and the check history (R344). -/
structure Recov where
  cause  : BitVec 5
  /-- Failures since the last clearing read, the first of which the C fields show; how many there have been. -/
  fails  : List CFail
  failNo : Nat
  probeFail : BitVec 26
  probeDone : Bool
  probeLane : BitVec 13
  probePass : BitVec 2
  /-- A probe is due, or runs in the frame of this tick count. -/
  probeDue  : Bool
  probeTick : Option Nat
  /-- SXPOS or PSI_LANESPARE has changed in this Recovery: the next probe confirms (R350). -/
  acted     : Bool
  /-- Frame attempts counted, and the attempt of the last failed check by partition (R344). -/
  attempts  : Nat
  lastFail  : Sparse Nat
  deriving DecidableEq, Repr

/-- Power (R45, R378 to R390). -/
structure Power where
  /-- Requested and current state of each domain, 0 for On (R45). -/
  req     : Sparse (BitVec 2)
  cur     : Sparse (BitVec 2)
  /-- Domains whose demand has begun a wake that the fields' disagreement holds back (R383). -/
  wake    : List Nat
  opReq   : BitVec 3
  opFrame : Frame
  /-- A request is presented; it was acknowledged, and when (frame, offset). -/
  opOut   : Bool
  opAck   : Bool
  opLate  : Bool
  /-- Tick count of the last request (R386). -/
  opTick  : Option Nat
  sense   : Sparse (BitVec 16)
  /-- Consecutive passes that each sensor was hot, and that all were cool (R387). -/
  hot     : Sparse Nat
  cool    : Nat
  /-- Consecutive frames out of demand by domain (R382). -/
  idle    : Sparse Nat
  /-- PSI_WAKEBUDGET as the last policy pass put it in force (R415). -/
  budgets : Vector (BitVec 16) 16
  /-- Counters as the last pass saw them (R408). -/
  seenMem  : BitVec 32
  seenLand : BitVec 32
  /-- The next multiple of 1,000,000 tb (R307). -/
  passAt  : BitVec 64
  /-- The count of ticks when a lane array last came out of Off (R384). -/
  onTick  : Option Nat
  deriving DecidableEq, Repr

/-- The performance counters (R397, R398, R429). -/
structure Perf where
  words  : Vector (BitVec 32) 8
  next   : Option (Vector (BitVec 32) 8)
  counts : Vector (BitVec 48) 8
  shown  : Vector (BitVec 48) 8
  on     : Bool
  /-- START and STOP have yet to take effect (R327, R397). -/
  startDue : Bool
  stopDue  : Bool
  deriving DecidableEq, Repr

/-- Freeze and the debug port (R391 to R396). -/
structure Debug where
  frozen : Bool
  frame  : Frame
  /-- The unit state at the freeze tick, MODEL. -/
  was    : UnitState
  /-- The instruction register of the IEEE 1149.1 port. -/
  ir     : BitVec 8
  addr   : BitVec 24
  page   : BitVec 4
  /-- The last read issued, whose data returned or not, and the control cycle of its issue. -/
  read   : List Byte
  readAt : Option Nat
  rdmiss : Bool
  /-- What the last Capture-DR put into the selected data register. -/
  dr     : List Byte
  deriving DecidableEq, Repr

/-- A response to a control-side access (R42): HS_STAT to the host, an access fault to a core where it is not 0; the control
cycle from which it may be presented (R4). -/
structure Resp where
  to_  : Master
  stat : BitVec 2
  data : List Byte
  due  : Nat
  deriving DecidableEq, Repr

/-- A decision of the firmware that changes the unit state and is not bound to a tick: the end of Boot, its refusal of the firmware, its
return after a repair, and the two ends of a switch (R326, R330, R332, R360, R377). -/
inductive FwAct where
  | bootRest | bootRefused | bootAgain
  | switchBound (tenant : BitVec 32)
  | switchFail (code : Nat)
  deriving DecidableEq, Repr

/-- An act that waits: an access that was taken and waits for room in the log (`log`; R304, R311), for an earlier one of its
source, for its port, or for HC_READY (R42); a request of F1 that waits for its record, a decision of the firmware, and the record of a firmware act (R304, R311). -/
inductive HeldAct where
  | access (m : Master) (write : Bool) (addr size : Nat) (data : List Byte) (log : Bool)
  | domain (d : Nat) (v : BitVec 2)
  | point (p : BitVec 3)
  | record (r : LogRec)
  | firmware (core : BitVec 2) (a : FwAct)
  deriving DecidableEq, Repr

/-- The levels of the input pins that no command of the table moves (R36): HS_READY, SEC_REQ_READY, AO_MAIN_OK and
AO_BACKUP_OK (log entry 46). -/
structure Inputs where
  hsReady  : Bool
  secReady : Bool
  mainOk   : Bool
  backupOk : Bool
  deriving DecidableEq, Repr

/-- The PSI_ registers that no other part of the state holds (17). -/
structure Regs where
  imgSrc    : BitVec 64
  imgCode   : BitVec 8
  imgDetail : BitVec 32
  imgLate   : Bool
  imgStale  : Bool
  imgRefused : Bool
  ovFull    : Bool
  discard   : BitVec 16
  alert     : BitVec 8
  partLimit : BitVec 3
  memRead   : BitVec 16
  memWrite  : BitVec 16
  latLocal  : BitVec 16
  latRemote : BitVec 16
  fastest   : BitVec 3
  slowest   : BitVec 3
  forceSlow : Bool
  tmax      : BitVec 16
  churnOn   : Bool
  churnAllow : Bool
  thresh    : BitVec 8
  budgets   : Vector (BitVec 16) 16
  /-- Selection fields by master id (R402). -/
  setSel    : Sparse (BitVec 8)
  tileSel   : Sparse (BitVec 4)
  logIdx    : Sparse (BitVec 64)
  /-- Captures by master id: the register's offset, its words (R400) and the failure count at the capture (R422). -/
  capture   : List (Nat × Nat × List (BitVec 32) × Nat)
  /-- Counters by offset, and their values before the present cycle (R433). -/
  counts    : Sparse (BitVec 32)
  countsWas : Sparse (BitVec 32)
  /-- MODEL: W1C bits that hardware has set in the present cycle (R16), by register offset·32 + bit. -/
  fresh     : List Nat
  deriving DecidableEq, Repr

/-- The outbound pins of the cycle (R29, R36, R58): flume data by flume·512 + byte, sidebands, ROW_SLIP; the control-side
responses that are outstanding, the oldest first (R37, R42). -/
structure Pins where
  data : Mem
  sb   : Vector (BitVec 32) 16
  slip : Bool
  /-- MODEL: the releases of the cycle, by stream, POISON and slip, which its end counts (R60, R343, R397). -/
  drove : List (StreamId × Bool × Bool)
  resp : List Resp
  deriving DecidableEq, Repr

/-- How a defective switch acts (R83, 14): stuck in a position, or delivering one lane's byte on both outputs when
crossed. -/
inductive Defect where
  | straight | crossed | copyLow | copyHigh
  deriving DecidableEq, Repr

/-- The state of Psiuno. -/
structure State where
  cfg       : Configuration
  /-- Fast-matrix register slices that the integration of a Psiuno-2 or Psiuno-4 places (R4, R405). -/
  slices    : BitVec 4
  clock     : Clock
  unit      : UnitCtl
  streams   : Vector Stream 16
  /-- Completed streams whose word is not written (R54), and the cycle from which the collector may write. -/
  collector : List (StreamId × Completion)
  collectAt : Nat
  inflight  : List Pend
  /-- Tile registers: register·8,192 + global lane (R99); in-use flags and marks by stream·256 + register (R28, R279);
  persistent shares written in this frame (R434). -/
  tiles     : Mem
  tileUse   : List Nat
  tileMarks : Sparse Origin
  tilesWritten : List Nat
  cycle     : CycleUse
  pool      : Pool
  settings  : Settings
  basin     : Basin
  ledger    : Ledger
  ports     : Vector Port 8
  image     : Image
  crossing  : List XEntry
  regs      : Regs
  cores     : Cores
  repair    : Repair
  recov     : Recov
  log       : Log
  ao        : AlwaysOn
  fuses     : Fuses
  sec       : Security
  scrub     : Scrub
  power     : Power
  perf      : Perf
  dbg     : Debug
  pins      : Pins
  inputs    : Inputs
  held      : List HeldAct
  /-- The hardware's defects: stage (25 for SX, 32 above it for the spare of a replaced lane cell) and switch (uncut
  numbering) of the Cascade with how it acts; words that read uncorrectable, words with one flipped bit, and the bytes of such
  words that have been written since (R345, R346). A re-formed or repaired part keeps its entry and is no longer in the path. -/
  defects   : List (Nat × Nat × Defect)
  eccBad    : List (Store × Nat)
  eccOne    : List (Store × Nat)
  eccCover  : List (Store × Nat)
  pending   : List Instr
  deriving DecidableEq, Repr

/-- The context of an Idle stream (R89): every field 0. -/
def Ctx.idle : Ctx :=
  { pc := 0, loop := Vector.replicate 4 0, lstart := Vector.replicate 4 0, state := .idle, fault := 0, faddr := 0,
    dpos := Vector.replicate 8 0, pairsel := 0, effseq := 0, latch := 0 }

/-- The per-stream status registers at reset (R413). -/
def StrmStat.zero : StrmStat :=
  { waitTo := 0, fwLate := 0, setRef := 0, skNan := 0, headroom := 0, anchorMiss := 0, protCause := 0 }

/-- A stream at reset. -/
def Stream.idle : Stream :=
  { ctx := .idle, snap := .idle, stat := .zero, shown := .zero, refused := false, noEffect := false,
    startLate := false, start := none, startNow := false, next := 0, done := none, opened := false, reached := none,
    reachedSnap := none, waitDl := none, waitOk := none, pastEnd := false, stuck := false, effects := [], suppressed := 0, faultsDue := [], latches := [],
    setter := { job := none, results := [], invalidate := [] },
    setterSnap := { job := none, results := [], invalidate := [] },
    jobs := [], order := 0, orderSnap := 0, formedR := 0, formedW := 0, cascadeEnd := 0, poolEnd := 0, poolReadEnd := 0, formatEnd := 0, sepEnd := 0, skimEnd := 0, basinEnd := 0,
    basinReady := 0, lateSeen := none, arrived := [], stored := [] }

/-- A clear well (R246). -/
def Well.clear : Well := { acc := 0, anchor := 0, count := 0 }

/-- An empty image store (R329). -/
def ImageStore.empty : ImageStore := { bytes := [], present := false, admitted := false, key := 0, overlays := [] }

/-- Cleared internal image stores (R329). -/
def Bank.empty : Bank :=
  { streamTable := [], programs := [], fill := 0, descs := [], memRegions := [], poolRegions := [], landings := [],
    releases := [], seeds := [] }

/-- An idle Churn. -/
def Churn.idle : Churn := { enable := false, thresh := 0x40, accesses := [], conflicts := [], runs := [], keys := [], gens := [], queue := [], step := none, stepTick := none }

/-- The Pool, cleared. -/
def Pool.zero : Pool := { bytes := [], wbuf := [], marks := [], half := [], written := [], churn := .idle }

/-- A memory port with nothing queued or outstanding. -/
def Port.idle : Port := { reads := [], writes := [], tags := [], freed := [], wbuf := [], shownR := none, shownW := none, afterR := 0, afterW := 0 }

/-- The registers of 17 at their reset values (R407 to R415, R433). -/
def Regs.reset : Regs :=
  { imgSrc := 0, imgCode := 0, imgDetail := 0, imgLate := false, imgStale := false, imgRefused := false,
    ovFull := false, discard := 0, alert := 0, partLimit := 4, memRead := 0, memWrite := 0, latLocal := 65535,
    latRemote := 65535, fastest := 0, slowest := 7, forceSlow := false, tmax := 0x3200, churnOn := false,
    churnAllow := false, thresh := 0x40, budgets := Vector.replicate 16 0, setSel := [], tileSel := [], logIdx := [],
    capture := [], counts := [], countsWas := [], fresh := [] }

/-- A core in reset (R291): it will begin at address 0 in machine mode. -/
def CoreCtx.reset : CoreCtx := { inReset := true, pc := 0, mode := .machine, icache := [] }

/-- A core released from reset (R291, R330). -/
def CoreCtx.start : CoreCtx := { CoreCtx.reset with inReset := false }

/-- The cores at reset (R291, R425, R426). -/
def Cores.reset : Cores :=
  { ctx := Vector.replicate 4 .reset, f0 := 0, f1 := 1, f2 := 2, stby := 3, noStby := false, failed := 0, kicked := Vector.replicate 4 0,
    remap := false, testMode := false, sram := [], fwVersion := 0, fwDigest := [], fwStaged := none,
    verified := false, assigned := false }

/-- Repair state before Boot step 3. -/
def Repair.reset : Repair :=
  { maps := [], trims := [], setsRead := false, columns := [], lanes := Vector.replicate 8 0, lanesNext := [], offsets := [],
    limits := [], bootstat := 0, fwStatus := 0, fwBusy := false, fuseStatus := 0, fuseBusy := false }

/-- Recovery registers at reset (R422, R424). -/
def Recov.reset : Recov :=
  { cause := 0, fails := [], failNo := 0, probeFail := 0, probeDone := false,
    probeLane := 0, probePass := 0, probeDue := false, probeTick := none, acted := false, attempts := 0, lastFail := [] }

/-- Security at reset (R431, R432). -/
def Security.reset : Security :=
  { req := none, rsp := none, status := 0, busy := false, session := none, mailbox := [], offer := [], draft := [] }

/-- The scrub engine at reset (R417). -/
def Scrub.reset : Scrub :=
  { status := 0, reason := 0, refused := false, entry := 0, errData := 0, errTgt := 0, list := [], sent := [],
    recent := [], stopped := false, failed := [], role := 0, switch := none }

/-- Power at reset: every domain On (R329), readings 0 (R430). -/
def Power.reset : Power :=
  { req := [], cur := [], wake := [], opReq := 0, opFrame := 0, opOut := false, opAck := false, opLate := false,
    opTick := none, sense := [], hot := [], cool := 0, idle := [], budgets := Vector.replicate 16 0, seenMem := 0, seenLand := 0, passAt := 1000000,
    onTick := none }

/-- Performance counters at reset (R429). -/
def Perf.reset : Perf :=
  { words := Vector.replicate 8 0, next := none, counts := Vector.replicate 8 0, shown := Vector.replicate 8 0,
    on := false, startDue := false, stopDue := false }

/-- The debug port after Test-Logic-Reset (R395). -/
def Debug.reset : Debug :=
  { frozen := false, frame := 0, was := .reset, ir := 0x01, addr := 0, page := 0, read := [], readAt := none,
    rdmiss := false, dr := [] }

/-- The pins of Off and Reset: every output 0 (R58). -/
def Pins.idle : Pins := { data := [], sb := Vector.replicate 16 0, slip := false, drove := [], resp := [] }

/-- The input pins at reset: ready and powered (log entry 46). -/
def Inputs.reset : Inputs := { hsReady := true, secReady := true, mainOk := true, backupOk := true }

/-- Always-on block as it first powers up: RETLOST set (R370); the rest by log entry 3. -/
def AlwaysOn.first : AlwaysOn :=
  { cellA := Vector.replicate 4 ⟨0, true⟩, cellB := Vector.replicate 4 ⟨0, true⟩, tenant := 0, consent := 0,
    continuity := false, retLost := true, truncSeq := 0, truncated := false }

/-- The unit right after reset: Reset, every register at its reset value (R329, R406, R422). -/
def UnitCtl.reset : UnitCtl :=
  { state := .reset, reason := 0, attempt := 0, replayReq := false, thirdReq := false,
    locked := false, window := false, committing := false, causes := 0, drainTo := none, drainTick := 0, porN := true,
    warmReq := false, resetAt := 0, initAt := none, initDone := false, clear := none, resumeG := 0, ready := false, readyTick := 0,
    gReplay := false, copyBad := false, noCore := false, holdDue := none, limpDue := false, matrixOff := false }

/-- Time at reset (R407; log entry 3). -/
def Clock.reset : Clock :=
  { frame := 0, offset := 0, stamp := 0, tb := 0, tbRem := 0, ctl := 0, ctlRem := 0, ticks := 0, cycles := 0, point := 0,
    centre := 0, control := 0, drawn := 0 }

/-- The machine right after reset: Psiuno-16 in Reset (R329), with the values that the log's entries 2 to 7 name where
the spec gives none, and an empty queue. -/
def State.reset : State :=
  { cfg := .psiuno16, slices := 0, clock := .reset, unit := .reset, streams := Vector.replicate 16 .idle, collector := [], collectAt := 0,
    inflight := [], tiles := [], tileUse := [], tileMarks := [], tilesWritten := [], cycle := .none, pool := .zero,
    settings := { bytes := [], valid := [], staged := [], sxpos := 0, reform := none },
    basin := { wells := [], ptr := [], touched := [], written := [], marks := [] },
    ledger := { bytes := [], armed := [], lateArmed := [], portAt := none },
    ports := Vector.replicate 8 .idle,
    image := { active := .empty, shadow := .empty, bank := .empty, staged := .empty, loader := none, overlays := [], gen := 0,
               waiting := [], exchange := none },
    crossing := [], regs := .reset, cores := .reset, repair := .reset, recov := .reset,
    log := { queue := [], slots := [], commit := [], lost := 0, nextAt := 0 },
    ao := .first,
    fuses := { words := [], debugDisable := false, makerLock := false, lifeCycle := 0, revision := 0,
               manufacturer := 0 },
    sec := .reset, scrub := .reset, power := .reset, perf := .reset, dbg := .reset, pins := .idle, inputs := .reset, held := [],
    defects := [], eccBad := [], eccOne := [], eccCover := [], pending := [] }

end Sys2Proof.Machine
end

