-- ==== Sys2Proof/Machine/Ops.lean ====
section
/-! DEFINITION. The shared operations over the stores, the streams, the log and the counters: the only places where a
store is read or written, a record is made, a response given or a stream completed. -/

namespace Sys2Proof.Machine

/-! ## Sparse stores -/

/-- What a store holds at a key; `d` where the key is not listed. -/
def sparseGet {α : Type} (d : α) : Sparse α → Nat → α
  | [], _ => d
  | (k, v) :: m, i => if i = k then v else sparseGet d m i

/-- A store without a key. -/
def sparseErase {α : Type} (m : Sparse α) (i : Nat) : Sparse α := m.filter (fun e => e.1 != i)

/-- A value put at its place by ascending key. -/
def sparseInsert {α : Type} : Sparse α → Nat → α → Sparse α
  | [], i, v => [(i, v)]
  | (k, w) :: m, i, v => if i < k then (i, v) :: (k, w) :: m else (k, w) :: sparseInsert m i v

/-- Write: the canonical form lists no key that holds the default. -/
def sparseSet {α : Type} [DecidableEq α] (d : α) (m : Sparse α) (i : Nat) (v : α) : Sparse α :=
  if v = d then sparseErase m i else sparseInsert (sparseErase m i) i v

/-- The canonical form: keys strictly rising, no entry at the default. -/
def sparseWf {α : Type} [DecidableEq α] (d : α) (m : Sparse α) : Bool :=
  decide (m.Pairwise (fun a b => a.1 < b.1)) && m.all (fun e => decide (e.2 ≠ d))

/-- One byte of a memory. -/
def memGet (m : Mem) (a : Nat) : Byte := sparseGet 0 m a

/-- One byte written. -/
def memSet (m : Mem) (a : Nat) (b : Byte) : Mem := sparseSet 0 m a b

/-- `n` bytes from an address. -/
def readBytes (m : Mem) (a n : Nat) : List Byte := (List.range n).map (fun i => memGet m (a + i))

/-- Bytes written from an address. -/
def writeBytes (m : Mem) (a : Nat) : List Byte → Mem
  | [] => m
  | b :: bs => writeBytes (memSet m a b) (a + 1) bs

/-- Cells written: each at its own address, the later ones over the earlier. -/
def writeCells (m : Mem) : List Host.Cell → Mem
  | [] => m
  | (a, b) :: cs => writeCells (memSet m a b) cs

/-- Zeros written over a range: its cells are dropped. -/
def zeroRange (m : Mem) (a n : Nat) : Mem := m.filter (fun e => e.1 < a || a + n ≤ e.1)

/-- The memory's canonical form. -/
def Memory.wf (m : Mem) : Bool := sparseWf 0 m

/-- Little-endian value of bytes (R10). -/
def leNat : List Byte → Nat
  | [] => 0
  | b :: bs => b.toNat + 256 * leNat bs

/-- The `n` little-endian bytes of a value (R10). -/
def leBytes : Nat → Nat → List Byte
  | 0, _ => []
  | n + 1, v => BitVec.ofNat 8 v :: leBytes n (v / 256)

/-- A little-endian value of `n` bytes at an address. -/
def readLe (m : Mem) (a n : Nat) : Nat := leNat (readBytes m a n)

/-- Bits [lo+len−1 : lo] of a value. -/
def field (v lo len : Nat) : Nat := v / 2 ^ lo % 2 ^ len

/-- One bit of a value. -/
def bitOf (v i : Nat) : Bool := v / 2 ^ i % 2 == 1

/-- The two's-complement value of a field of `w` bits (R20). -/
def signed (w v : Nat) : Int := if v < 2 ^ (w - 1) then (v : Int) else (v : Int) - 2 ^ w

/-- Keep the low `w` bits of an integer. -/
def wrap (w : Nat) (v : Int) : Nat := (v % (2 ^ w : Int)).toNat

/-- ⌈a / b⌉. -/
def ceilDiv (a b : Nat) : Nat := (a + b - 1) / b

/-- A value added to an ascending list without repeats. -/
def insertNat : List Nat → Nat → List Nat
  | [], i => [i]
  | k :: l, i => if i < k then i :: k :: l else if i = k then k :: l else k :: insertNat l i

/-- A value taken out of a list. -/
def eraseNat (l : List Nat) (i : Nat) : List Nat := l.filter (· != i)

/-! ## Geometry: cut, partitions and lanes -/

/-- j of the cut in force: k = 2^j partitions (R81). A reserved code never reaches the bank. -/
def Bank.cut (b : Bank) : Nat := min 4 ((memGet b.streamTable 0).toNat % 8)

def State.cut (s : State) : Nat := s.image.bank.cut

/-- k, the number of partitions and streams (R81, R86). -/
def State.parts (s : State) : Nat := 2 ^ s.cut

/-- n, the local lane bits of a partition (R123). -/
def State.laneBits (s : State) : Nat := s.cfg.laneBits - s.cut

/-- L, the local lanes of a partition (R82). -/
def State.lanes (s : State) : Nat := 2 ^ s.laneBits

/-- The global lane of local lane m of partition p (R82). -/
def State.globalLane (s : State) (p : StreamId) (m : Nat) : Nat := m * s.parts + p.toNat

/-- Bytes of one flume vector (R33). -/
def flumeBytes (c : Configuration) : Nat := 32 * c.arrays

/-! ## Streams -/

def State.stream (s : State) (i : StreamId) : Stream := s.streams[i.toNat]'(by have := i.isLt; omega)

def State.setStream (s : State) (i : StreamId) (x : Stream) : State :=
  { s with streams := s.streams.set i.toNat x (by have := i.isLt; omega) }

def State.modStream (s : State) (i : StreamId) (f : Stream → Stream) : State := s.setStream i (f (s.stream i))

/-- The context of a stream changed. -/
def State.modCtx (s : State) (i : StreamId) (f : Ctx → Ctx) : State :=
  s.modStream i (fun x => { x with ctx := f x.ctx })

/-- Every stream changed. -/
def State.mapStreams (s : State) (f : StreamId → Stream → Stream) : State :=
  { s with streams := Vector.ofFn (fun i : Fin 16 => f (BitVec.ofNat 4 i.val) (s.streams[i.val])) }

/-- The sixteen stream numbers in ascending order. -/
def allStreams : List StreamId := (List.range 16).map (BitVec.ofNat 4)

/-- Byte `o` of the stream's record in the stream table (R316), and `n` bytes as a value. -/
def Bank.recAt (b : Bank) (i : StreamId) (o n : Nat) : Nat := readLe b.streamTable (64 + 1024 * i.toNat + o) n

def State.recAt (s : State) (i : StreamId) (o n : Nat) : Nat := s.image.bank.recAt i o n

/-- PRESENT: the image gives the stream a program, and the stream exists under the cut (R86, R316). -/
def Bank.present (b : Bank) (i : StreamId) : Bool := bitOf (b.recAt i 0 1) 0 && decide (i.toNat < 2 ^ b.cut)

def State.present (s : State) (i : StreamId) : Bool := s.image.bank.present i

/-- A mask bit of the stream's record: registers (R98), slots. -/
def State.maskBit (s : State) (i : StreamId) (base n : Nat) : Bool := bitOf (s.recAt i (base + n / 8) 1) (n % 8)

/-- The regions the stream's list names (R98, R316). -/
def Bank.regionList (b : Bank) (i : StreamId) : List Nat :=
  (List.range 64).filterMap (fun q => let e := b.recAt i (352 + 2 * q) 2
                                      if bitOf e 15 then some (e % 1024) else none)

/-- Is a persistent register's partner named, and which (R280, R316)? -/
def Bank.partner (b : Bank) (i : StreamId) (r : BitVec 8) : Option (BitVec 8) :=
  (List.range 32).findSome? (fun q => let e := b.recAt i (224 + 4 * q) 4
                                      if bitOf e 16 && e % 256 == r.toNat then some (BitVec.ofNat 8 (e / 256)) else none)

def Bank.persistent (b : Bank) (i : StreamId) (r : BitVec 8) : Bool :=
  bitOf (b.recAt i (128 + r.toNat / 8) 1) (r.toNat % 8)

/-! ## Counters, performance events, responses -/

/-- The counters of R433, by offset. -/
inductive Counter where
  | slip | replay | replayErr | rowErr | poisonDrop | flumeErr | conserve | consIn | recovSlip | portErr | portLate
  | memLate | landLate | lateFault | setDefer | churn | ledgerRef | badWr | roleRef | logLost | secLate | senseErr
  | stretch | eccUnc
  deriving DecidableEq, Repr

/-- The register offset of a counter (R433). -/
def counterOffset : Counter → Nat
  | .slip => 0x0800 | .replay => 0x0804 | .replayErr => 0x0808 | .rowErr => 0x080C | .poisonDrop => 0x0810
  | .flumeErr => 0x0814 | .conserve => 0x0818 | .consIn => 0x081C | .recovSlip => 0x0820 | .portErr => 0x0824
  | .portLate => 0x0828 | .memLate => 0x082C | .landLate => 0x0830 | .lateFault => 0x0834 | .setDefer => 0x0838
  | .churn => 0x083C | .ledgerRef => 0x0840 | .badWr => 0x0844 | .roleRef => 0x0848 | .logLost => 0x084C
  | .secLate => 0x0850 | .senseErr => 0x0854 | .stretch => 0x0858 | .eccUnc => 0x085C

/-- The place of a store in PSI_ECCCORCNT (R433). -/
def storeIndex : Store → Nat
  | .pool => 0 | .tiles => 1 | .settings => 2 | .wells => 3 | .ledger => 4 | .imageCopies => 5 | .imageStores => 6
  | .sram => 7 | .bootRom => 8

def State.countAt (s : State) (o n : Nat) : State :=
  { s with regs := { s.regs with counts := sparseSet 0 s.regs.counts o (sparseGet 0 s.regs.counts o + BitVec.ofNat 32 n) } }

/-- A counter gains n, modulo 2^32 (R433). -/
def State.count (s : State) (c : Counter) (n : Nat) : State := s.countAt (counterOffset c) n

def State.counter (s : State) (c : Counter) : BitVec 32 := sparseGet 0 s.regs.counts (counterOffset c)

/-- Hardware sets W1C bit `b` of the register word at `off` in the present cycle (R16). -/
def State.freshBit (s : State) (off b : Nat) : State :=
  { s with regs := { s.regs with fresh := insertNat s.regs.fresh (32 * off + b) } }

/-- A write of 1 clears a W1C bit, but not one that hardware sets in the same cycle (R16). -/
def Regs.clears (r : Regs) (off v b : Nat) : Bool := bitOf v b && !r.fresh.contains (32 * off + b)

/-- PSI_ALERT gains a bit (R16, R408). -/
def State.alertBit (s : State) (i : Nat) : State :=
  (({ s with regs := { s.regs with alert := s.regs.alert ||| BitVec.ofNat 8 (2 ^ i) } } : State)).freshBit 0x20 i

/-- The control half of a performance counter (R429). -/
def perfCtl (w : Vector (BitVec 32) 8) (c : Nat) : Nat :=
  let v := (w[c / 2]?.getD 0).toNat
  if c % 2 = 0 then v % 65536 else v / 65536

/-- n events of a code for a stream, in every counter that counts them (R397, R398). -/
def State.event (s : State) (code : Nat) (i : Nat) (n : Nat) : State :=
  if s.perf.on then
    { s with perf := { s.perf with counts := s.perf.counts.mapIdx (fun c v =>
        let h := perfCtl s.perf.words c
        if h % 256 = code ∧ (h / 256 % 32 = 31 ∨ h / 256 % 32 = i ∨ code = 0x0F ∨ code = 0x10)
        then BitVec.ofNat 48 (min (2 ^ 48 - 1) (v.toNat + n)) else v) } }
  else s

/-- The consent flags change (R358); when PROFILE becomes 0 the counting stops, and the counters and PSI_PERFCTL return to their
reset values (R398). -/
def State.setConsent (s : State) (v : BitVec 32) : State :=
  { s with ao := { s.ao with consent := v }, perf := if s.ao.consent.getLsbD 1 && !v.getLsbD 1 then .reset else s.perf }

/-- Fast-matrix register slices (R4): a Psiuno-8 or Psiuno-16 has none. -/
def State.sliceCount (s : State) : Nat :=
  match s.cfg with | .psiuno2 | .psiuno4 => s.slices.toNat | .psiuno8 | .psiuno16 => 0

/-- The slices that an access crosses: those of the fast matrix, and none once the fallback matrix serves in its place (R4,
R300); that an access crosses every slice is the model's choice (DESIGN CHOICE, log entry 47). -/
def State.slicesCrossed (s : State) : Nat := if s.unit.matrixOff then 0 else s.sliceCount

/-- The response to an access is outstanding, behind the earlier ones (R37, R42). Each register slice that it crosses delays the
grant and the response by a control cycle (R4). -/
def State.respond (s : State) (m : Master) (stat : BitVec 2) (data : List Byte) : State :=
  { s with pins := { s.pins with resp := s.pins.resp ++ [⟨m, stat, data, s.clock.ctl + 2 * s.slicesCrossed⟩] } }

/-- A request of the host control port. -/
def isHost : Master → Bool
  | .host _ _ => true | _ => false

/-- Host requests that have not completed (R42): answered and not yet transferred, or taken and waiting. -/
def State.hostOpen (s : State) : Nat :=
  s.pins.resp.countP (fun r => isHost r.to_) + s.held.countP (fun a => match a with | .access m _ _ _ _ _ => isHost m | _ => false)

/-- HC_READY (R42). -/
def State.hcReady (s : State) : Bool := decide (s.hostOpen < 32)

/-- HS_VALID with its payload (R37): the oldest host response, from its control cycle. -/
def State.hsShown (s : State) : Option Resp :=
  match s.pins.resp.find? (fun r => isHost r.to_) with
  | some r => if r.due ≤ s.clock.ctl then some r else none
  | none => none

/-- One control cycle of the response channels: the host's transfers where HS_READY is 1 (R37); a core takes its own. -/
def State.drainResp (s : State) : State :=
  let cores := s.pins.resp.filter (fun r => isHost r.to_ || decide (s.clock.ctl < r.due))
  let out := match s.hsShown with | some r => if s.inputs.hsReady then cores.erase r else cores | none => cores
  { s with pins := { s.pins with resp := out } }

/-- Requests whose responses keep their order (R42, R296): those of one core, and those with one HC_ID. -/
def sameSource (m n : Master) : Bool :=
  match m, n with
  | .core c, .core d => c == d
  | .host _ i, .host _ j => i == j
  | .debug, .debug => true
  | _, _ => false

/-- An act waits behind those that wait already (R304, R311). -/
def State.hold (s : State) (a : HeldAct) : State := { s with held := s.held ++ [a] }

/-- A write waits for its record. -/
def State.holdWrite (s : State) (m : Master) (addr : Nat) (data : List Byte) : State := s.hold (.access m true addr data.length data true)

/-! ## The monotonic counters and the event log -/

/-- A counter's value: the higher intact cell, and `lost` where neither is intact (R373). -/
def cellValue (lost : BitVec 64) (a b : Cell) : BitVec 64 :=
  match a.intact, b.intact with
  | true, true => if a.value < b.value then b.value else a.value
  | true, false => a.value
  | false, true => b.value
  | false, false => lost

/-- A counter without an intact cell resumes from 2^63, and counter 1 from 2^33 − 1 (R373, R374). -/
def AlwaysOn.value (a : AlwaysOn) (i : Fin 4) : BitVec 64 :=
  cellValue (BitVec.ofNat 64 (if i = 1 then 2 ^ 33 - 1 else 2 ^ 63)) a.cellA[i] a.cellB[i]

/-- A counter takes a new value: the cell that is not intact, or else the lower one, is written (R373). -/
def AlwaysOn.write (a : AlwaysOn) (i : Fin 4) (v : BitVec 64) : AlwaysOn :=
  let x := a.cellA[i]; let y := a.cellB[i]
  if !x.intact || (y.intact && decide (x.value ≤ y.value)) then { a with cellA := a.cellA.set i ⟨v, true⟩ }
  else { a with cellB := a.cellB.set i ⟨v, true⟩ }

/-- An increment, which stays at 2^64 − 1 (R373). -/
def AlwaysOn.bump (a : AlwaysOn) (i : Fin 4) : AlwaysOn :=
  a.write i (if a.value i = BitVec.allOnes 64 then a.value i else a.value i + 1)

/-- The master id of R296. -/
def masterId : Master → Nat
  | .core c => c.toNat | .host _ _ => 6 | .debug => 7

/-- The role that a record names (R303). -/
def roleOf : Master → BitVec 2
  | .core _ => 3 | .host r _ => r | .debug => 2

/-- The log queue holds 256 records (R311). -/
def logDepth : Nat := 256

/-- The order of records of one control cycle: hardware records by KIND, then those of acts by master id (R311). -/
def LogRec.rank (r : LogRec) : Nat := if r.agent = 0xFF then r.kind.toNat else 65536 + r.agent.toNat

/-- Records moved one place back: each takes the SEQ of the next, and the last `seq`. -/
def logPush : List LogRec → LogRec → BitVec 64 → List LogRec
  | [], q, seq => [{ q with seq := seq }]
  | q2 :: l, q, seq => { q with seq := q2.seq } :: logPush l q2 seq

/-- A record at its place in the queue: behind those of earlier control cycles, and among those of its own by `rank`; each
takes the SEQ of its place (R311). -/
def logInsert : List LogRec → LogRec → List LogRec
  | [], r => [r]
  | q :: l, r => if q.at_ = r.at_ ∧ r.rank < q.rank then { r with seq := q.seq } :: logPush l q r.seq else q :: logInsert l r

/-- A record enters the queue: counter 0 is incremented first, and the queue takes its value (R311, R374). -/
def State.enterLog (s : State) (r : LogRec) : State :=
  let ao := s.ao.bump 0
  let new : LogRec := { r with seq := ao.value 0, tb := s.clock.control, frame := s.clock.frame, at_ := s.clock.ctl }
  { s with ao := ao, log := { s.log with queue := logInsert s.log.queue new } }

/-- A hardware record of the Control region: where the queue is full it is lost and counted, and when space has
returned a log-overflow record goes ahead of it (R311). -/
def State.hwRecord (s : State) (r : LogRec) : State :=
  if logDepth ≤ s.log.queue.length then
    (({ s with log := { s.log with lost := s.log.lost + 1 } } : State).count .logLost 1).alertBit 7
  else s.enterLog r

/-- The record of an act or of hardware (R309); SEQ, TB and FRAME are given on entry. -/
def mkRec (kind : Nat) (role : BitVec 2) (agent : Nat) (addr value aux code : Nat) : LogRec :=
  { seq := 0, tb := 0, frame := 0, kind := BitVec.ofNat 16 kind, role := role, agent := BitVec.ofNat 8 agent,
    addr := BitVec.ofNat 64 addr, value := BitVec.ofNat 64 value, aux := BitVec.ofNat 64 aux, code := BitVec.ofNat 64 code, at_ := 0 }

/-- A hardware record whose cause arises in the Control region (R311). -/
def State.hwLog (s : State) (kind addr value aux code : Nat) : State :=
  s.hwRecord (mkRec kind 3 0xFF addr value aux code)

/-- A hardware record whose cause arises in another region crosses to Control (R311). -/
def State.coreLog (s : State) (kind addr value aux code : Nat) : State :=
  { s with crossing := s.crossing ++ [⟨s.clock.ctl, .record (mkRec kind 3 0xFF addr value aux code)⟩] }

/-- The record of an act (R304, R309). -/
def State.actLog (s : State) (m : Master) (kind addr value aux code : Nat) : State :=
  s.enterLog (mkRec kind (roleOf m) (masterId m) addr value aux code)

/-- The log has room for an act's record; without it a privileged act waits (R304, R311). -/
def State.logRoom (s : State) : Bool := decide (s.log.queue.length < logDepth)

/-- The record of a firmware act waits where the queue is full, and is never lost (R304, R311). -/
def State.fwRecord (s : State) (r : LogRec) : State := if s.logRoom then s.enterLog r else s.hold (.record r)

/-- A firmware act: master CC of the function, role Psiuno (R303, R309). -/
def State.fwLog (s : State) (core : BitVec 2) (kind addr value aux code : Nat) : State :=
  s.fwRecord (mkRec kind 3 core.toNat addr value aux code)

/-- The records that a decision of the firmware makes. -/
def FwAct.records : FwAct → Nat | .bootRest | .switchFail _ => 2 | .bootRefused | .bootAgain => 1 | .switchBound _ => 3

/-- The log has room for every record of a decision. -/
def State.actRoom (s : State) (a : FwAct) : Bool := decide (s.log.queue.length + a.records ≤ logDepth)

/-- A decision of the firmware that changes the unit state, and what it makes of the machine: it waits as a whole until the log has room
for its records (R304, R311; DEDUCED, log entry 61). -/
def State.whenRoom (s : State) (core : BitVec 2) (a : FwAct) (t : State) : State :=
  if s.actRoom a then t else if s.held.contains (.firmware core a) then s else s.hold (.firmware core a)

/-! ## Unit states -/

/-- The code of a unit state (R326). -/
def unitCode : UnitState → Nat
  | .off => 0 | .reset => 1 | .boot => 2 | .hold => 3 | .armed => 4 | .running => 5 | .draining => 6 | .replay => 7
  | .recovery => 8 | .limp => 9 | .frozen => 10 | .scrub => 11

/-- The code of a stream state (R90). -/
def streamCode : StreamState → Nat
  | .idle => 0 | .armed => 1 | .running => 2 | .halted => 3 | .faulted => 4

/-- Every stream becomes Idle, as in Hold, Reset and Off (R89); fault responses that wait are recorded as late (R210). -/
def State.idleStreams (s : State) : State :=
  s.mapStreams (fun _ x => { Stream.idle with stat := x.stat, shown := x.shown, refused := x.refused,
                                              noEffect := x.noEffect, startLate := x.startLate, jobs := x.jobs,
                                              order := x.order, faultsDue := x.faultsDue })

/-- The unit takes a state, with REASON where it is Hold (R326). Hold, Reset and Off make every stream Idle and unlock the RWL
fields (R15, R89). -/
def State.enterState (s : State) (u : UnitState) (reason : BitVec 8) : State :=
  let s1 := { s with unit := { s.unit with state := u, reason := if u = UnitState.hold then reason else s.unit.reason } }
  if u = .hold ∨ u = .reset ∨ u = .off then
      { s1.idleStreams with
        unit := { s1.unit with locked := false, drainTo := none, initAt := none, initDone := false, clear := none, causes := 0, copyBad := false
                               ready := false, holdDue := none }
        image := { s1.image with waiting := [], exchange := none, staged := if s1.image.exchange.isSome then .empty else s1.image.staged } }
    else if u = .armed then { s1 with unit := { s1.unit with locked := true } } else s1

/-- The record of kind unit-state by its agent: CODE holds REASON where the new state is Hold (R312, R326). -/
def unitRecord (agent : Nat) (was u : UnitState) (reason : BitVec 8) : LogRec :=
  mkRec 0x0009 3 agent (unitCode u) (unitCode was) 0 (if u = UnitState.hold then reason.toNat else 0)

/-- A transition of the unit that hardware makes, with its record (R311, R326). -/
def State.goto (s : State) (u : UnitState) (reason : BitVec 8) : State :=
  (s.enterState u reason).hwRecord (unitRecord 0xFF s.unit.state u reason)

/-- A transition of the unit that the firmware decides, on the core that holds the function: its record is an act's (R304, R311;
DEDUCED, log entry 61). -/
def State.fwGoto (s : State) (core : BitVec 2) (u : UnitState) (reason : BitVec 8) : State :=
  (s.enterState u reason).fwRecord (unitRecord core.toNat s.unit.state u reason)

/-- Frames commit or roll back in these states, and a recovery cause leads to Recovery (R62, R326). -/
def framesRun : UnitState → Bool
  | .armed | .running | .replay | .draining | .limp => true
  | _ => false

/-- Streams issue in these states (R90, R301, R327). -/
def issuing : UnitState → Bool
  | .running | .replay | .limp => true
  | _ => false

/-! ## Domains -/

/-- Numbers of the domains after the lane arrays (R36). -/
def domCS : Nat := 16
def domST : Nat := 17
def domSK : Nat := 18
def domBA : Nat := 19
def domSL : Nat := 21

/-- Requested and shown state of a domain (R45). -/
def State.domReq (s : State) (d : Nat) : BitVec 2 := sparseGet 0 s.power.req d
def State.domCur (s : State) (d : Nat) : BitVec 2 := sparseGet 0 s.power.cur d

/-- A region's reading of the timebase: at most 4 tb behind the always-on count and, unless that count has resumed lower (R374),
never decreasing (R70). -/
def regionTime (tb was : BitVec 64) (draw : Nat) : BitVec 64 :=
  let v := tb - BitVec.ofNat 64 (min tb.toNat (Config.lag draw % 5))
  if was ≤ tb ∧ v < was then was else v

/-! ## Completion and faults of a stream -/

/-- PROT and the other fault numbers (R115). -/
def faultPROT : BitVec 8 := 1
def faultALIGN : BitVec 8 := 2
def faultNOTPERM : BitVec 8 := 3
def faultOVERLAY : BitVec 8 := 4
def faultCAPACITY : BitVec 8 := 5
def faultECC : BitVec 8 := 6
def faultCONSERVE : BitVec 8 := 7

/-- The collector's queue keeps the order of completion cycles and, within one cycle, of stream numbers (R54). -/
def collectorInsert : List (StreamId × Completion) → StreamId × Completion → List (StreamId × Completion)
  | [], c => [c]
  | d :: l, c => if c.2.frame = d.2.frame ∧ (c.2.offset < d.2.offset ∨ (c.2.offset = d.2.offset ∧ c.1 < d.1))
                 then c :: d :: l else d :: collectorInsert l c

/-- A stream completes in the present cycle (R92): its state, and its word queued for the collector. -/
def State.complete (s : State) (i : StreamId) (faulted stopped : Bool) : State :=
  let c : Completion := ⟨s.clock.frame, s.clock.offset, faulted, stopped, s.unit.attempt⟩
  { (s.modStream i (fun x => { x with done := some c, start := none, waitDl := none, waitOk := none, reached := none,
                                      ctx := { x.ctx with state := if faulted then .faulted else .halted } })) with
    collector := collectorInsert s.collector (i, c) }

/-- A fault of a stream (R92, R115): FAULT, FADDR and the PROT cause, PC at the faulting instruction (R87); the stream
completes as Faulted. A stream that is not Running keeps its completion. -/
def State.raise (s : State) (i : StreamId) (code : BitVec 8) (faddr : Int) (cause : BitVec 3) (pc : BitVec 13) : State :=
  if (s.stream i).ctx.state ≠ .running then s else
  (s.modStream i (fun x =>
    { x with ctx := { x.ctx with fault := code, faddr := BitVec.ofInt 64 faddr, pc := pc }
             stat := if code = faultPROT then { x.stat with protCause := cause } else x.stat })).complete i true false

/-- A fault waits for the next committing tick (R40, R127). -/
def State.faultDue (s : State) (i : StreamId) (d : FaultDue) : State :=
  s.modStream i (fun x => { x with faultsDue := x.faultsDue ++ [d] })

/-- The fault that a stream raises of those that wait: of check passes that of the earliest-issued instruction, else that
of the response transferred first (R40, R192). That a check pass goes before a response is the model's choice (DESIGN CHOICE,
log entry 58). -/
def firstDue (l : List FaultDue) : Option FaultDue :=
  match l.filter (·.checked) with
  | [] => l.head?
  | c :: cs => some (cs.foldl (fun a b => if b.order < a.order then b else a) c)

/-- A fault of a stream that has completed: counted and recorded as late (R210, R312). -/
def State.lateFault (s : State) (i : StreamId) (addr status : Nat) : State :=
  (s.count .lateFault 1).coreLog 0x000D i.toNat addr status 0

/-! ## Arrivals -/

/-- What becomes readable in a cycle precedes what is read in it (R26). -/
def Arrival.rank : Arrival → Nat
  | .tile _ _ _ => 0
  | .landing _ _ _ => 0
  | .land _ _ _ => 0
  | .output _ _ _ _ _ => 0
  | _ => 1

/-- `p` goes before `q`. -/
def Pend.before (p q : Pend) : Bool :=
  decide (p.due < q.due ∨ (p.due = q.due ∧ (p.act.rank < q.act.rank ∨ (p.act.rank = q.act.rank ∧ p.stream < q.stream))))

/-- Arrivals are kept by cycle; within one cycle results go first, then by stream, those of one stream in issue order
(R26, R284). -/
def pendInsert : List Pend → Pend → List Pend
  | [], p => [p]
  | q :: l, p => if p.before q then p :: q :: l else q :: pendInsert l p

def State.later (s : State) (i : StreamId) (cycles : Nat) (a : Arrival) : State :=
  { s with inflight := pendInsert s.inflight ⟨s.clock.offset + cycles, i, a⟩ }

/-! ## Exactly-once effects -/

/-- The next effect number of the stream is taken (R64, R117). -/
def State.takeEffect (s : State) (i : StreamId) : State := s.modCtx i (fun c => { c with effseq := c.effseq + 1 })

/-- Has an earlier attempt of the frame performed the effect (R64)? -/
def Stream.performed (x : Stream) (no : BitVec 32) : Option Effect := x.effects.find? (fun e => e.no == no)

/-- An effect is recorded as performed (R64, R117). -/
def State.perform (s : State) (i : StreamId) (no : BitVec 32) (recv status : List Byte) : State :=
  s.modStream i (fun x => { x with effects := x.effects ++ [⟨no, recv, status⟩] })

/-- An effect is suppressed in this attempt (R61); the commit counts it. -/
def State.suppress (s : State) (i : StreamId) (n : Nat) : State :=
  s.modStream i (fun x => { x with suppressed := x.suppressed + n })

/-! ## Coded stores -/

/-- A word of a coded store reads uncorrectable (R345). -/
def State.uncorrectable (s : State) (st : Store) (w : Nat) : Bool := s.eccBad.contains (st, w)

/-- Reads of words correct single flipped bits: PSI_ECCCORCNT counts each (R346). -/
def State.readCorrect (s : State) (st : Store) (ws : List Nat) : State :=
  let n := ws.countP (fun w => s.eccOne.contains (st, w))
  if n = 0 then s else s.countAt (0x0860 + 4 * storeIndex st) n

/-- Ranges of bytes that have a byte in common. -/
def rangesMeet (a n b m : Nat) : Bool := decide (a < b + m ∧ b < a + n)

/-- Reads of byte ranges of a store, words of which hold a flipped bit (R346). -/
def State.readRanges (s : State) (st : Store) (rs : List (Nat × Nat)) : State :=
  if s.eccOne.isEmpty then s else
  s.readCorrect st ((s.eccOne.filter (fun e => e.1 == st && rs.any (fun r => rangesMeet (8 * e.2) 8 r.1 r.2))).map (·.2))

/-- Of the words that do not hold correct code, those that `keep` names stay so. -/
def State.keepEcc (s : State) (keep : Store × Nat → Bool) : State :=
  { s with eccBad := s.eccBad.filter keep, eccOne := s.eccOne.filter keep
           eccCover := s.eccCover.filter (fun e => keep (e.1, e.2 / 8)) }

/-- Words written whole hold correct code again (R345). -/
def State.wroteWords (s : State) (st : Store) (ws : List Nat) : State := s.keepEcc (fun e => !(e.1 == st && ws.contains e.2))

/-- Bytes are written: a word holds correct code again once all its 8 bytes have been written (R345). -/
def State.coverWords (s : State) (st : Store) (cells : Mem) : State :=
  let wrong := fun (w : Nat) => s.eccBad.contains (st, w) || s.eccOne.contains (st, w)
  if s.eccBad.isEmpty && s.eccOne.isEmpty then s else
  let cover := s.eccCover ++ (cells.filter (fun c => wrong (c.1 / 8) && !s.eccCover.contains (st, c.1))).map (fun c => (st, c.1))
  ({ s with eccCover := cover.eraseDups } : State).keepEcc (fun e =>
    !(e.1 == st && (List.range 8).all (fun i => cover.contains (st, 8 * e.2 + i))))

end Sys2Proof.Machine
end

