-- ==== Sys2Proof/Machine/Flags.lean ====
section
/-! DEFINITION. Poison marks with their origin (R28, R61, R259, R435), conservation words (R341), and the state that the
interrupt lines show (R44). -/

namespace Sys2Proof.Machine

/-- The origin of a result (R28): upstream only where every poisoned source is upstream. -/
def joinMark : Option Origin → Option Origin → Option Origin
  | none, b => b
  | a, none => a
  | some .upstream, some .upstream => some .upstream
  | _, _ => some .internal

def joinMarks (l : List (Option Origin)) : Option Origin := l.foldl joinMark none

/-- A mark read from a store of marks. -/
def markGet : Sparse Origin → Nat → Option Origin
  | [], _ => none
  | (k, o) :: m, i => if i = k then some o else markGet m i

/-- A mark added: it stays for the rest of the frame and joins with the one that is there (R28, R435). -/
def markAdd (m : Sparse Origin) (i : Nat) (o : Option Origin) : Sparse Origin :=
  match joinMark (markGet m i) o with
  | none => m
  | some x => sparseInsert (sparseErase m i) i x

/-- The key of a stream's share of a register (R99). -/
def shareKey (p : StreamId) (r : BitVec 8) : Nat := p.toNat * 256 + r.toNat

/-- Marks that a tick clears (R53 action 7). -/
def State.clearMarks (s : State) : State :=
  { s with tileMarks := [], pool := { s.pool with marks := [] }, basin := { s.basin with marks := [] } }

/-- A(X) and B(X) (R341), with h(x) = x·x. -/
def sumA (bs : List Byte) : BitVec 16 := bs.foldl (fun a b => a + b.setWidth 16) 0
def sumB (bs : List Byte) : BitVec 16 := bs.foldl (fun a b => a + b.setWidth 16 * b.setWidth 16) 0

/-- The conservation word (R341): B in [31:16], A in [15:0]. -/
def consWord (bs : List Byte) : BitVec 32 := sumB bs ++ sumA bs

/-- The half that a flume carries at an offset: A in even row cycles, B in odd ones (R32). -/
def consHalf (offset : Nat) (bs : List Byte) : BitVec 16 := if offset % 2 = 0 then sumA bs else sumB bs

/-- COUNT of an endpoint's queue (R285). -/
def State.queued (s : State) (e : Nat) : Nat := (memGet s.ledger.bytes (0x20000 + 32 * e + 4)).toNat % 8

/-- CH_IRQ line i: an endpoint bound to it holds an unread message (R44, R285). -/
def State.chIrq (s : State) (i : Nat) : Bool :=
  (List.range 4096).any (fun e => decide (0 < s.queued e) && (memGet s.ledger.bytes (0x20000 + 32 * e + 2)).toNat % 32 == i)

/-- MGMT_IRQ: PSI_ALERT has a bit set (R44). -/
def State.mgmtIrq (s : State) : Bool := decide (s.regs.alert ≠ 0)

/-- A completed landing is missing for a position of a job (R203). -/
def SluiceJob.missing (j : SluiceJob) (pos : Nat) : Bool := j.left.contains pos

end Sys2Proof.Machine
end

