-- ==== Sys2Proof/Machine/Formats.lean ====
section
/-! DEFINITION. Number formats (R218 to R220), rounding (R226), the stochastic generator (R227), special values and
overflow (R229), and the MX block rules (R230 to R232). Values are exact: ±m·2^q. -/

namespace Sys2Proof.Machine

/-- The value of an element (R218). -/
inductive Num where
  | nan (neg : Bool) | inf (neg : Bool) | fin (neg : Bool) (m : Nat) (q : Int)
  deriving DecidableEq, Repr

/-- Bits of a format (R218). -/
def fmtBits : Nat → Nat
  | 1 => 32 | 2 => 16 | 3 => 16 | 4 => 8 | 5 => 8 | 6 => 6 | 7 => 6 | 8 => 4 | 9 => 8 | 10 => 4 | 11 => 3 | 12 => 2
  | 13 => 16 | 14 => 32 | _ => 8

/-- Bytes that an element of a format takes (R219). -/
def fmtBytes (id : Nat) : Nat := (fmtBits id + 7) / 8

/-- Exponent bits, bias and mantissa bits of a floating format; none of an integer format (R218). -/
def floatFields : Nat → Option (Nat × Nat × Nat)
  | 1 | 14 => some (8, 127, 23) | 2 | 13 => some (8, 127, 7) | 3 => some (5, 15, 10) | 4 => some (4, 7, 3)
  | 5 => some (5, 15, 2) | 6 => some (3, 3, 2) | 7 => some (2, 1, 3) | 8 => some (2, 1, 1) | _ => none

/-- Formats with infinities: FP32, BF16, FP16, E5M2 (R218). -/
def hasInf (id : Nat) : Bool := id = 1 ∨ id = 2 ∨ id = 3 ∨ id = 5 ∨ id = 13 ∨ id = 14

/-- An element's value from its bits (R218); the bits above its width are ignored (R219). -/
def decodeNum (id v : Nat) : Num :=
  let w := fmtBits id
  let x := v % 2 ^ w
  match floatFields id with
  | none => let i := signed w x; .fin (decide (i < 0)) i.natAbs 0
  | some (eb, bias, mb) =>
    let neg := bitOf x (w - 1)
    let e := field x mb eb
    let m := field x 0 mb
    if hasInf id ∧ e = 2 ^ eb - 1 then (if m = 0 then .inf neg else .nan neg)
    else if id = 4 ∧ e = 15 ∧ m = 7 then .nan neg
    else if e = 0 then .fin neg m (1 - (bias : Int) - mb)
    else .fin neg (2 ^ mb + m) ((e : Int) - bias - mb)

/-- Is m·2^q greater than n·2^r? -/
def dyadicLt (n : Nat) (r : Int) (m : Nat) (q : Int) : Bool :=
  let b := min q r
  decide (n * 2 ^ (r - b).toNat < m * 2 ^ (q - b).toNat)

/-- ⌊log2⌋ of m·2^q, m not 0. -/
def dyadicLog (m : Nat) (q : Int) : Int := (Nat.log2 m : Int) + q

/-- m·2^q in units of 2^u, rounded: nearest even, or stochastic with the value u of R227 (R226). -/
def roundAt (m : Nat) (q u : Int) (rnd : Option (BitVec 32)) : Nat :=
  if u ≤ q then m * 2 ^ (q - u).toNat else
  let den := 2 ^ (u - q).toNat
  let t := m / den
  let r := m % den
  let up := match rnd with
    | none => den < 2 * r || (den == 2 * r && t % 2 == 1)
    | some x => decide (x.toNat < r * 2 ^ 32 / den)
  if up then t + 1 else t

/-- The largest finite magnitude of a floating format as m·2^q (R218). -/
def maxFinite : Nat → Nat × Int
  | 1 | 14 => (2 ^ 24 - 1, 104) | 2 | 13 => (255, 120) | 3 => (2047, 5) | 4 => (14, 5) | 5 => (7, 13) | 6 => (7, 2)
  | 7 => (15, -1) | _ => (3, 1)

/-- Codes of the largest finite value, of infinity and of the canonical NaN without sign (R218, R229); formats without
a NaN take 0x00 for it. -/
def maxCode : Nat → Nat
  | 1 | 14 => 0x7F7FFFFF | 2 | 13 => 0x7F7F | 3 => 0x7BFF | 4 => 0x7E | 5 => 0x7B | 6 => 0x1F | 7 => 0x1F | _ => 0x7
def infCode : Nat → Nat
  | 1 | 14 => 0x7F800000 | 2 | 13 => 0x7F80 | 3 => 0x7C00 | _ => 0x7C
def nanCode : Nat → Nat
  | 1 | 14 => 0x7FC00000 | 2 | 13 => 0x7FC0 | 3 => 0x7E00 | 4 => 0x7F | _ => 0x7E

/-- The sign bit of a format. -/
def signBit (id : Nat) (neg : Bool) : Nat := if neg then 2 ^ (fmtBits id - 1) else 0

/-- The code of a finite magnitude t·2^u that the format holds, without its sign; t is below 2^(p+1). -/
def floatCode (bias mb t : Nat) (u : Int) : Nat :=
  if t = 0 then 0 else
  let e := dyadicLog t u
  if e < 1 - (bias : Int) then t
  else ((e + bias).toNat - 1) * 2 ^ mb + t * 2 ^ mb / 2 ^ Nat.log2 t

/-- A finite value encoded in a floating format with rounding (R226) and overflow (R229): `sat` saturates. -/
def encodeFloat (id : Nat) (neg : Bool) (m : Nat) (q : Int) (rnd : Option (BitVec 32)) (sat : Bool) : Nat :=
  match floatFields id with
  | none => 0
  | some (_, bias, mb) =>
    let s := signBit id neg
    if m = 0 then s else
    let u := max (dyadicLog m q) (1 - (bias : Int)) - mb
    let t := roundAt m q u rnd
    let (fm, fq) := maxFinite id
    if dyadicLt fm fq t u then
      (if sat ∨ (6 ≤ id ∧ id ≤ 8) then s + maxCode id else if id = 4 then s + nanCode 4 else s + infCode id)
    else s + floatCode bias mb t u

/-- A value encoded in an integer format of `w` bits (R226, R229). -/
def encodeInt (w : Nat) (neg : Bool) (m : Nat) (q : Int) (rnd : Option (BitVec 32)) : Nat :=
  let t := roundAt m q 0 rnd
  if neg then (2 ^ w - min t (2 ^ (w - 1))) % 2 ^ w else min t (2 ^ (w - 1) - 1)

/-- An element's code in a destination format (R226, R229). -/
def encodeNum (id : Nat) (x : Num) (rnd : Option (BitVec 32)) (sat : Bool) : Nat :=
  match floatFields id with
  | none =>
    match x with
    | .nan _ => 0
    | .inf neg => if neg then 2 ^ (fmtBits id - 1) else 2 ^ (fmtBits id - 1) - 1
    | .fin neg m q => encodeInt (fmtBits id) neg m q rnd
  | some _ =>
    match x with
    | .nan neg => if 6 ≤ id ∧ id ≤ 8 then 0 else signBit id neg + nanCode id
    | .inf neg => if hasInf id then signBit id neg + infCode id
                  else if id = 4 then (if sat then signBit id neg + maxCode 4 else signBit id neg + nanCode 4)
                  else signBit id neg + maxCode id
    | .fin neg m q => encodeFloat id neg m q rnd sat

/-- A plain conversion of one element (R221, R229). -/
def convertElem (cvt : Nat) (rnd : Option (BitVec 32)) (sat : Bool) (v : Nat) : Nat :=
  encodeNum (cvt % 16) (decodeNum (cvt / 16) v) rnd sat

/-- The source and the destination format of a code; an MX side counts as its own width (R221). -/
def cvtSrc (cvt : BitVec 8) : Nat := cvt.toNat / 16
def cvtDst (cvt : BitVec 8) : Nat := cvt.toNat % 16

/-! ## The stochastic generator -/

/-- mix64 (R227). -/
def mix64 (z : BitVec 64) : BitVec 64 :=
  let a := (z ^^^ (z >>> 30)) * 0xBF58476D1CE4E5B9
  let b := (a ^^^ (a >>> 27)) * 0x94D049BB133111EB
  b ^^^ (b >>> 31)

/-- srbits (R227). -/
def srbits (seed : BitVec 64) (frame : Frame) (s : StreamId) (pc : BitVec 13) (loop : Vector (BitVec 24) 4) (i a : Nat) :
    BitVec 32 :=
  let z := mix64 (seed ^^^ frame.setWidth 64)
  let z := mix64 (z ^^^ (pc.setWidth 64 ||| (s.setWidth 64 <<< 13) ||| (BitVec.ofNat 64 i <<< 17)))
  let z := mix64 (z ^^^ (loop[0].setWidth 64 ||| (loop[1].setWidth 64 <<< 24)))
  let z := mix64 (z ^^^ (loop[2].setWidth 64 ||| (loop[3].setWidth 64 <<< 24)))
  let z := mix64 (z ^^^ BitVec.ofNat 64 a)
  (z >>> 32).setWidth 32

/-! ## MX blocks -/

/-- emax of an MX element format (R231). -/
def mxEmax : Nat → Int
  | 4 => 8 | 5 => 15 | 6 => 4 | 7 => 2 | 8 => 2 | _ => 0

/-- The exponent X of a block (R231 step 2); none where an element is NaN or infinity. -/
def mxExponent (id : Nat) (vs : List Num) : Option Int :=
  let bad := vs.any (fun v => match v with | .fin _ _ _ => false | _ => true)
  if bad then none else
  let top := vs.foldl (fun (o : Option Int) v => match v with
    | .fin _ m q => if m = 0 then o else match o with
        | none => some (dyadicLog m q)
        | some e => some (max e (dyadicLog m q))
    | _ => o) none
  match top with
  | none => some (-127)
  | some e => some (max (-127) (min 127 (e - mxEmax id)))

/-- One element of a block with exponent X (R231 step 4). -/
def mxEncode (id : Nat) (x : Int) (v : Num) (rnd : Option (BitVec 32)) : Nat :=
  match v with
  | .fin neg m q => if id = 9 then encodeInt 8 neg m (q + 6 - x) rnd else encodeFloat id neg m (q - x) rnd true
  | _ => 0

/-- An MX quantise of one block: the scale code and the element codes (R231). -/
def mxQuantise (id : Nat) (vs : List (Num × Option (BitVec 32))) : Nat × List Nat :=
  match mxExponent id (vs.map (·.1)) with
  | none => (0xFF, vs.map (fun _ => 0))
  | some x => ((x + 127).toNat, vs.map (fun v => mxEncode id x v.1 v.2))

/-- An MX dequantise of one element under a scale code (R232). -/
def mxDequantise (src dst scale v : Nat) (rnd : Option (BitVec 32)) (sat : Bool) : Nat :=
  if scale = 0xFF then nanCode dst else
  match decodeNum src v with
  | .fin neg m q => encodeNum dst (.fin neg m (q + (scale : Int) - 127 - (if src = 9 then 6 else 0))) rnd sat
  | x => encodeNum dst x rnd sat

/-! ## Elements in bytes -/

/-- Element `a` of `e` bytes in a list of bytes (R219, R223). -/
def elemAt (bs : List Byte) (e a : Nat) : Nat := leNat ((bs.drop (a * e)).take e)

/-- The elements of `e` bytes that a list of bytes holds. -/
def elems (bs : List Byte) (e n : Nat) : List Nat := (List.range n).map (elemAt bs e)

/-- Elements put into bytes. -/
def elemBytes (e : Nat) (vs : List Nat) : List Byte := vs.flatMap (leBytes e)

/-- A block of bytes converted element by element with nearest even and saturation, as the LDT, STT, GATH and SCAT
paths do (R222). -/
def convertBytes (cvt : BitVec 8) (bs : List Byte) : List Byte :=
  if cvt = 0 then bs else
  let es := fmtBytes (cvtSrc cvt)
  elemBytes (fmtBytes (cvtDst cvt)) ((elems bs es (bs.length / es)).map (convertElem cvt.toNat none true))

end Sys2Proof.Machine
end

