-- ==== Sys2Proof/Machine/Operands.lean ====
section
/-! DEFINITION. Operand forms: the shares of tile registers and their frame pairs (R99, R279, R280, R434), Pool regions
with their mappings, copies, halves and write buffers (R262 to R272), loop-indexed addresses (R111), the Setting Store's
sub-slots (R147 to R151), and what a stream is allocated (R97, R98). -/

namespace Sys2Proof.Machine

/-! ## Tile registers -/

/-- The copy that reads of a register use: Tn, or its partner where PAIRSEL names it (R280). -/
def State.readCopy (s : State) (p : StreamId) (r : BitVec 8) : BitVec 8 :=
  match s.image.bank.partner p r with
  | none => r
  | some m => if (s.stream p).ctx.pairsel.getLsbD r.toNat then m else r

/-- The copy that writes go to: for a persistent register the other one (R434). -/
def State.writeCopy (s : State) (p : StreamId) (r : BitVec 8) : BitVec 8 :=
  match s.image.bank.partner p r with
  | none => r
  | some m => if (s.stream p).ctx.pairsel.getLsbD r.toNat then r else m

/-- The key of a lane of a register (R99). -/
def tileKey (r : BitVec 8) (lane : Nat) : Nat := r.toNat * 8192 + lane

/-- A local lane of a physical register: 0 where the share's in-use flag is 0 (R279). -/
def State.tileByte (s : State) (p : StreamId) (r : BitVec 8) (m : Nat) : Byte :=
  if s.tileUse.contains (shareKey p r) then memGet s.tiles (tileKey r (s.globalLane p m)) else 0

/-- A stream's share of a register, as an instruction or a weir reads it. -/
def State.share (s : State) (p : StreamId) (r : BitVec 8) : List Byte :=
  (List.range s.lanes).map (s.tileByte p (s.readCopy p r))

/-- The poison mark that a read of a register meets (R28). -/
def State.tileMark (s : State) (p : StreamId) (r : BitVec 8) : Option Origin :=
  markGet s.tileMarks (shareKey p (s.readCopy p r))

/-- The bytes of a register file without a stream's share of a register. -/
def State.dropShare (s : State) (p : StreamId) (r : BitVec 8) : Mem :=
  s.tiles.filter (fun c => !(c.1 / 8192 == r.toNat && c.1 % 8192 % s.parts == p.toNat))

/-- A performed write of a share: local lanes and bytes, with the mark of the result (R28, R279, R434). The lanes that the
first write after the in-use flag was cleared leaves out are 0 (R279, R281). -/
def State.writeTile (s : State) (p : StreamId) (r : BitVec 8) (cells : Mem) (mark : Option Origin) : State :=
  let w := s.writeCopy p r
  let at_ := cells.map (fun c => (tileKey w (s.globalLane p c.1), c.2))
  State.coverWords
    { s with tiles := writeCells (if s.tileUse.contains (shareKey p w) then s.tiles else s.dropShare p w) at_
             tileUse := insertNat s.tileUse (shareKey p w)
             tileMarks := markAdd s.tileMarks (shareKey p w) mark
             tilesWritten := if (s.image.bank.partner p r).isSome then insertNat s.tilesWritten (shareKey p r)
                             else s.tilesWritten }
    .tiles at_

/-- The coded words of a share (R345). -/
def State.tileWords (s : State) (p : StreamId) (r : BitVec 8) : List Nat :=
  (s.eccBad ++ s.eccOne).filterMap (fun e => if e.1 == Store.tiles && decide (e.2 / 1024 = r.toNat) &&
    (List.range 8).any (fun i => (8 * e.2 + i) % 8192 % s.parts == p.toNat) then some e.2 else none)

/-- A read of the share meets an uncorrectable word (R115, R345). -/
def State.tileBad (s : State) (p : StreamId) (r : BitVec 8) : Bool :=
  let c := s.readCopy p r
  s.tileUse.contains (shareKey p c) && (s.tileWords p c).any (s.uncorrectable .tiles)

/-- Bytes put into consecutive local lanes. -/
def lanesFrom (m : Nat) (bs : List Byte) : Mem := bs.mapIdx (fun i b => (m + i, b))

/-! ## Allocation -/

/-- The register mask (R98). -/
def State.hasReg (s : State) (p : StreamId) (r : Nat) : Bool := decide (r < 256) && s.maskBit p 96 r
def State.hasSlot (s : State) (p : StreamId) (n : Nat) : Bool := s.maskBit p 192 n

/-- A range of the stream's record: base and count as u16 (R316). -/
def State.inRange16 (s : State) (p : StreamId) (o n : Nat) : Bool :=
  decide (s.recAt p o 2 ≤ n ∧ n < s.recAt p o 2 + s.recAt p (o + 2) 2)

def State.hasTally (s : State) (p : StreamId) (n : Nat) : Bool := s.inRange16 p 8 n
def State.hasEndpoint (s : State) (p : StreamId) (n : Nat) : Bool := s.inRange16 p 12 n
def State.hasTimer (s : State) (p : StreamId) (n : Nat) : Bool := s.inRange16 p 16 n
def State.hasRegion (s : State) (p : StreamId) (r : Nat) : Bool := (s.image.bank.regionList p).contains r

/-- A valid descriptor whose STRM names the stream is allocated to it (R97, R172). -/
def State.hasDesc (s : State) (p : StreamId) (d : Nat) : Bool :=
  let e := readLe s.image.bank.descs (256 * d) 4
  bitOf e 0 && (field e 13 4 == p.toNat)

/-- Base and count of the stream's wells (R247). -/
def State.wellBase (s : State) (p : StreamId) : Nat := s.recAt p 20 4
def State.wellCount (s : State) (p : StreamId) : Nat := s.recAt p 24 4

/-! ## Pool regions -/

/-- An entry of the Pool region table (R262). -/
structure Region where
  valid   : Bool
  mode    : Nat
  owner   : Nat
  share   : Bool
  persist : Bool
  hostR   : Bool
  hostW   : Bool
  row     : Nat
  nrow    : Nat
  skew    : Nat
  key     : BitVec 64
  deriving DecidableEq, Repr

/-- The entry that a region number names (R262). -/
def Bank.region (b : Bank) (r : Nat) : Region :=
  let e := readLe b.poolRegions (16 * r) 8
  { valid := bitOf e 0, mode := field e 1 2, owner := field e 3 4, share := bitOf e 7, persist := bitOf e 8,
    hostR := bitOf e 9, hostW := bitOf e 10, row := field e 16 11, nrow := field e 27 12, skew := field e 39 10,
    key := BitVec.ofNat 64 (readLe b.poolRegions (16 * r + 8) 8) }

/-- A region with two halves (R265). -/
def Region.halved (g : Region) : Bool := decide (g.mode = 2) || g.persist

/-- Set-rows of one half, or of the region (R265). -/
def Region.rows (g : Region) : Nat := if g.halved then g.nrow / 2 else g.nrow

/-- Nb, the banks of a set (R260). -/
def State.setBanks (s : State) : Nat := s.cfg.banks / s.parts

/-- S, the bytes that offsets address (R265). -/
def State.regionSize (s : State) (g : Region) : Nat := g.rows * s.setBanks * 32

/-- The sets that hold a copy (R264). -/
def State.copySets (s : State) (r : Nat) : List StreamId :=
  let g := s.image.bank.region r
  allStreams.filter (fun p => decide (p.toNat < s.parts) &&
    (p.toNat == g.owner || (g.share && (s.image.bank.regionList p).contains r)))

/-- The key in force for a relative set-row of a gather region (R266, R277). -/
def State.rowKey (s : State) (r : Nat) (g : Region) (row : Nat) : BitVec 64 :=
  match s.pool.churn.step with
  | some k => if k.region.toNat = r ∧ row % 8 < k.step then k.key else sparseGet g.key s.pool.churn.keys r
  | none => sparseGet g.key s.pool.churn.keys r

/-- The bank of a column in a relative set-row (R266). -/
def State.bankOf (s : State) (r : Nat) (g : Region) (row col : Nat) : Nat :=
  let nb := s.setBanks
  if g.mode = 1 then
    let z := mix64 (s.rowKey r g row ^^^ BitVec.ofNat 64 row)
    ((col ^^^ (z.toNat % nb)) + z.toNat / 2 ^ 32 % nb) % nb
  else (col + g.skew * row) % nb

/-- The physical byte of offset `o` of a half in the copy of a set (R260, R266). -/
def State.poolAddr (s : State) (r : Nat) (set : StreamId) (half o : Nat) : Nat :=
  let g := s.image.bank.region r
  let nb := s.setBanks
  let x := o / 32
  let row := x / nb
  let bank := s.bankOf r g row (x % nb) * s.parts + set.toNat
  32 * s.cfg.banks * (g.row + half * (g.nrow / 2) + row) + 32 * bank + o % 32

/-- The half that a stream instruction reads: the current copy of a frame pair, half F mod 2 of a landing region (R201,
R434). -/
def State.readHalf (s : State) (r : Nat) : Nat :=
  let g := s.image.bank.region r
  if g.mode = 2 then s.clock.frame.toNat % 2 else if g.persist then sparseGet 0 s.pool.half r else 0

/-- The half that a stream's STT or SEPR writes: the other copy of a frame pair (R434). -/
def State.writeHalf (s : State) (r : Nat) : Nat :=
  let g := s.image.bank.region r
  if g.mode ≠ 2 ∧ g.persist then 1 - sparseGet 0 s.pool.half r else 0

/-- The lowest offending byte of a range, where one is (R116): the range must lie in the region, and a write needs the
owner (R262). -/
def State.rangeBad (s : State) (p : StreamId) (r : Nat) (a : Int) (n : Nat) (write : Bool) : Option Int :=
  let g := s.image.bank.region r
  let size : Int := s.regionSize g
  if !g.valid then some a
  else if write && (g.owner != p.toNat || g.mode == 2) then some a
  else if !write && (g.owner != p.toNat && !g.share) then some a
  else if a < 0 then some a
  else if size < a + n then some (max a size) else none

/-- An agent sees an entry of a write buffer at a cycle (R125, R272). -/
def PoolEntry.seenBy (e : PoolEntry) (viewer : Option StreamId) (cycle : Nat) : Bool :=
  decide (e.others ≤ cycle) || (viewer == some e.owner && decide (e.own ≤ cycle))

/-- The youngest entry of a write buffer that holds a physical byte for an agent. -/
def State.forwarded (s : State) (viewer : Option StreamId) (cycle a : Nat) : Option PoolEntry :=
  (s.pool.wbuf.filter (fun e => e.seenBy viewer cycle && e.cells.any (fun c => c.1 == a))).getLast?

/-- A Pool byte as an agent sees it at a cycle: the youngest entry of a write buffer that the agent sees, else the bank
(R125, R272). -/
def State.poolByte (s : State) (viewer : Option StreamId) (cycle a : Nat) : Byte :=
  match s.forwarded viewer cycle a with
  | some e => memGet (e.cells.filter (fun c => c.1 == a)) a
  | none => memGet s.pool.bytes a

/-- An agent's read of bytes of a half in the copy of a set (R264, R272). -/
def State.poolView (s : State) (viewer : Option StreamId) (set : StreamId) (r half o n : Nat) : List Byte :=
  (List.range n).map (fun i => s.poolByte viewer s.clock.offset (s.poolAddr r set half (o + i)))

/-- A stream's read of bytes of a region. -/
def State.poolRead (s : State) (p : StreamId) (r o n : Nat) : List Byte := s.poolView (some p) p r (s.readHalf r) o n

/-- The mark that a read of a half meets (R435). -/
def State.markAt (s : State) (p : StreamId) (r half o n : Nat) : Option Origin :=
  if s.pool.marks.isEmpty then none else
  joinMarks ((List.range n).map (fun i => markGet s.pool.marks (s.poolAddr r p half (o + i))))

/-- The mark that a stream's read meets. -/
def State.poolMark (s : State) (p : StreamId) (r o n : Nat) : Option Origin := s.markAt p r (s.readHalf r) o n

/-- The offset of the first byte of a range that an agent reads at a cycle from an uncorrectable word of the banks (R115, R125,
R345). -/
def State.poolBadAt (s : State) (viewer : Option StreamId) (p : StreamId) (r half o n cycle : Nat) : Option Nat :=
  if s.eccBad.isEmpty then none else
  (List.range n).findSome? (fun i =>
    let a := s.poolAddr r p half (o + i)
    if s.uncorrectable .pool (a / 8) && (s.forwarded viewer cycle a).isNone then some (o + i) else none)

/-- The same for a stream's read of a region. -/
def State.poolBad (s : State) (p : StreamId) (r o n cycle : Nat) : Option Nat := s.poolBadAt (some p) p r (s.readHalf r) o n cycle

/-- Every Pool byte of a range that an instruction of this frame writes is readable at a cycle, for its own stream or, without a
viewer, for another agent (R26, R95). -/
def State.poolReadable (s : State) (viewer : Option StreamId) (r o n cycle : Nat) : Bool :=
  allStreams.all (fun q => (s.stream q).stored.all (fun w =>
    w.region != r || !rangesMeet w.off w.len o n || decide ((if viewer = some q then w.own else w.others) ≤ cycle)))

/-- Pool writes of a stream that will be readable at their cycles. -/
def State.store (s : State) (p : StreamId) (ws : List Stored) : State :=
  s.modStream p (fun x => { x with stored := x.stored.filter (fun w => decide (s.clock.offset < w.others)) ++ ws })

/-- The first word of an entry, by its bank word, and what the entry holds besides. -/
def PoolEntry.word (e : PoolEntry) : Mem × Mem :=
  match e.cells with
  | [] => ([], [])
  | c :: _ => (e.cells.filter (fun d => d.1 / 32 == c.1 / 32), e.cells.filter (fun d => d.1 / 32 != c.1 / 32))

/-- The oldest word of a set's entries is taken out, once every agent sees it; an entry without a word left goes. -/
def drainFirst (set : StreamId) (cycle : Nat) : List PoolEntry → Mem × List PoolEntry
  | [] => ([], [])
  | e :: l =>
    if e.set ≠ set then let r := drainFirst set cycle l; (r.1, e :: r.2)
    else if cycle < e.others then ([], e :: l)
    else
      let w := e.word
      (w.1, if w.2.isEmpty then l else { e with cells := w.2 } :: l)

/-- The oldest word of a set's write buffer goes to its bank (R272). -/
def State.drainOut (s : State) (set : StreamId) : State :=
  let r := drainFirst set s.clock.offset s.pool.wbuf
  State.coverWords { s with pool := { s.pool with bytes := writeCells s.pool.bytes r.1, wbuf := r.2 } } .pool r.1

/-- The bank of a physical byte (R260). -/
def State.bankAt (s : State) (a : Nat) : Nat := a / 32 % s.cfg.banks

/-- Banks whose cycle on the instruction port is taken (R271); one that is named twice loses the cycle after it too (R267). -/
def State.takeBanks (s : State) (bs : List Nat) : State := { s with cycle := { s.cycle with banks := s.cycle.banks ++ bs } }

/-- What accesses that take further cycles leave taken of the next cycle (R267). -/
def CycleUse.carry (c : CycleUse) : CycleUse := { CycleUse.none with banks := c.banks.eraseDups.foldl List.erase c.banks }

/-- The bank that the oldest word of a set's write buffer waits for. -/
def State.drainBank (s : State) (set : StreamId) : Option Nat :=
  (drainFirst set s.clock.offset s.pool.wbuf).1.head?.map (fun c => s.bankAt c.1)

/-- A cycle's drain of a set: its oldest word, where the word's bank serves nothing else in the cycle (R271, R272). -/
def State.drainWord (s : State) (set : StreamId) : State :=
  match s.drainBank set with
  | some b => if s.cycle.banks.contains b then s else (s.drainOut set).takeBanks [b]
  | none => s.drainOut set

/-- Words in a set's write buffer. -/
def State.buffered (s : State) (set : StreamId) : Nat :=
  ((s.pool.wbuf.filter (fun e => e.set == set)).map (fun e => ((e.cells.map (fun c => c.1 / 32)).eraseDups).length)).sum

/-- The drains of a cycle: of every set the words in their order, each in a bank that serves nothing else (R271, R272). -/
def State.drainSets (s : State) : State :=
  if s.pool.wbuf.isEmpty then s else
  (List.range s.parts).foldl (fun s i => let set : StreamId := BitVec.ofNat 4 i
                                         Nat.repeat (fun t => t.drainWord set) (s.buffered set) s) s

/-- A stream's write of a region: it enters the write buffers of every copy, visible to the owner and to the others at
their cycles, with the marks of R435. -/
def State.poolWrite (s : State) (p : StreamId) (r : Nat) (cells : Mem) (own others : Nat) (mark : Option Origin) : State :=
  let g := s.image.bank.region r
  let h := s.writeHalf r
  (s.copySets r).foldl (fun s set =>
    let at_ := cells.map (fun c => (s.poolAddr r set h c.1, c.2))
    { s with pool := { s.pool with
        wbuf := s.pool.wbuf ++ [⟨set, p, at_, own, others⟩]
        marks := at_.foldl (fun m c => markAdd m c.1 mark) s.pool.marks
        written := if g.persist then insertNat s.pool.written r else s.pool.written } }) s

/-- A write straight into the banks: what entries that the agent sees still hold of the bytes gives way (R272, R275). -/
def State.poolStore (s : State) (cells : Mem) : State :=
  State.coverWords
    { s with pool := { s.pool with
        bytes := writeCells s.pool.bytes cells
        wbuf := (s.pool.wbuf.map (fun e => if s.clock.offset < e.others then e else
          { e with cells := e.cells.filter (fun c => !cells.any (fun d => d.1 == c.1)) })).filter (fun e => !e.cells.isEmpty) } }
    .pool cells

/-! ## Landing regions -/

/-- Bytes that a stream block of a GATH or SCAT takes in the Pool: D of R225. -/
def sluiceBlock (f : SluiceF) : Nat :=
  if f.cvt = 0 then 512 else 512 * fmtBytes (cvtDst f.cvt) / fmtBytes (cvtSrc f.cvt)

/-- D of R225 for a SCAT: the Pool bytes of a stream block lie on the source side of the conversion. -/
def scatBlock (f : SluiceF) : Nat := if f.cvt = 0 then 512 else 512 * fmtBytes (cvtSrc f.cvt) / fmtBytes (cvtDst f.cvt)

/-- The Pool source of a SCAT, or the pattern of a BCST (R126, R180): region, offset, length. -/
def sluiceSource (op : Op) : List (Nat × Nat × Nat) :=
  match op with
  | .scat f => [(f.region.toNat, f.off.toNat, f.count.toNat * scatBlock f)]
  | .bcst f => [(f.region.toNat, f.off.toNat, 512)]
  | _ => []

/-- The positions (memory-side) that a landed Pool offset derives from: the whole element (R180, R225). -/
def sluicePositions (f : SluiceF) (o : Nat) : List Nat :=
  if o < f.off.toNat then [] else
  let b := o - f.off.toNat
  if f.cvt = 0 then [b] else
  let em := fmtBytes (cvtSrc f.cvt)
  let a := b / fmtBytes (cvtDst f.cvt)
  (List.range em).map (fun i => a * em + i)

/-- A read of an instruction of a frame meets a byte whose landing, ordered in the frame before, is not complete (R203). Bytes of a
request that was suppressed or failed count as not complete (DESIGN CHOICE, log entry 66). -/
def State.landLateIn (s : State) (frame : Frame) (p : StreamId) (r o n : Nat) : Bool :=
  (s.stream p).jobs.any (fun j =>
    !j.left.isEmpty && j.f.region.toNat == r && j.frame + 1 == frame &&
    (match j.op with | .gath _ => true | _ => false) &&
    (List.range n).any (fun i => (sluicePositions j.f (o + i)).any j.missing))

/-- The same for a read of this frame. -/
def State.landLate (s : State) (p : StreamId) (r o n : Nat) : Bool := s.landLateIn s.clock.frame p r o n

/-! ## Loop-indexed addresses -/

/-- The loop index r (R111). -/
def loopIndex (loop : Vector (BitVec 24) 4) (ilvl : BitVec 2) (idxen : Bool) : Nat :=
  let l := (loop[ilvl.toNat]'(by have := ilvl.isLt; omega)).toNat
  if idxen ∧ 1 ≤ l ∧ l ≤ 16777214 then l - 1 else 0

/-- Element sizes of a slab transfer: register side, Pool side, and n = L/Emax (R222, R223). -/
def xferSizes (f : XferF) (toReg : Bool) : Nat × Nat :=
  if f.cvt = 0 then (1, 1) else
  let a := fmtBytes (cvtSrc f.cvt)
  let b := fmtBytes (cvtDst f.cvt)
  if toReg then (b, a) else (a, b)

/-- n of R223: elements of a slab. -/
def xferCount (f : XferF) (toReg : Bool) (lanes : Nat) : Nat :=
  let (er, ep) := xferSizes f toReg
  lanes / max er ep

/-- P of R223: the Pool-side slab size. -/
def xferSlab (f : XferF) (toReg : Bool) (lanes : Nat) : Nat := xferCount f toReg lanes * (xferSizes f toReg).2

/-- A of slab i (R111, R223). -/
def xferAddr (f : XferF) (toReg : Bool) (lanes : Nat) (loop : Vector (BitVec 24) 4) (i : Nat) : Int :=
  (f.off.toNat : Int) + f.stride.toInt * loopIndex loop f.ilvl f.idxen + i * xferSlab f toReg lanes

/-- Z of R269: bytes of a transpose tile. -/
def xferTile (f : XferF) (toReg : Bool) : Nat := 4 ^ f.tsz.toNat * (xferSizes f toReg).2

/-- The range that slab i checks: first byte and length (R223, R269). -/
def xferRange (f : XferF) (toReg : Bool) (lanes : Nat) (loop : Vector (BitVec 24) 4) (i : Nat) : Int × Nat :=
  let a := xferAddr f toReg lanes loop i
  let p := xferSlab f toReg lanes
  let z := xferTile f toReg
  if f.tr ∧ p < z then (a - a % z, z) else (a, p)

/-- The Pool offset of register element a of slab i (R223, R269). -/
def xferElemOff (f : XferF) (toReg : Bool) (lanes : Nat) (base a : Nat) : Nat :=
  let ep := (xferSizes f toReg).2
  if !f.tr then base + a * ep else
  let t := 2 ^ f.tsz.toNat
  let z := xferTile f toReg
  let p := xferSlab f toReg lanes
  let n := xferCount f toReg lanes
  let (b, π) := if z ≤ p then (base + a / (t * t) * z, a % (t * t)) else (base - base % z, base % z / p * n + a)
  b + (π % t * t + π / t) * ep

/-- The Pool bytes that slab i moves, as runs of offset and length: the range at A, and with a tile greater than a slab the
n elements of it that the slab takes (R223, R269). -/
def xferRuns (f : XferF) (toReg : Bool) (lanes : Nat) (loop : Vector (BitVec 24) 4) (i : Nat) : List (Nat × Nat) :=
  let a := (xferAddr f toReg lanes loop i).toNat
  let p := xferSlab f toReg lanes
  let z := xferTile f toReg
  if !f.tr ∨ z ≤ p then [(a, p)] else
  let ep := (xferSizes f toReg).2
  let n := xferCount f toReg lanes
  let t := 2 ^ f.tsz.toNat
  let b := a - a % z
  let π := a % z / p * n
  if t ≤ n then (List.range t).map (fun r => (b + (r * t + π / t) * ep, n / t * ep))
  else (List.range n).map (fun r => (b + ((π % t + r) * t + π / t) * ep, ep))

/-! ## The Setting Store -/

/-- The number of a sub-slot: slot·16 + sub (R121). -/
def subSlot (slot : BitVec 8) (sub : BitVec 4) : Nat := slot.toNat * 16 + sub.toNat

/-- A sub-slot holds a setting (R121, R151). -/
def State.settingValid (s : State) (n : Nat) : Bool := s.settings.valid.contains n

end Sys2Proof.Machine
end

