-- ==== Sys2Proof/Machine/Cascade.lean ====
section
/-! DEFINITION. The Cascade (R144 to R150), its passes with plane form (R155, R156), the spare stage (R159 to R161), the
bit-permute-complement maps (R153) and the Setter's algorithm (R163). -/

namespace Sys2Proof.Machine

/-! ## The Setter's algorithm -/

/-- x with its low bit inverted. -/
def flip1 (x : Nat) : Nat := if x % 2 = 0 then x + 1 else x - 1

/-- One loop of R163 from source `src`: input switches (set ones with their position) and output switches. -/
def setterLoop (cur inv : List Nat) : Nat → Nat → List (Option Bool) → List Bool → List (Option Bool) × List Bool
  | 0, _, xin, xout => (xin, xout)
  | fuel + 1, src, xin, xout =>
    let d := cur.getD src 0
    let xout := xout.set (d / 2) (d % 2 == 1)
    let s2 := inv.getD (flip1 d) 0
    if (xin.getD (s2 / 2) none).isSome then (xin, xout)
    else setterLoop cur inv fuel (flip1 s2) (xin.set (s2 / 2) (some (s2 % 2 == 0))) xout

/-- The switches of one level of one subnetwork (R163). -/
def setterLevel (cur : List Nat) : List Bool × List Bool :=
  let half := cur.length / 2
  let inv := (List.range cur.length).map (fun y => cur.idxOf y)
  let r := (List.range half).foldl (fun (st : List (Option Bool) × List Bool) a =>
      if (st.1.getD a none).isSome then st
      else setterLoop cur inv (half + 1) (2 * a) (st.1.set a (some false)) st.2)
    (List.replicate half none, List.replicate half false)
  (r.1.map (·.getD false), r.2)

/-- The vector of one of the two inner subnetworks (R163): the sources that enter subnetwork `e`. -/
def setterSub (cur : List Nat) (xin : List Bool) (e : Bool) : List Nat :=
  (List.range (cur.length / 2)).map (fun x =>
    let src := if xin.getD x false == e then 2 * x else 2 * x + 1
    cur.getD src 0 / 2)

/-- Switch bits of two subnetworks side by side: class e of switch a is switch 2·a + e. -/
def interleave : List Bool → List Bool → List Bool
  | a :: as, b :: bs => a :: b :: interleave as bs
  | _, _ => []

/-- bit[t][u] for local stages 0 to 2n − 2 of a network on 2^n lanes (R163). -/
def setter : Nat → List Nat → List (List Bool)
  | 0, _ => []
  | 1, cur => [[cur.getD 0 0 == 1]]
  | n + 2, cur =>
    let (xin, xout) := setterLevel cur
    xin :: List.zipWith interleave (setter (n + 1) (setterSub cur xin false)) (setter (n + 1) (setterSub cur xin true))
      ++ [xout]

/-- The offending lane of a destination vector: the lowest whose entry is L or greater or repeats an earlier one (R162). -/
def offendingLane (l : Nat) (dst : List Nat) : Option Nat :=
  (List.range dst.length).find? (fun m => l ≤ dst.getD m 0 || (dst.take m).contains (dst.getD m 0))

/-- T(L), the slice cycles of a computation on 2^n lanes (R34, R165). -/
def setterTime (n : Nat) : Nat := (n - 1) * 2 ^ n / 64 + 2 * (13 - n)

/-- Bits packed eight to a byte (R147). -/
def packBits : List Bool → List Byte
  | [] => []
  | bs => (List.range ((bs.length + 7) / 8)).map (fun i =>
      BitVec.ofNat 8 ((List.range 8).foldl (fun a r => a + if bs.getD (8 * i + r) false then 2 ^ r else 0) 0))

/-- The bytes of a sub-slot for a partition of 2^n lanes under SXPOS, `q` the local stage that SX replaces (R148, R161,
R164). -/
def settingBytes (n : Nat) (stages : List (List Bool)) (q : Option Nat) : List Byte :=
  let zero := List.replicate (2 ^ n / 2) false
  let body := stages.mapIdx (fun t b => if q = some t then zero else b)
  let sx := match q with | none => zero | some t => stages.getD t zero
  (body ++ [sx]).flatMap packBits

/-- The local stage that SXPOS replaces under a cut (R160, R161). -/
def localStage (sxpos : BitVec 5) (cut : Nat) : Option Nat := if sxpos = 0 then none else some (sxpos.toNat - cut)

/-! ## The Setting Store -/

/-- The first byte of a sub-slot in the window's layout under a cut (R148, R150). -/
def slotPlace (c : Configuration) (cut n : Nat) : Nat := n / 16 * 0x3400 + n % 16 * (c.settingBytes / 2 ^ cut)

/-- Bytes of a sub-slot's layout under a cut (R148): 2n blocks of L/16. -/
def usedBytes (c : Configuration) (cut : Nat) : Nat := 2 * (c.laneBits - cut) * (2 ^ (c.laneBits - cut) / 16)

def State.subSlotAt (s : State) (n : Nat) : Nat := slotPlace s.cfg s.cut n
def State.subSlotBytes (s : State) : Nat := usedBytes s.cfg s.cut

/-- The form that the Store is in: until a re-form is complete, that of the SXPOS before it (R161). -/
def State.storeForm (s : State) : BitVec 5 := s.settings.reform.getD s.settings.sxpos

/-- A sub-slot read meets an uncorrectable word (R115, R345). -/
def State.settingBad (s : State) (n : Nat) : Bool :=
  s.eccBad.any (fun e => e.1 == Store.settings && decide (s.subSlotAt n < 8 * e.2 + 8 ∧ 8 * e.2 < s.subSlotAt n + s.subSlotBytes))

/-- A sub-slot is read: flipped bits are corrected (R346). -/
def State.readSetting (s : State) (n : Nat) : State :=
  s.readRanges .settings [(s.subSlotAt n, s.subSlotBytes)]

/-- A setting written into a sub-slot, which becomes valid (R151, R164). -/
def State.putSetting (s : State) (n : Nat) (bs : List Byte) : State :=
  State.coverWords
    { s with settings := { s.settings with bytes := writeBytes s.settings.bytes (s.subSlotAt n) bs
                                           valid := insertNat s.settings.valid n } }
    .settings (lanesFrom (s.subSlotAt n) bs)

/-- A sub-slot becomes invalid (R151). -/
def State.dropSetting (s : State) (n : Nat) : State :=
  { s with settings := { s.settings with valid := eraseNat s.settings.valid n } }

/-! ## Passes -/

/-- b(i) of stage Si (R144, R159). -/
def stageBit (c i : Nat) : Nat := min i (2 * c - 2 - i)

/-- The switch that serves a lane in a stage with pairing bit b (R145). -/
def switchOf (b lane : Nat) : Nat := lane / 2 ^ (b + 1) * 2 ^ b + lane % 2 ^ b

/-- The partner of a lane (R145). -/
def partnerLane (b lane : Nat) : Nat := if lane / 2 ^ b % 2 = 0 then lane + 2 ^ b else lane - 2 ^ b

/-- The number that names SX among the stages of `defects`: its block of a setting (R147). -/
def sxStage : Nat := 25

/-- A lane cell is replaced by a spare: PSI_LANESPARE of its array (R348, R420). -/
def State.cellReplaced (s : State) (cell : Nat) : Bool :=
  let a := cell / 128
  let w := ((s.repair.lanes[a / 2]?.getD 0).toNat) / 2 ^ (16 * (a % 2)) % 65536
  (bitOf w 7 && w % 128 == cell % 128) || (bitOf w 15 && field w 8 7 == cell % 128)

/-- The defect that acts on a switch, where one does: an outer stage's switch lies in the lane cell of its low lane
(R348), and a spare that replaces the cell has defects of its own, 32 above the stage. -/
def State.defectAt (s : State) (stage b w : Nat) : Option Defect :=
  let lo := w / 2 ^ b * 2 ^ (b + 1) + w % 2 ^ b
  let spare := (stage < 4 || (decide (2 * s.cfg.laneBits - 6 < stage) && stage != sxStage)) && s.cellReplaced (lo / 4)
  (s.defects.find? (fun d => d.1 == (if spare then stage + 32 else stage) && d.2.1 == w)).map (fun d => d.2.2)

/-- The lane whose byte a switch delivers on `lane`: a set switch exchanges, a defect acts as it dictates (R83, R145). -/
def switchSource (b lane : Nat) (bit : Bool) (d : Option Defect) : Nat :=
  let other := partnerLane b lane
  let lo := min lane other
  match d with
  | none => if bit then other else lane
  | some .straight => lane
  | some .crossed => other
  | some .copyLow => if bit then lo else lane
  | some .copyHigh => if bit then max lane other else lane

/-- The source lane of an output lane (both global), back through the stages; `bits` gives each stage's switch bits and
`sx` the stage that SX serves (R146, R160). -/
def State.sourceLane (s : State) (sx : Nat) (bits : Nat → Nat → Bool) : List Nat → Nat → Nat
  | [], lane => lane
  | i :: is, lane =>
    let b := stageBit s.cfg.laneBits i
    let w := switchOf b lane
    let d := s.defectAt (if sx = i ∧ sx ≠ 0 then sxStage else i) b w
    s.sourceLane sx bits is (switchSource b lane (bits i w) d)

/-- The stages from last to first. -/
def State.stagesBack (s : State) : List Nat := (List.range (2 * s.cfg.laneBits - 1)).reverse

/-- Switch bits of a partition's pass under the setting of a sub-slot: the straight stages of the cut are held straight
(R82), a replaced stage takes its bits from the SX block (R160). -/
def State.settingBit (s : State) (n : Nat) (i w : Nat) : Bool :=
  let j := s.cut
  let last := 2 * s.cfg.laneBits - 2
  if i < j ∨ last - j < i then false else
  let t := if s.settings.sxpos.toNat = i ∧ i ≠ 0 then 2 * s.laneBits - 1 else i - j
  let u := w / 2 ^ j
  bitOf (memGet s.settings.bytes (s.subSlotAt n + t * (s.lanes / 16) + u / 8)).toNat (u % 8)

/-- Switch bits of a computed setting for a partition. -/
def State.computedBit (s : State) (stages : List (List Bool)) (i w : Nat) : Bool :=
  let j := s.cut
  let last := 2 * s.cfg.laneBits - 2
  if i < j ∨ last - j < i then false else (stages.getD (i - j) []).getD (w / 2 ^ j) false

/-- The slab that another partition passes in this cycle, where one does (R83). -/
def State.passingIn (s : State) (q : Nat) : Option Passing := s.cycle.passing.find? (fun o => o.stream.toNat == q)

/-- Plane form to element form, and back (R155). -/
def toElements (bs : List Byte) : List Byte :=
  let l := bs.length
  (List.range l).map (fun e => BitVec.ofNat 8 ((List.range 8).foldl (fun a i =>
    a + if bitOf (bs.getD (i * (l / 8) + e / 8) 0).toNat (e % 8) then 2 ^ i else 0) 0))
def toPlanes (es : List Byte) : List Byte :=
  let l := es.length
  (List.range l).map (fun x => BitVec.ofNat 8 ((List.range 8).foldl (fun a r =>
    a + if bitOf (es.getD (8 * (x % (l / 8)) + r) 0).toNat (x / (l / 8)) then 2 ^ r else 0) 0))

/-- The declared PLANE of a partition (R85, R316). -/
def State.plane (s : State) (p : StreamId) : Bool := bitOf (s.recAt p 6 1) 3

/-- A slab as the Cascade and CHK take it: element form where PLANE is 1 (R156, R157). -/
def State.elementForm (s : State) (p : StreamId) (bs : List Byte) : List Byte := if s.plane p then toElements bs else bs

/-- The destination of a local lane under a bit-permute-complement map (R123, R153). -/
def bpcDest (n : Nat) (map : BitVec 65) (src : Nat) : Nat :=
  (List.range n).foldl (fun d i =>
    let e := field map.toNat (5 * i) 5
    let b := bitOf src (e % 16) != bitOf e 4
    d + if b then 2 ^ i else 0) 0

/-- The destination vector of a map (R154). -/
def bpcVector (n : Nat) (map : BitVec 65) : List Nat := (List.range (2 ^ n)).map (bpcDest n map)

/-- A slab permuted by a destination vector: the byte of lane m goes to lane dst[m]. -/
def permuteBy (dst : List Nat) (slab : List Byte) : List Byte :=
  (List.range slab.length).map (fun d => slab.getD (dst.idxOf d) 0)

/-- The switch bits under which a partition passes a slab: those of its sub-slot, or of its map's vector (R154). -/
def Passing.bits (o : Passing) (s : State) : Nat → Nat → Bool :=
  match o.slot with
  | some n => s.settingBit n
  | none => s.computedBit (setter s.laneBits (bpcVector s.laneBits o.map))

/-- The bits that the switches of all partitions hold while `p` passes a slab under `bits`: the straight stages of the cut are held
straight (R82), and a partition that passes no slab in this cycle holds its switches as it happens to. -/
def State.cutBits (s : State) (p : StreamId) (bits : Nat → Nat → Bool) (i w : Nat) : Bool :=
  let q := w % s.parts
  if i < s.cut ∨ 2 * s.cfg.laneBits - 2 - s.cut < i then false
  else if q = p.toNat then bits i w
  else match s.passingIn q with
    | some o => o.bits s i w
    | none => Config.idleBit s.clock.drawn i w

/-- The byte that leaves a partition's pass for a source lane: its own slab's, or where a defect has carried it over, that of the
slab that the other partition passes in this cycle (R83). -/
def State.passByte (s : State) (p : StreamId) (slab : List Byte) (src : Nat) : Byte :=
  if src % s.parts = p.toNat then slab.getD (src / s.parts) 0
  else match s.passingIn (src % s.parts) with
    | some o => o.slab.getD (src / s.parts) 0
    | none => Config.strayByte s.clock.drawn src

/-- A pass of a slab through a partition under switch bits; without a defect no switch carries a byte over (R83). -/
def State.pass (s : State) (p : StreamId) (bits : Nat → Nat → Bool) (slab : List Byte) : List Byte :=
  let held := if s.defects.isEmpty then bits else s.cutBits p bits
  (List.range slab.length).map (fun m =>
    s.passByte p slab (s.sourceLane s.settings.sxpos.toNat held s.stagesBack (s.globalLane p m)))

/-- A PBPC pass: the lane mapping of R153 on a sound Cascade; on a defective one, the switches of the Setter's setting
for the map's vector (R154). -/
def State.bpcPass (s : State) (p : StreamId) (map : BitVec 65) (slab : List Byte) : List Byte :=
  let dst := bpcVector s.laneBits map
  if s.defects.isEmpty then permuteBy dst slab else s.pass p (s.computedBit (setter s.laneBits dst)) slab

end Sys2Proof.Machine
end

