-- ==== Sys2Proof/WellFormed.lean ====
section
/-! DEFINITION. Which operands the spec's encoding tables permit, as far as an instruction alone decides it (R104 to
R142, R221, R222). What an image decides besides (its cut, its allocations) is admission's. -/

namespace Sys2Proof

/-- The plain conversion codes (R221): 60 in all. -/
def plainCode (c : BitVec 8) : Bool :=
  let s := c.toNat / 16
  let d := c.toNat % 16
  if s = 1 ∨ s = 2 ∨ s = 3 then decide (1 ≤ d ∧ d ≤ 12 ∧ d ≠ s)
  else if 4 ≤ s ∧ s ≤ 12 then decide (1 ≤ d ∧ d ≤ 3) else false

/-- MX dequantise: an MX element format to BF16 (0xD) or FP32 (0xE) (R221). -/
def mxDequant (c : BitVec 8) : Bool :=
  let s := c.toNat / 16
  let d := c.toNat % 16
  decide (4 ≤ s ∧ s ≤ 9 ∧ (d = 13 ∨ d = 14))

/-- MX quantise: BF16 (0xD) or FP32 (0xE) to an MX element format (R221). -/
def mxQuant (c : BitVec 8) : Bool :=
  let s := c.toNat / 16
  let d := c.toNat % 16
  decide ((s = 13 ∨ s = 14) ∧ 4 ≤ d ∧ d ≤ 9)

/-- The MX codes (R221): 24 in all. -/
def mxCode (c : BitVec 8) : Bool := mxDequant c || mxQuant c

/-- A run of `more + 1` from `first` stays below `size` (R106). -/
def runFits (size first more : Nat) : Bool := decide (first + more < size)

def NopF.wf (f : NopF) : Bool := decide (f.count ≠ 0xFFFFFF) && (f.lb || (f.llvl == 0 && f.count == 0))

def PermF.wf (f : PermF) : Bool :=
  if f.mode then f.dst == 0 && f.rpt == 0 && decide (f.src ≠ 255)
  else runFits 256 f.dst.toNat f.rpt.toNat && runFits 256 f.src.toNat f.rpt.toNat

def PbpcF.wf (f : PbpcF) : Bool := runFits 256 f.dst.toNat f.rpt.toNat && runFits 256 f.src.toNat f.rpt.toNat

def XferF.wf (f : XferF) : Bool :=
  runFits 256 f.reg.toNat f.rpt.toNat && (if f.tr then decide (1 ≤ f.tsz.toNat ∧ f.tsz.toNat ≤ 8) else f.tsz == 0)
    && (f.cvt == 0 || plainCode f.cvt)

def SluiceF.wf (f : SluiceF) : Bool :=
  decide (f.count ≠ 0) && decide (f.off.toNat % 32 = 0) && (f.cvt == 0 || plainCode f.cvt)

def ConvF.wf (f : ConvF) : Bool :=
  (plainCode f.cvt || mxCode f.cvt) && decide (f.rnd.toNat ≤ 1) && (mxCode f.cvt || f.aux == 0)
    && (decide (f.rnd ≠ 0) || f.seedsel == 0) && runFits 256 f.dst.toNat f.rpt.toNat
    && runFits 256 f.src.toNat f.rpt.toNat && (!mxCode f.cvt || runFits 256 f.aux.toNat f.rpt.toNat)
    && (!mxQuant f.cvt || decide (f.aux.toNat + f.rpt.toNat < f.dst.toNat ∨ f.dst.toNat + f.rpt.toNat < f.aux.toNat))

def PackF.wf (f : PackF) : Bool :=
  decide ((f.pos.toNat + 1) * (f.w.toNat + 1) ≤ 8) && runFits 256 f.dst.toNat f.rpt.toNat
    && runFits 256 f.src.toNat f.rpt.toNat

def SeprF.wf (f : SeprF) : Bool := decide (f.cap = 0 ∨ (f.b.toNat + 1) * f.cap.toNat ≤ 65536)

def SkimF.wf (f : SkimF) : Bool := decide (f.fmt.toNat ≤ 4) && (f.topp || f.p == 0)

def CombF.wf (f : CombF) : Bool := decide (f.fmt.toNat ≤ 4) && decide (f.gate ≠ 255) && decide (f.widx ≠ 255)

def DrainF.wf (f : DrainF) : Bool := decide (f.fmt.toNat ≤ 4)

def CrecvF.wf (f : CrecvF) : Bool :=
  decide (f.loff.toNat % 8 = 0) && (if f.sen then !(f.sreg == f.dst && decide (f.loff.toNat < 8)) else f.sreg == 0)

def AlarmF.wf (f : AlarmF) : Bool :=
  decide (f.kind ≠ 3) && (if f.kind = 2 then decide (f.period ≠ 0) else f.period == 0)
    && (f.kind == 1 || decide (f.target.toNat < 2 ^ 48))

def ChkF.wf (f : ChkF) : Bool :=
  decide (f.mode.toNat ≤ 1) && (if f.mode = 1 then f.b == 0 else f.exp == 0)

/-- The static legal ranges of an instruction (R106). -/
def Op.wf : Op → Bool
  | .nop f => f.wf
  | .halt => true
  | .perm f => f.wf
  | .pbpc f => f.wf
  | .ldt f | .stt f => f.wf
  | .gath f | .scat f => f.wf
  | .bcst f => f.wf && !f.idxen && f.cvt == 0
  | .conv f => f.wf
  | .pack f | .unpk f => f.wf
  | .sepr f => f.wf
  | .skim f => f.wf
  | .skp f | .comb f => f.wf
  | .drain f => f.wf
  | .twait _ => true
  | .tsig f => runFits 16384 f.tally.toNat f.cnt.toNat
  | .tadd f => decide (f.value ≠ 0)
  | .csend f => decide (f.loff.toNat % 8 = 0)
  | .crecv f => f.wf
  | .copen _ => true
  | .cclos _ => true
  | .fwait f => decide (f.offset.toNat ≤ 1983)
  | .alarm f => f.wf
  | .chk f => f.wf
  | .lfen scope => decide (scope ≠ 0)

/-- An instruction with its loop field: a LEND never stands on a HALT (R110). -/
def wordWf (e : LoopEnd) (op : Op) : Bool := op.wf && !(e.lend && op == .halt)

/-- The stream, loop field and operation of a command that is a stream instruction. -/
def Instr.stream? : Instr → Option (StreamId × LoopEnd × Op)
  | .nop s e f => some (s, e, .nop f)
  | .halt s e => some (s, e, .halt)
  | .perm s e f => some (s, e, .perm f)
  | .pbpc s e f => some (s, e, .pbpc f)
  | .ldt s e f => some (s, e, .ldt f)
  | .stt s e f => some (s, e, .stt f)
  | .gath s e f => some (s, e, .gath f)
  | .scat s e f => some (s, e, .scat f)
  | .bcst s e f => some (s, e, .bcst f)
  | .conv s e f => some (s, e, .conv f)
  | .pack s e f => some (s, e, .pack f)
  | .unpk s e f => some (s, e, .unpk f)
  | .sepr s e f => some (s, e, .sepr f)
  | .skim s e f => some (s, e, .skim f)
  | .skp s e f => some (s, e, .skp f)
  | .comb s e f => some (s, e, .comb f)
  | .drain s e f => some (s, e, .drain f)
  | .twait s e f => some (s, e, .twait f)
  | .tsig s e f => some (s, e, .tsig f)
  | .tadd s e f => some (s, e, .tadd f)
  | .csend s e f => some (s, e, .csend f)
  | .crecv s e f => some (s, e, .crecv f)
  | .copen s e f => some (s, e, .copen f)
  | .cclos s e ep => some (s, e, .cclos ep)
  | .fwait s e f => some (s, e, .fwait f)
  | .alarm s e f => some (s, e, .alarm f)
  | .chk s e f => some (s, e, .chk f)
  | .lfen s e sc => some (s, e, .lfen sc)
  | _ => none

/-- A command's operands are ones that its source can present: legal fields of a stream instruction (R106), a memory
response's 512 bytes (R36), widths of 1 to 64 bytes at the control port. -/
def Instr.wf (i : Instr) : Bool :=
  match i.stream? with
  | some (_, e, op) => wordWf e op
  | none =>
    match i with
    | .memoryReadResponse _ _ _ data => data.length == 512
    | .inboundVector vs => decide (vs.map (·.flume)).Nodup
    | .settingStoreWrite _ _ data | .sendAliasWrite _ _ data => decide (1 ≤ data.length ∧ data.length ≤ 64)
    | .poolWindowAccess _ write _ size data => decide (1 ≤ size.toNat ∧ size.toNat ≤ 64) && (!write || data.length == size.toNat)
    | .freezeReadout _ _ size => decide (1 ≤ size.toNat ∧ size.toNat ≤ 64)
    | .hostControlRequest _ write _ size data => decide (1 ≤ size.toNat ∧ size.toNat ≤ 64) && (!write || data.length == size.toNat)
    | .timerWrite _ _ _ data | .endpointRecordWrite _ _ _ data | .detectorRecordWrite _ _ _ data | .ledgerWordWrite _ _ data =>
        decide (1 ≤ data.length ∧ data.length ≤ 64)
    | .bootComplete _ repairs trims => repairs.length == 3 && trims.length == 3
    | _ => true

end Sys2Proof
end

