-- ==== Sys2Proof/Decode.lean ====
section
/-! DEFINITION. The 128-bit words of the stream programs (R104, R105): the layout of each opcode's fields, the decoder
that reads them and the encoder that writes them. The opcode table gives no row any bits, so `decodeTableWord` spells
no command (log entry 8). -/

namespace Sys2Proof

/-- Fields taken off the low end of a value, by width. -/
def unpack : List Nat → Nat → List Nat
  | [], _ => []
  | w :: ws, v => v % 2 ^ w :: unpack ws (v / 2 ^ w)

/-- Fields put together from the low end, each at its width. -/
def packFields : List (Nat × Nat) → Nat
  | [] => 0
  | (w, v) :: r => v % 2 ^ w + 2 ^ w * packFields r

/-- A 128-bit word from the common fields of R104 and the operand layout. -/
def encodeWith (opc : Nat) (e : LoopEnd) (ops : List (Nat × Nat)) : BitVec 128 :=
  BitVec.ofNat 128 (packFields ((8, opc) :: (2, e.lvl.toNat) :: (1, e.lend.toNat) :: (5, 0) :: ops))

/-- The operand fields from bit 16 on, in the order of each encoding table, reserved gaps included; the last field is
the reserved rest (R119 to R142). Bits [31:30] of TWAIT and TADD, which no row of R134's tables names, are taken as reserved
(DESIGN CHOICE, log entry 60). -/
def opLayout : Nat → Option (List Nat)
  | 0x00 => some [16, 1, 2, 24, 69]
  | 0x01 => some [112]
  | 0x10 => some [8, 8, 8, 8, 4, 1, 75]
  | 0x11 => some [8, 8, 8, 65, 23]
  | 0x20 => some [8, 8, 10, 26, 2, 1, 1, 24, 4, 8, 20]
  | 0x21 => some [8, 8, 10, 26, 2, 1, 1, 24, 4, 8, 20]
  | 0x30 => some [12, 3, 1, 16, 10, 26, 8, 1, 35]
  | 0x31 => some [12, 3, 1, 16, 10, 26, 8, 1, 35]
  | 0x32 => some [12, 3, 1, 16, 10, 26, 8, 1, 35]
  | 0x40 => some [8, 8, 8, 8, 2, 1, 8, 8, 61]
  | 0x41 => some [8, 8, 8, 3, 3, 82]
  | 0x42 => some [8, 8, 8, 3, 3, 82]
  | 0x50 => some [10, 21, 10, 21, 16, 16, 16, 2]
  | 0x51 => some [8, 10, 21, 20, 6, 1, 16, 4, 2, 1, 16, 7]
  | 0x52 => some [8, 8, 8, 4, 13, 71]
  | 0x53 => some [8, 8, 8, 4, 13, 71]
  | 0x54 => some [8, 16, 13, 4, 1, 70]
  | 0x60 => some [14, 2, 32, 32, 1, 31]
  | 0x61 => some [14, 4, 94]
  | 0x62 => some [14, 2, 32, 64]
  | 0x70 => some [12, 8, 13, 3, 76]
  | 0x71 => some [12, 8, 13, 8, 1, 6, 32, 1, 31]
  | 0x72 => some [12, 12, 88]
  | 0x73 => some [12, 100]
  | 0x80 => some [11, 1, 100]
  | 0x81 => some [10, 2, 1, 1, 14, 14, 64, 6]
  | 0x90 => some [8, 8, 2, 32, 62]
  | 0x91 => some [3, 109]
  | _ => none

/-- The operation that an opcode's fields spell; none where a reserved field is not 0 (R104, R106). -/
def opOfFields (opc : Nat) (v : List Nat) : Option Op :=
  let b8 := BitVec.ofNat 8
  match opc, v with
  | 0x00, [cyc, lb, llvl, count, 0] =>
      some (.nop ⟨BitVec.ofNat 16 cyc, lb == 1, BitVec.ofNat 2 llvl, BitVec.ofNat 24 count⟩)
  | 0x01, [0] => some .halt
  | 0x10, [dst, src, rpt, slot, sub, mode, 0] =>
      some (.perm ⟨b8 dst, b8 src, b8 rpt, b8 slot, BitVec.ofNat 4 sub, mode == 1⟩)
  | 0x11, [dst, src, rpt, map, 0] => some (.pbpc ⟨b8 dst, b8 src, b8 rpt, BitVec.ofNat 65 map⟩)
  | 0x20, [reg, rpt, region, off, ilvl, idxen, tr, stride, tsz, cvt, 0] =>
      some (.ldt ⟨b8 reg, b8 rpt, BitVec.ofNat 10 region, BitVec.ofNat 26 off, BitVec.ofNat 2 ilvl, idxen == 1, tr == 1,
        BitVec.ofNat 24 stride, BitVec.ofNat 4 tsz, b8 cvt⟩)
  | 0x21, [reg, rpt, region, off, ilvl, idxen, tr, stride, tsz, cvt, 0] =>
      some (.stt ⟨b8 reg, b8 rpt, BitVec.ofNat 10 region, BitVec.ofNat 26 off, BitVec.ofNat 2 ilvl, idxen == 1, tr == 1,
        BitVec.ofNat 24 stride, BitVec.ofNat 4 tsz, b8 cvt⟩)
  | 0x30, [desc, cur, idxen, count, region, off, cvt, cadv, 0] =>
      some (.gath ⟨BitVec.ofNat 12 desc, BitVec.ofNat 3 cur, idxen == 1, BitVec.ofNat 16 count, BitVec.ofNat 10 region,
        BitVec.ofNat 26 off, b8 cvt, cadv == 1⟩)
  | 0x31, [desc, cur, idxen, count, region, off, cvt, cadv, 0] =>
      some (.scat ⟨BitVec.ofNat 12 desc, BitVec.ofNat 3 cur, idxen == 1, BitVec.ofNat 16 count, BitVec.ofNat 10 region,
        BitVec.ofNat 26 off, b8 cvt, cadv == 1⟩)
  | 0x32, [desc, cur, idxen, count, region, off, cvt, cadv, 0] =>
      some (.bcst ⟨BitVec.ofNat 12 desc, BitVec.ofNat 3 cur, idxen == 1, BitVec.ofNat 16 count, BitVec.ofNat 10 region,
        BitVec.ofNat 26 off, b8 cvt, cadv == 1⟩)
  | 0x40, [dst, src, rpt, cvt, rnd, sat, aux, seed, 0] =>
      some (.conv ⟨b8 dst, b8 src, b8 rpt, b8 cvt, BitVec.ofNat 2 rnd, sat == 1, b8 aux, b8 seed⟩)
  | 0x41, [dst, src, rpt, w, pos, 0] => some (.pack ⟨b8 dst, b8 src, b8 rpt, BitVec.ofNat 3 w, BitVec.ofNat 3 pos⟩)
  | 0x42, [dst, src, rpt, w, pos, 0] => some (.unpk ⟨b8 dst, b8 src, b8 rpt, BitVec.ofNat 3 w, BitVec.ofNat 3 pos⟩)
  | 0x50, [kreg, koff, oreg, ooff, n, b, cap, 0] =>
      some (.sepr ⟨BitVec.ofNat 10 kreg, BitVec.ofNat 21 koff, BitVec.ofNat 10 oreg, BitVec.ofNat 21 ooff,
        BitVec.ofNat 16 n, BitVec.ofNat 16 b, BitVec.ofNat 16 cap⟩)
  | 0x51, [dst, region, off, m, k, topp, p, fmt, ilvl, idxen, stride, 0] =>
      some (.skim ⟨b8 dst, BitVec.ofNat 10 region, BitVec.ofNat 21 off, BitVec.ofNat 20 m, BitVec.ofNat 6 k, topp == 1,
        BitVec.ofNat 16 p, BitVec.ofNat 4 fmt, BitVec.ofNat 2 ilvl, idxen == 1, BitVec.ofNat 16 stride⟩)
  | 0x52, [src, gate, widx, fmt, n, 0] => some (.skp ⟨b8 src, b8 gate, b8 widx, BitVec.ofNat 4 fmt, BitVec.ofNat 13 n⟩)
  | 0x53, [src, gate, widx, fmt, n, 0] => some (.comb ⟨b8 src, b8 gate, b8 widx, BitVec.ofNat 4 fmt, BitVec.ofNat 13 n⟩)
  | 0x54, [dst, woff, n, fmt, clr, 0] =>
      some (.drain ⟨b8 dst, BitVec.ofNat 16 woff, BitVec.ofNat 13 n, BitVec.ofNat 4 fmt, clr == 1⟩)
  | 0x60, [tally, 0, target, dl, toact, 0] =>
      some (.twait ⟨BitVec.ofNat 14 tally, BitVec.ofNat 32 target, BitVec.ofNat 32 dl, toact == 1⟩)
  | 0x61, [tally, cnt, 0] => some (.tsig ⟨BitVec.ofNat 14 tally, BitVec.ofNat 4 cnt⟩)
  | 0x62, [tally, 0, value, 0] => some (.tadd ⟨BitVec.ofNat 14 tally, BitVec.ofNat 32 value⟩)
  | 0x70, [ep, src, loff, nw, 0] => some (.csend ⟨BitVec.ofNat 12 ep, b8 src, BitVec.ofNat 13 loff, BitVec.ofNat 3 nw⟩)
  | 0x71, [ep, dst, loff, sreg, sen, 0, dl, toact, 0] =>
      some (.crecv ⟨BitVec.ofNat 12 ep, b8 dst, BitVec.ofNat 13 loff, b8 sreg, sen == 1, BitVec.ofNat 32 dl, toact == 1⟩)
  | 0x72, [ep, peer, 0] => some (.copen ⟨BitVec.ofNat 12 ep, BitVec.ofNat 12 peer⟩)
  | 0x73, [ep, 0] => some (.cclos (BitVec.ofNat 12 ep))
  | 0x80, [offset, nxt, 0] => some (.fwait ⟨BitVec.ofNat 11 offset, nxt == 1⟩)
  | 0x81, [timer, kind, carry, rel, tally, period, target, 0] =>
      some (.alarm ⟨BitVec.ofNat 10 timer, BitVec.ofNat 2 kind, carry == 1, rel == 1, BitVec.ofNat 14 tally,
        BitVec.ofNat 14 period, BitVec.ofNat 64 target⟩)
  | 0x90, [a, b, mode, exp, 0] => some (.chk ⟨b8 a, b8 b, BitVec.ofNat 2 mode, BitVec.ofNat 32 exp⟩)
  | 0x91, [scope, 0] => some (.lfen (BitVec.ofNat 3 scope))
  | _, _ => none

/-- Decode a program word: none for a reserved opcode, a reserved bit at 1, a reserved code or a field out of range
(R105, R106). -/
def decodeWord (w : BitVec 128) : Option (LoopEnd × Op) :=
  match unpack [8, 2, 1, 5, 112] w.toNat with
  | [opc, lvl, lend, 0, rest] =>
    match opLayout opc with
    | none => none
    | some l =>
      match opOfFields opc (unpack l rest) with
      | none => none
      | some op =>
        let e : LoopEnd := ⟨BitVec.ofNat 2 lvl, lend == 1⟩
        if wordWf e op then some (e, op) else none
  | _ => none

/-- The word of an instruction, written from the same tables. -/
def encodeWord (e : LoopEnd) : Op → BitVec 128
  | .nop f => encodeWith 0x00 e [(16, f.cyc.toNat), (1, f.lb.toNat), (2, f.llvl.toNat), (24, f.count.toNat), (69, 0)]
  | .halt => encodeWith 0x01 e [(112, 0)]
  | .perm f => encodeWith 0x10 e [(8, f.dst.toNat), (8, f.src.toNat), (8, f.rpt.toNat), (8, f.slot.toNat),
      (4, f.sub.toNat), (1, f.mode.toNat), (75, 0)]
  | .pbpc f => encodeWith 0x11 e [(8, f.dst.toNat), (8, f.src.toNat), (8, f.rpt.toNat), (65, f.map.toNat), (23, 0)]
  | .ldt f => encodeWith 0x20 e (xfer f)
  | .stt f => encodeWith 0x21 e (xfer f)
  | .gath f => encodeWith 0x30 e (sluice f)
  | .scat f => encodeWith 0x31 e (sluice f)
  | .bcst f => encodeWith 0x32 e (sluice f)
  | .conv f => encodeWith 0x40 e [(8, f.dst.toNat), (8, f.src.toNat), (8, f.rpt.toNat), (8, f.cvt.toNat),
      (2, f.rnd.toNat), (1, f.sat.toNat), (8, f.aux.toNat), (8, f.seedsel.toNat), (61, 0)]
  | .pack f => encodeWith 0x41 e (planes f)
  | .unpk f => encodeWith 0x42 e (planes f)
  | .sepr f => encodeWith 0x50 e [(10, f.kreg.toNat), (21, f.koff.toNat), (10, f.oreg.toNat), (21, f.ooff.toNat),
      (16, f.n.toNat), (16, f.b.toNat), (16, f.cap.toNat), (2, 0)]
  | .skim f => encodeWith 0x51 e [(8, f.dst.toNat), (10, f.region.toNat), (21, f.off.toNat), (20, f.m.toNat),
      (6, f.k.toNat), (1, f.topp.toNat), (16, f.p.toNat), (4, f.fmt.toNat), (2, f.ilvl.toNat), (1, f.idxen.toNat),
      (16, f.stride.toNat), (7, 0)]
  | .skp f => encodeWith 0x52 e (combine f)
  | .comb f => encodeWith 0x53 e (combine f)
  | .drain f => encodeWith 0x54 e [(8, f.dst.toNat), (16, f.woff.toNat), (13, f.n.toNat), (4, f.fmt.toNat),
      (1, f.clr.toNat), (70, 0)]
  | .twait f => encodeWith 0x60 e [(14, f.tally.toNat), (2, 0), (32, f.target.toNat), (32, f.dl.toNat),
      (1, f.toact.toNat), (31, 0)]
  | .tsig f => encodeWith 0x61 e [(14, f.tally.toNat), (4, f.cnt.toNat), (94, 0)]
  | .tadd f => encodeWith 0x62 e [(14, f.tally.toNat), (2, 0), (32, f.value.toNat), (64, 0)]
  | .csend f => encodeWith 0x70 e [(12, f.ep.toNat), (8, f.src.toNat), (13, f.loff.toNat), (3, f.nw.toNat), (76, 0)]
  | .crecv f => encodeWith 0x71 e [(12, f.ep.toNat), (8, f.dst.toNat), (13, f.loff.toNat), (8, f.sreg.toNat),
      (1, f.sen.toNat), (6, 0), (32, f.dl.toNat), (1, f.toact.toNat), (31, 0)]
  | .copen f => encodeWith 0x72 e [(12, f.ep.toNat), (12, f.peer.toNat), (88, 0)]
  | .cclos ep => encodeWith 0x73 e [(12, ep.toNat), (100, 0)]
  | .fwait f => encodeWith 0x80 e [(11, f.offset.toNat), (1, f.nxt.toNat), (100, 0)]
  | .alarm f => encodeWith 0x81 e [(10, f.timer.toNat), (2, f.kind.toNat), (1, f.carry.toNat), (1, f.rel.toNat),
      (14, f.tally.toNat), (14, f.period.toNat), (64, f.target.toNat), (6, 0)]
  | .chk f => encodeWith 0x90 e [(8, f.a.toNat), (8, f.b.toNat), (2, f.mode.toNat), (32, f.exp.toNat), (62, 0)]
  | .lfen scope => encodeWith 0x91 e [(3, scope.toNat), (109, 0)]
where
  xfer (f : XferF) : List (Nat × Nat) :=
    [(8, f.reg.toNat), (8, f.rpt.toNat), (10, f.region.toNat), (26, f.off.toNat), (2, f.ilvl.toNat), (1, f.idxen.toNat),
     (1, f.tr.toNat), (24, f.stride.toNat), (4, f.tsz.toNat), (8, f.cvt.toNat), (20, 0)]
  sluice (f : SluiceF) : List (Nat × Nat) :=
    [(12, f.desc.toNat), (3, f.cur.toNat), (1, f.idxen.toNat), (16, f.count.toNat), (10, f.region.toNat),
     (26, f.off.toNat), (8, f.cvt.toNat), (1, f.cadv.toNat), (35, 0)]
  planes (f : PackF) : List (Nat × Nat) :=
    [(8, f.dst.toNat), (8, f.src.toNat), (8, f.rpt.toNat), (3, f.w.toNat), (3, f.pos.toNat), (82, 0)]
  combine (f : CombF) : List (Nat × Nat) :=
    [(8, f.src.toNat), (8, f.gate.toNat), (8, f.widx.toNat), (4, f.fmt.toNat), (13, f.n.toNat), (71, 0)]

/-- The command that a word spells by the opcode table's bits: the table gives no row any bits, so no word spells one
(log entry 8). -/
def decodeTableWord (_nbits _w : Nat) : Option Instr := none

end Sys2Proof
end

