-- ==== Sys2Proof/Machine/LedgerOps.lean ====
section
/-! DEFINITION. Operations of the Ledger (R282 to R288): writes with their edge detectors, tallies, channels, frame
timers (R72 to R78), and the waits that observe them (R80, R135). -/

namespace Sys2Proof.Machine

/-- Offsets of the Ledger's objects (R282). -/
def tallyAt (n : Nat) : Nat := 4 * n
def timerAt (n : Nat) : Nat := 0x10000 + 16 * n
def detectorAt (n : Nat) : Nat := 0x14000 + 16 * n
def endpointAt (e : Nat) : Nat := 0x20000 + 32 * e
def slotAt (e q : Nat) : Nat := 0x100000 + 256 * e + 64 * q

/-- The bits of a detector record's words that are not reserved (R17, R288). -/
def detectorMask (o : Nat) : Nat :=
  if o = 0 then 2 ^ 27 else if o = 4 then 2 ^ 14 else if o = 8 then 2 ^ 32 else 1

/-- Fields of the Ledger read as values. -/
def State.ledgerLe (s : State) (x n : Nat) : Nat := readLe s.ledger.bytes x n
def State.tally (s : State) (n : Nat) : Nat := s.ledgerLe (tallyAt n) 4

/-- Bytes written into the Ledger, without comparison. -/
def State.ledgerSet (s : State) (x : Nat) (bs : List Byte) : State :=
  State.coverWords { s with ledger := { s.ledger with bytes := writeBytes s.ledger.bytes x bs } } .ledger (lanesFrom x bs)

/-- A read of Ledger words corrects flipped bits (R346). -/
def State.readLedger (s : State) (xs : List Nat) : State := s.readCorrect .ledger ((xs.map (· / 8)).eraseDups)

/-- One edge detector after a write that left `word` in the word it watches (R288). Its additions are compared by no
detector. -/
def State.detector (s : State) (n word : Nat) : State :=
  let a := detectorAt n
  let s0 := s.readLedger [a]
  let r := s.ledgerLe a 4
  let bit := bitOf word (field r 18 6)
  if bit = bitOf r 26 then s0 else
  let s1 := s0.ledgerSet a (leBytes 4 (if bit then r + 2 ^ 26 else r - 2 ^ 26))
  if bitOf r (if bit then 24 else 25) then
    let t := field (s.ledgerLe (a + 4) 4) 0 14
    let s2 := (s1.readLedger [a + 8]).ledgerSet (a + 8) (leBytes 4 (s1.ledgerLe (a + 8) 4 + 1))
    if s2.uncorrectable .ledger (tallyAt t / 8) then s2.count .eccUnc 1
    else (s2.readLedger [tallyAt t]).ledgerSet (tallyAt t) (leBytes 4 (s2.tally t + 1))
  else s1

/-- The detectors that watch a word, after a write to it. -/
def State.detectWord (s : State) (w : Nat) : State :=
  let word := s.ledgerLe (8 * w) 8
  ((List.range 256).filter (fun n => s.ledgerLe (detectorAt n) 4 % 2 ^ 18 == w)).foldl (fun s n => (s.readLedger [8 * w]).detector n word) s

/-- A write of the Ledger: its bytes, and every touched word compared (R284, R288). -/
def State.ledgerPut (s : State) (x : Nat) (bs : List Byte) : State :=
  let words := (List.range ((x + bs.length - 1) / 8 + 1 - x / 8)).map (· + x / 8)
  if bs.isEmpty then s else words.foldl State.detectWord (s.ledgerSet x bs)

/-- An addition to a tally (R134, R136); one to an uncorrectable word is not performed (R345). -/
def State.tallyInc (s : State) (n : Nat) (v : Nat) : State :=
  if s.uncorrectable .ledger (tallyAt n / 8) then s.count .eccUnc 1
  else (s.readLedger [tallyAt n]).ledgerPut (tallyAt n) (leBytes 4 (s.tally n + v))

/-- Additions that one write makes together (R136): the words are compared once all stand. -/
def State.tallyRun (s : State) (n k : Nat) : State :=
  let ns := (List.range k).map (· + n)
  let s1 := ns.foldl (fun s n => if s.uncorrectable .ledger (tallyAt n / 8) then s.count .eccUnc 1
                                 else (s.readLedger [tallyAt n]).ledgerSet (tallyAt n) (leBytes 4 (s.tally n + 1))) s
  ((List.range ((n + k - 1) / 2 + 1 - n / 2)).map (· + n / 2)).foldl State.detectWord s1

/-! ## Channels -/

/-- OPEN and PEER of an endpoint (R285). -/
def State.endpointOpen (s : State) (e : Nat) : Bool := bitOf (s.ledgerLe (endpointAt e) 2) 0
def State.peerOf (s : State) (e : Nat) : Nat := field (s.ledgerLe (endpointAt e) 2) 1 12

/-- What becomes of a send (R286). -/
inductive Sent where
  | delivered | full | closed
  deriving DecidableEq, Repr

/-- A send from an endpoint at its place in the sequence (R286). -/
def State.send (s : State) (e : Nat) (msg : List Byte) : State × Sent :=
  if !s.endpointOpen e then (s, .closed) else
  let p := s.peerOf e
  let c := s.ledgerLe (endpointAt p + 4) 4
  let count := c % 8
  if count < 4 then
    let q := (field c 3 2 + count) % 4
    let len := s.ledgerLe (endpointAt p + 8) 4
    let len' := len - field len (3 * q) 3 * 2 ^ (3 * q) + (msg.length / 8 - 1) * 2 ^ (3 * q)
    let s1 := s.ledgerPut (slotAt p q) msg
    let s2 := s1.ledgerPut (endpointAt p + 4) (leBytes 4 (c + 1) ++ leBytes 4 len')
    (s2.ledgerPut (endpointAt e + 16) (leBytes 4 (s2.ledgerLe (endpointAt e + 16) 4 + 1)), .delivered)
  else (s.ledgerPut (endpointAt e + 24) (leBytes 4 (s.ledgerLe (endpointAt e + 24) 4 + 1)), .full)

/-- The words that a send reads: its endpoint's, and where that is open its peer's and the counter that it raises (R285, R286). -/
def State.sendWords (s : State) (e : Nat) : List Nat :=
  let p := s.peerOf e
  endpointAt e :: if s.endpointOpen e then
    [endpointAt p, endpointAt p + 8, endpointAt e + if s.ledgerLe (endpointAt p + 4) 4 % 8 < 4 then 16 else 24] else []

/-- The oldest message of an endpoint (R287): its words. -/
def State.headMessage (s : State) (e : Nat) : List Byte :=
  let c := s.ledgerLe (endpointAt e + 4) 4
  let q := field c 3 2
  let n := field (s.ledgerLe (endpointAt e + 8) 4) (3 * q) 3 + 1
  readBytes s.ledger.bytes (slotAt e q) (8 * n)

/-- The words that a receive reads: the record's, its counter's among them, and those of the message in its slot (R285, R287). -/
def State.messageWords (s : State) (e : Nat) : List Nat :=
  let q := field (s.ledgerLe (endpointAt e + 4) 4) 3 2
  [endpointAt e, endpointAt e + 8, endpointAt e + 16] ++
    (List.range (field (s.ledgerLe (endpointAt e + 8) 4) (3 * q) 3 + 1)).map (fun i => slotAt e q + 8 * i)

/-- The oldest message is taken: HEAD, COUNT and RECV (R287). -/
def State.receive (s : State) (e : Nat) : State :=
  let c := s.ledgerLe (endpointAt e + 4) 4
  let s1 := s.ledgerPut (endpointAt e + 4) (leBytes 4 ((field c 3 2 + 1) % 4 * 8 + (c % 8 - 1)))
  s1.ledgerPut (endpointAt e + 20) (leBytes 4 (s1.ledgerLe (endpointAt e + 20) 4 + 1))

/-- OPEN and PEER written, the other bits kept (R138, R283). -/
def State.setOpen (s : State) (e : Nat) (open_ : Bool) (peer : Nat) : State :=
  s.ledgerPut (endpointAt e) (leBytes 2 ((if open_ then 1 else 0) + 2 * (peer % 4096)))

/-- CCLOS: OPEN becomes 0; a closed endpoint keeps its record (R138). -/
def State.close (s : State) (e : Nat) : State :=
  if s.endpointOpen e then s.setOpen e false (s.peerOf e) else s

/-! ## Frame timers -/

/-- M is past or current in frame N (R50). -/
def framePast (m n : Frame) : Bool := decide ((n - m).toNat < 2 ^ 47)

/-- Fields of a timer (R72). -/
def State.timerTarget (s : State) (n : Nat) : Nat := s.ledgerLe (timerAt n) 8
def State.timerMid (s : State) (n : Nat) : Nat := s.ledgerLe (timerAt n + 8) 4
def State.timerCfg (s : State) (n : Nat) : Nat := s.ledgerLe (timerAt n + 12) 4
def State.timerArmed (s : State) (n : Nat) : Bool := s.ledger.armed.contains n

/-- Lateness in frames of a timebase target (R75). -/
def State.tbLateness (s : State) (t target : Nat) : Nat := (t - target) * coreMHz s.clock.point / 2048000

/-- STATE, LATENESS and FIRECNT written (R72). -/
def State.timerStatus (s : State) (n state late fires : Nat) : State :=
  s.ledgerPut (timerAt n + 8) (leBytes 4 (state + 256 * min 65535 late + 2 ^ 24 * (fires % 256)))

/-- Membership of the Armed timers (R77) and of those armed late (R76). -/
def State.setArmed (s : State) (n : Nat) (armed late : Bool) : State :=
  { s with ledger := { s.ledger with
      armed := if armed then insertNat s.ledger.armed n else eraseNat s.ledger.armed n
      lateArmed := if late then insertNat s.ledger.lateArmed n else eraseNat s.ledger.lateArmed n } }

/-- The words of a timer that a STATE request reads (R74, R78). -/
def State.timerReads (s : State) (n req : Nat) : List Nat :=
  if req = 1 then [timerAt n, timerAt n + 8]
  else if (req = 5 ∧ s.timerArmed n) ∨ (req = 0 ∧ !s.timerArmed n) then [timerAt n + 8] else []

/-- Arming is evaluated with the fields as they stand (R73, R75): LATENESS and FIRECNT cleared, STATE Armed, STALE or
Refused. -/
def State.armTimer (s : State) (n : Nat) : State :=
  let cfg := s.timerCfg n
  let kind := cfg % 4
  let target := s.timerTarget n
  if kind = 3 ∨ (kind = 2 ∧ field cfg 18 14 = 0) then
    let m := s.timerMid n
    (s.ledgerPut (timerAt n + 8) (leBytes 4 (m - m % 16 + 6))).setArmed n false false
  else
    let now := s.clock.centre.toNat
    let d := (s.clock.frame - BitVec.ofNat 48 target).toNat
    let past := if kind = 1 then decide (target ≤ now) else decide (d < 2 ^ 47)
    let late := if kind = 1 then s.tbLateness now target else d
    if !past then (s.timerStatus n 1 0 0).setArmed n true false
    else if late ≤ 65536 then (s.timerStatus n 1 0 0).setArmed n true true
    else (s.timerStatus n 4 0 0).setArmed n false false

/-- The timer is due at this tick (R73, R75). -/
def State.timerDue (s : State) (n : Nat) : Bool :=
  let target := s.timerTarget n
  s.timerArmed n && (s.ledger.lateArmed.contains n ||
    (if s.timerCfg n % 4 = 1 then decide (target ≤ s.clock.stamp.toNat) else framePast (BitVec.ofNat 48 target) s.clock.frame))

/-- One firing (R76, R77). TARGET[63:48], which are ignored, are 0 after a re-arm (DESIGN CHOICE, log entry 51). -/
def State.fireTimer (s0 : State) (n : Nat) : State :=
  let s := s0.readLedger [timerAt n, timerAt n + 8]
  let cfg := s.timerCfg n
  let kind := cfg % 4
  let target := s.timerTarget n
  let onTime := !s.ledger.lateArmed.contains n && (decide (kind = 1) || decide (target % 2 ^ 48 = s.clock.frame.toNat))
  let late := if onTime then 0 else if kind = 1 then s.tbLateness s.clock.stamp.toNat target
              else (s.clock.frame - BitVec.ofNat 48 target).toNat
  let s1 := s.timerStatus n (if onTime then 2 else 3) late (field (s.timerMid n) 24 8 + 1)
  let period := field cfg 18 14
  let s2 := if kind = 2 then
      let next : Frame := BitVec.ofNat 48 (target + period)
      let next := if framePast next s.clock.frame then s.clock.frame + BitVec.ofNat 48 period else next
      (s1.ledgerPut (timerAt n) (leBytes 8 next.toNat)).setArmed n true false
    else s1.setArmed n false false
  s2.tallyInc (field cfg 4 14) 1

/-- A cancel of an Armed timer (R78): STATE becomes CANCELLED. -/
def State.cancelTimer (s : State) (n : Nat) : State :=
  if s.timerArmed n then
    let m := s.timerMid n
    (s.ledgerPut (timerAt n + 8) (leBytes 4 (m - m % 16 + 5))).setArmed n false false
  else s

/-- ALARM's arming write (R140): all fields, then the evaluation. -/
def State.alarmWrite (s : State) (n : Nat) (kind : BitVec 2) (carry : Bool) (tally period : BitVec 14)
    (target : BitVec 64) : State :=
  let cfg := kind.toNat + (if carry then 4 else 0) + 16 * tally.toNat + 2 ^ 18 * period.toNat
  (((s.ledgerPut (timerAt n) (leBytes 8 target.toNat)).ledgerPut (timerAt n + 12) (leBytes 4 cfg)).readLedger [timerAt n, timerAt n + 8]).armTimer n

/-! ## Waits -/

/-- The instruction word at a stream's PC (R87, R315). -/
def State.wordAt (s : State) (p : StreamId) : BitVec 128 :=
  sparseGet s.image.bank.fill s.image.bank.programs (p.toNat * 8192 + (s.stream p).ctx.pc.toNat)

/-- A tally satisfies a target (R134). -/
def tallyMeets (v : Nat) (target : BitVec 32) : Bool := decide ((BitVec.ofNat 32 v - target).toNat < 2 ^ 31)

/-- The condition that a TWAIT or a CRECV waits on holds (R134, R138). -/
def State.waitHolds (s : State) : Op → Bool
  | .twait f => tallyMeets (s.tally f.tally.toNat) f.target
  | .crecv f => decide (0 < s.queued f.ep.toNat)
  | _ => false

/-- A Ledger write of the stream is not yet performed (R142, R284). -/
def State.ledgerPending (s : State) (p : StreamId) : Bool :=
  s.inflight.any (fun a => a.stream == p && match a.act with | .ledger _ _ _ => true | _ => false)

/-- The wait of one stream evaluated at a place of the sequence (R80, R284): a first evaluation that finds the condition
succeeds; later the stamp of the arrival decides. -/
def State.evalWait (s : State) (p : StreamId) : State :=
  match (s.stream p).waitDl with
  | none => s
  | some dl =>
    if s.ledgerPending p then s else
    match decodeWord (s.wordAt p) with
    | none => s
    | some (_, op) =>
      let c := s.waitHolds op
      s.modStream p (fun x => { x with waitOk := some (match x.waitOk with
        | none => c
        | some b => c && (b || decide (s.clock.centre ≤ dl))) })

/-- A wait that is evaluated for the first time, at its stream's place in the sequence (R284). -/
def State.firstWait (s : State) (p : StreamId) : State := if (s.stream p).waitOk.isNone then s.evalWait p else s

/-- Every wait that has been evaluated is evaluated again after a change of the Ledger. -/
def State.evalWaits (s : State) : State := allStreams.foldl (fun s p => if (s.stream p).waitOk.isNone then s else s.evalWait p) s

/-- The first of some Ledger words that reads uncorrectable (R345). -/
def State.ledgerBad (s : State) (xs : List Nat) : Option Nat :=
  if s.eccBad.isEmpty then none else xs.find? (fun x => s.uncorrectable .ledger (x / 8))

/-- A write of port A is performed (R113, R284); a refused CSEND raises its fault here (R138), and a CSEND or CCLOS that
reads an uncorrectable word its own (R345). -/
def State.ledgerDo (s : State) (p : StreamId) (op : LedgerOp) (eff : BitVec 32) (pc : BitVec 13) : State :=
  match op with
  | .tsig t c => ((s.tallyRun t.toNat (c.toNat + 1)).perform p eff [] []).evalWaits
  | .tadd t v => ((s.tallyInc t.toNat v.toNat).perform p eff [] []).evalWaits
  | .copen e peer => ((s.setOpen e.toNat true peer.toNat).perform p eff [] []).evalWaits
  | .cclos e =>
    match s.ledgerBad [endpointAt e.toNat] with
    | some x => s.raise p faultECC (8 * (x / 8)) 0 pc
    | none => (((s.readLedger [endpointAt e.toNat]).close e.toNat).perform p eff [] []).evalWaits
  | .alarm n k c t per tgt => ((s.alarmWrite n.toNat k c t per tgt).perform p eff [] []).evalWaits
  | .csend e msg =>
    let peer := s.peerOf e.toNat
    match s.ledgerBad (s.sendWords e.toNat) with
    | some x => s.raise p faultECC (8 * (x / 8)) 0 pc
    | none =>
      match (s.readLedger (s.sendWords e.toNat)).send e.toNat msg with
      | (s1, .delivered) => (s1.perform p eff [] []).evalWaits
      | (s1, .full) => s1.raise p faultCAPACITY peer 0 pc
      | (s1, .closed) => s1.raise p faultPROT e.toNat 7 pc

end Sys2Proof.Machine
end

