-- ==== Sys2Proof/Machine/Units.lean ====
section
/-! DEFINITION. What the Separator (R236, R237), the Skimmer (R240 to R243) and the Basin (R245 to R256) compute. -/

namespace Sys2Proof.Machine

/-! ## The Separator -/

/-- N, B and P of a SEPR (R130, R236). -/
def seprN (f : SeprF) : Nat := f.n.toNat + 1
def seprB (f : SeprF) : Nat := f.b.toNat + 1
def seprP (f : SeprF) : Nat := if f.cap = 0 then seprN f else seprB f * f.cap.toNat

/-- POSO, IDXO and the length of the output area (R237). -/
def seprPos (f : SeprF) : Nat := 32 + 32 * ceilDiv (seprB f) 2
def seprIdx (f : SeprF) : Nat := seprPos f + 32 * ceilDiv (seprN f) 8
def seprArea (f : SeprF) : Nat := seprIdx f + 4 * seprP f

/-- D, the occupancy of a SEPR (R113). -/
def seprOcc (f : SeprF) : Nat := 2 * ceilDiv (seprN f) 256 + ceilDiv (seprB f) 16

/-- The counting pass: offered[b] (R236). -/
def seprOffered (b : Nat) (keys : List Nat) : List Nat :=
  keys.foldl (fun o k => if k < b then o.set k (o.getD k 0 + 1) else o) (List.replicate b 0)

/-- The prefix pass: kept[b] and start[b] (R236). -/
def seprPrefix (cap : Nat) (offered : List Nat) : List (Nat × Nat) :=
  (offered.foldl (fun (st : List (Nat × Nat) × Nat × Nat) o =>
    let kept := if cap = 0 then o else min o cap
    let start := if cap = 0 then st.2.1 else st.2.2 * cap
    (st.1 ++ [(kept, start)], st.2.1 + kept, st.2.2 + 1)) ([], 0, 0)).1

/-- What the placing pass carries (R236). -/
structure Placing where
  pos     : List (Option Nat)
  idx     : List (Option Nat)
  seen    : List Nat
  dropkey : Nat
  dropcap : Nat
  deriving DecidableEq, Repr

/-- The placing pass in ascending order of the keys (R236). -/
def seprPlace (b cap p : Nat) (table : List (Nat × Nat)) (keys : List Nat) : Placing :=
  (keys.foldl (fun (st : Placing × Nat) k =>
    let w := st.1
    let i := st.2
    let seen := w.seen.getD k 0
    let next := if b ≤ k then { w with pos := w.pos ++ [none], dropkey := w.dropkey + 1 }
      else if cap ≠ 0 ∧ cap ≤ seen then { w with pos := w.pos ++ [none], dropcap := w.dropcap + 1, seen := w.seen.set k (seen + 1) }
      else let at_ := (table.getD k (0, 0)).2 + seen
           { w with pos := w.pos ++ [some at_], idx := w.idx.set at_ (some i), seen := w.seen.set k (seen + 1) }
    (next, i + 1)) (⟨[], List.replicate p none, List.replicate b 0, 0, 0⟩, 0)).1

/-- An i32 that holds a position or −1. -/
def i32Bytes : Option Nat → List Byte
  | some v => leBytes 4 v
  | none => leBytes 4 0xFFFFFFFF

/-- A list of bytes filled with zeros to a length. -/
def padTo (n : Nat) (bs : List Byte) : List Byte := bs ++ List.replicate (n - bs.length) 0

/-- The output area of a SEPR (R237): the counting pass's keys and the placing pass's keys. -/
def seprOutput (f : SeprF) (count place : List Nat) : List Byte :=
  let b := seprB f
  let cap := f.cap.toNat
  let offered := seprOffered b count
  let table := seprPrefix cap offered
  let w := seprPlace b cap (seprP f) table place
  let total := (table.map (·.1)).foldl (· + ·) 0
  let header := leBytes 4 total ++ leBytes 4 w.dropcap ++ leBytes 4 w.dropkey ++ leBytes 4 (offered.foldl max 0)
    ++ leBytes 4 (seprP f)
  let records := (table.zip offered).flatMap (fun r => leBytes 4 r.1.1 ++ leBytes 4 r.2 ++ leBytes 4 r.1.2 ++ leBytes 4 0)
  padTo 32 header ++ padTo (seprPos f - 32) records ++ padTo (seprIdx f - seprPos f) (w.pos.flatMap i32Bytes)
    ++ w.idx.flatMap i32Bytes

/-! ## The Skimmer -/

/-- The format id of a FMT field (R131, R132). -/
def fmtId (fmt : BitVec 4) : Nat :=
  match fmt.toNat with
  | 0 => 2 | 1 => 3 | 2 => 1 | 3 => 4 | _ => 5

/-- e, the bytes of a value. -/
def fmtE (fmt : BitVec 4) : Nat := fmtBytes (fmtId fmt)

def skimM (f : SkimF) : Nat := f.m.toNat + 1
def skimOcc (f : SkimF) : Nat := ceilDiv (skimM f) 512

/-- The rank key of an encoding (R240). -/
def rankKey (w u : Nat) : Nat := if bitOf u (w - 1) then 2 ^ w - 1 - u else u + 2 ^ (w - 1)

/-- The mass of a value in units of 2^−149 (R240). -/
def mass (id u : Nat) : Nat :=
  match decodeNum id u with
  | .inf false => 2 ^ 277
  | .fin false m q => m * 2 ^ (q + 149).toNat
  | _ => 0

def isNan (id u : Nat) : Bool := match decodeNum id u with | .nan _ => true | _ => false

/-- A value (encoding, position) put at its place by rank: equal encodings keep their row order (R241). -/
def rankInsert (w : Nat) : List (Nat × Nat) → Nat × Nat → List (Nat × Nat)
  | [], v => [v]
  | x :: l, v => if rankKey w x.1 < rankKey w v.1 then v :: x :: l else x :: rankInsert w l v

/-- The ranks 0 to K − 1 of a row (R241). -/
def topRanks (w k : Nat) (row : List Nat) : List (Nat × Nat) :=
  (row.foldl (fun (st : List (Nat × Nat) × Nat) u => ((rankInsert w st.1 (u, st.2)).take k, st.2 + 1)) ([], 0)).1

/-- c of R242 under top-p. -/
def topP (p sum : Nat) (masses : List Nat) : Nat :=
  let k := masses.length
  match (List.range k).find? (fun i => p * sum ≤ 65536 * ((masses.take (i + 1)).foldl (· + ·) 0)) with
  | some i => i + 1
  | none => k

/-- The result area of a SKIM (R242, R243). -/
def skimArea (f : SkimF) (row : List Nat) : List Byte :=
  let id := fmtId f.fmt
  let e := fmtE f.fmt
  let top := topRanks (8 * e) (min (f.k.toNat + 1) (skimM f)) row
  let c := if f.topp then topP f.p.toNat ((row.map (mass id)).foldl (· + ·) 0) (top.map (fun v => mass id v.1)) else top.length
  let kept := top.take c
  let positions := (List.range 64).flatMap (fun a => match kept[a]? with | some v => leBytes 4 v.2 | none => leBytes 4 0xFFFFFFFF)
  let values := (List.range 64).flatMap (fun a => match kept[a]? with | some v => leBytes 4 v.1 | none => leBytes 4 0)
  positions ++ values

/-! ## The Basin -/

/-- The class of a summand (R251). -/
def product (x g : Num) : Product :=
  match x, g with
  | .nan _, _ => .nan
  | _, .nan _ => .nan
  | .inf a, .inf b => .inf (a != b)
  | .inf a, .fin b m _ => if m = 0 then .nan else .inf (a != b)
  | .fin a m _, .inf b => if m = 0 then .nan else .inf (a != b)
  | .fin a m q, .fin b n r => if m = 0 ∨ n = 0 then .zero else .fin (a != b) (m * n) (q + r)

/-- Codes of the ANCHOR field (R245). -/
def anchorMiss : BitVec 10 := 0x3FC
def anchorPInf : BitVec 10 := 0x3FD
def anchorNInf : BitVec 10 := 0x3FE
def anchorNan  : BitVec 10 := 0x3FF

/-- The anchor exponent of an Anchored well (R245). -/
def Well.anchorOf (w : Well) : Option Int :=
  if 6 ≤ w.anchor.toNat ∧ w.anchor.toNat ≤ 0x21F then some ((w.anchor.toNat : Int) - 288) else none

def anchorCode (a : Int) : BitVec 10 := BitVec.ofNat 10 (a + 288).toNat

/-- A well that entered a state without a sum (R254). -/
def Well.inState (w : Well) (code : BitVec 10) : Well := { w with acc := 0, anchor := code }

/-- The step of a SKP for one well: `m` is the largest exponent directed to it (R252). -/
def Well.skim (w : Well) (m : Int) : Well :=
  if w.anchor = 0 then { w with anchor := anchorCode m } else
  match w.anchorOf with
  | none => w
  | some a => if m ≤ a then w else if w.count = 0 then { w with anchor := anchorCode m } else w.inState anchorMiss

/-- The contribution of a finite product in units of U (R253). -/
def contribution (a : Int) (neg : Bool) (m : Nat) (q : Int) : Int :=
  let c : Int := roundAt m q (a - 171) none
  if neg then -c else c

/-- A product reaches an Anchored well at or below its anchor (R253). -/
def Well.reaches (w : Well) : Product → Bool
  | .fin _ m q => match w.anchorOf with | some a => decide (dyadicLog m q ≤ a) | none => false
  | _ => true

/-- The step of a COMB for one well with the products directed to it (R254, R255). -/
def Well.combine (w : Well) (ps : List Product) : Well :=
  let w1 := { w with count := BitVec.ofNat 10 (min 1023 (w.count.toNat + ps.length)) }
  let pinf := decide (w.anchor = anchorPInf) || ps.contains (.inf false)
  let ninf := decide (w.anchor = anchorNInf) || ps.contains (.inf true)
  if w.anchor = anchorNan ∨ ps.contains .nan ∨ (pinf ∧ ninf) then w1.inState anchorNan
  else if pinf then w1.inState anchorPInf
  else if ninf then w1.inState anchorNInf
  else if w.anchor = anchorMiss ∨ !ps.all w.reaches then w1.inState anchorMiss
  else
    let sum := ps.foldl (fun (t : Int) p => match p with
      | .fin neg m q => t + contribution (w.anchorOf.getD 0) neg m q
      | _ => t) 0
    { w1 with acc := w1.acc + BitVec.ofInt 182 sum }

/-- The result of a DRAIN for one well (R256). -/
def Well.result (w : Well) (id : Nat) : Nat :=
  if w.anchor = anchorMiss ∨ w.anchor = anchorNan then nanCode id
  else if w.anchor = anchorPInf then encodeNum id (.inf false) none false
  else if w.anchor = anchorNInf then encodeNum id (.inf true) none false
  else match w.anchorOf with
    | none => 0
    | some a => let v := w.acc.toInt
                if v = 0 then 0 else encodeNum id (.fin (decide (v < 0)) v.natAbs (a - 171)) none false

/-- The physical well that an access of a local well takes (R247, R248), and the one that a write goes to. -/
def State.wellRead (s : State) (p : StreamId) (w : Nat) : Nat :=
  let base := s.wellBase p
  let k := p.toNat * 65536 + w
  if !bitOf (s.recAt p 28 1) 0 then base + w else
  let cur := sparseGet 0 s.basin.ptr k
  let half := if s.basin.touched.contains k then 1 - cur else cur
  base + half * s.wellCount p + w
def State.wellWrite (s : State) (p : StreamId) (w : Nat) : Nat :=
  if !bitOf (s.recAt p 28 1) 0 then s.wellBase p + w else
  s.wellBase p + (1 - sparseGet 0 s.basin.ptr (p.toNat * 65536 + w)) * s.wellCount p + w

def State.well (s : State) (i : Nat) : Well := sparseGet Well.clear s.basin.wells i

/-- An access of a local well: later ones of the frame use its other copy (R248); a flipped bit is corrected (R346). -/
def State.touchWell (s : State) (p : StreamId) (w : Nat) : State :=
  let s1 := s.readCorrect .wells [s.wellRead p w]
  if bitOf (s.recAt p 28 1) 0 then { s1 with basin := { s1.basin with touched := insertNat s1.basin.touched (p.toNat * 65536 + w) } } else s1

/-- A local well read, changed and written (R248). -/
def State.modWell (s : State) (p : StreamId) (w : Nat) (f : Well → Well) : State :=
  let x := f (s.well (s.wellRead p w))
  let k := p.toNat * 65536 + w
  let s1 := s.touchWell p w
  ({ s1 with basin := { s1.basin with
      wells := sparseSet Well.clear s1.basin.wells (s.wellWrite p w) x
      written := if bitOf (s.recAt p 28 1) 0 then insertNat s1.basin.written k else s1.basin.written } } : State).wroteWords
    .wells [s.wellWrite p w]

/-- A local well reads uncorrectable (R258). -/
def State.wellBad (s : State) (p : StreamId) (w : Nat) : Bool := s.uncorrectable .wells (s.wellRead p w)

/-- The distinct wells of a list of products, in ascending order. -/
def wellsOf (ps : List (Nat × Product)) : List Nat := ps.foldl (fun l x => insertNat l x.1) []

/-- The step of a SKP (R250, R252): every well takes the maximum of the finite products directed to it. A persistent well to which the SKP
directs no finite product is not accessed, as far as R248's choice of the copy goes (DESIGN CHOICE, log entry 72). -/
def State.skpStep (s : State) (p : StreamId) (ps : List (Nat × Product)) : State :=
  (wellsOf ps).foldl (fun s w =>
    let es := ps.filterMap (fun x => match x.2 with
      | .fin _ m q => if x.1 = w then some (dyadicLog m q) else none
      | _ => none)
    match es with
    | [] => s.readCorrect .wells [s.wellRead p w]
    | e :: r => s.modWell p w (·.skim (r.foldl max e))) s

/-- The step of a COMB (R250, R254). -/
def State.combStep (s : State) (p : StreamId) (ps : List (Nat × Product)) : State :=
  (wellsOf ps).foldl (fun s w =>
    s.modWell p w (·.combine (ps.filterMap (fun x => if x.1 = w then some x.2 else none)))) s

end Sys2Proof.Machine
end

