-- ==== Sys2Proof/Machine/Slabs.lean ====
section
/-! DEFINITION. What happens in the cycles after an issue: the slabs of an instruction (R107), the reads of the Separator
and the Skimmer (R235), and the arrival of results (R26, R113). -/

namespace Sys2Proof.Machine

/-! ## Registers that an instruction names -/

/-- r + i as a register number. -/
def regAdd (r : BitVec 8) (i : Nat) : BitVec 8 := r + BitVec.ofNat 8 i

/-- Slabs of an instruction less one (R107). -/
def opRpt : Op → Nat
  | .perm f => if f.mode then 0 else f.rpt.toNat
  | .pbpc f => f.rpt.toNat
  | .ldt f => f.rpt.toNat
  | .stt f => f.rpt.toNat
  | .conv f => f.rpt.toNat
  | .pack f => f.rpt.toNat
  | .unpk f => f.rpt.toNat
  | _ => 0

/-- The source registers of slab i (R95, R107, R224). -/
def slabSources (op : Op) (i : Nat) : List (BitVec 8) :=
  match op with
  | .perm f => if f.mode then [f.src, regAdd f.src 1] else [regAdd f.src i]
  | .pbpc f => [regAdd f.src i]
  | .stt f => [regAdd f.reg i]
  | .conv f => if mxDequant f.cvt then [regAdd f.src i, regAdd f.aux i] else [regAdd f.src i]
  | .pack f => [regAdd f.src i]
  | .unpk f => [regAdd f.src i]
  | .skp f => [f.src, f.gate, regAdd f.gate 1, f.widx, regAdd f.widx 1]
  | .comb f => [f.src, f.gate, regAdd f.gate 1, f.widx, regAdd f.widx 1]
  | .csend f => [f.src]
  | .chk f => if f.mode = 1 then [f.a] else [f.a, f.b]
  | _ => []

/-- Registers of a SKIM's result area (R243). -/
def skimRegs (lanes : Nat) : Nat := max 1 (512 / lanes)

/-- The destination registers of slab i (R95, R108). AUX + i counts as one also where R230 leaves its contents as they are (DESIGN CHOICE,
log entry 71). -/
def slabDests (lanes : Nat) (op : Op) (i : Nat) : List (BitVec 8) :=
  match op with
  | .perm f => if f.mode then [] else [regAdd f.dst i]
  | .pbpc f => [regAdd f.dst i]
  | .ldt f => [regAdd f.reg i]
  | .conv f => if mxQuant f.cvt then [regAdd f.dst i, regAdd f.aux i] else [regAdd f.dst i]
  | .pack f => [regAdd f.dst i]
  | .unpk f => [regAdd f.dst i]
  | .skim f => (List.range (skimRegs lanes)).map (regAdd f.dst)
  | .drain f => [f.dst]
  | .crecv f => if f.sen then [f.dst, f.sreg] else [f.dst]
  | _ => []

/-- A slab holds fewer than 32 elements, so that a block of an MX code is two slabs (R230). -/
def mxSpans (lanes : Nat) (f : ConvF) : Bool :=
  (mxQuant f.cvt || mxDequant f.cvt) && decide (lanes < 32 * max (fmtBytes (cvtSrc f.cvt)) (fmtBytes (cvtDst f.cvt)))

/-- The registers that slab i reads: where a block is two slabs, the second reads the first one's elements or scale too (R230). -/
def slabReads (lanes : Nat) (op : Op) (i : Nat) : List (BitVec 8) :=
  slabSources op i ++ match op with
    | .conv f => if mxSpans lanes f && i % 2 == 1 then [regAdd (if mxQuant f.cvt then f.src else f.aux) (i - 1)] else []
    | _ => []

/-- The registers that slab i brings results to, with the cycles by which each is readable before the latency of slab i: where
a block is two slabs, a quantise forms both in the second one, and the block has one scale register, that of the even slab
(R230). -/
def slabResults (lanes : Nat) (op : Op) (i : Nat) : List (BitVec 8 × Nat) :=
  match op with
  | .conv f =>
    if mxQuant f.cvt && mxSpans lanes f then
      (if i % 2 = 0 then [] else [(regAdd f.dst (i - 1), 1), (regAdd f.aux (i - 1), 1), (regAdd f.dst i, 0)])
    else (slabDests lanes op i).map (fun r => (r, 0))
  | _ => (slabDests lanes op i).map (fun r => (r, 0))

/-- The registers that slab i writes. -/
def slabWrites (lanes : Nat) (op : Op) (i : Nat) : List (BitVec 8) := (slabResults lanes op i).map (·.1)

/-- The latency of a Cascade pass (R26, R33). -/
def State.cascadeLat (s : State) : Nat := 2 * s.cfg.laneBits + 10

/-- Latency of slab i of an instruction that issued with these loop counters (R113); the cycle of an address that is no multiple of 32 is
that of the slab's own (R223, R268). -/
def State.slabLatency (s : State) (loop : Vector (BitVec 24) 4) (op : Op) (i : Nat) : Nat :=
  match op with
  | .perm _ => s.cascadeLat
  | .pbpc _ => s.cascadeLat
  | .ldt f => 8 + (if f.tr ∨ f.cvt ≠ 0 then 4 else 0) + (if xferAddr f true s.lanes loop i % 32 = 0 then 0 else 1)
  | .stt f => 6 + (if f.tr ∨ f.cvt ≠ 0 then 4 else 0)
  | .conv f => if mxCode f.cvt then 8 else 6
  | .pack _ => 4
  | .unpk _ => 4
  | .skim f => skimOcc f + 40
  | .drain f => ceilDiv (f.n.toNat + 1) 256 + 10
  | .crecv _ => 4
  | _ => 0

/-- Latency of slab i of an instruction that issues now (R113). -/
def State.latency (s : State) (p : StreamId) (op : Op) (i : Nat) : Nat := s.slabLatency (s.stream p).ctx.loop op i

/-! ## Writes of registers -/

/-- A write of a register meets a slab that has yet to read it. One that is before the slab in program order is what it reads; a
later instruction's leaves it the contents before (R108); a landing is read as it stands. -/
def Pend.meet (a : Pend) (lanes : Nat) (p : StreamId) (r : BitVec 8) (landing : Bool) (bytes : List Byte) (mark : Option Origin) :
    Pend :=
  match a.act with
  | .slab op i pc loop frame lat early held undo =>
    if a.stream ≠ p ∨ !(slabReads lanes op i).contains r then a
    else if early.contains r then { a with act := .slab op i pc loop frame lat (early.erase r) held undo }
    else if landing ∨ held.any (fun h => h.1 == r) then a
    else { a with act := .slab op i pc loop frame lat early (held ++ [(r, bytes, mark)]) undo }
  | _ => a

/-- The results that the slabs before slab i of an instruction bring, each with its cycle; slab i is due at `due`. -/
def State.broughtBefore (s : State) (op : Op) (i due : Nat) (loop : Vector (BitVec 24) 4) : List (BitVec 8 × Nat) :=
  (List.range i).flatMap (fun j => (slabResults s.lanes op j).map (fun d => (d.1, due - i + j + s.slabLatency loop op j - d.2)))

/-- A write of some lanes by another instruction or a landing: what it replaced is no longer what a fault would leave (R92). -/
def Undone.meet (u : Undone) (key : Nat → Nat) (cells : Mem) (mark : Option Origin) : Undone :=
  let at_ := cells.map (fun c => key c.1)
  { u with cells := u.cells.filter (fun c => !cells.any (fun d => d.1 == c.1)), used := true, mark := joinMark u.mark mark, written := true
           bad := u.bad.filter (fun w => !(List.range 8).all (fun i => at_.contains (8 * w + i))) }

/-- What a share of a register holds where a result is to be written (R92). -/
def State.replaced (s : State) (p : StreamId) (r : BitVec 8) (cells : Mem) : Undone :=
  let w := s.writeCopy p r
  { reg := r, cells := cells.map (fun c => (c.1, if s.tileUse.contains (shareKey p w) then memGet s.tiles (tileKey w (s.globalLane p c.1)) else 0))
    used := s.tileUse.contains (shareKey p w), mark := markGet s.tileMarks (shareKey p w), written := s.tilesWritten.contains (shareKey p r)
    bad := (s.tileWords p w).filter (s.uncorrectable .tiles) }

/-- A write of a register before a slab's read: its instruction's own result, which a fault of the slab is to undo, or another's (R92). -/
def State.undoing (s : State) (p : StreamId) (r : BitVec 8) (landing : Bool) (cells : Mem) (mark : Option Origin) (a : Pend) : Pend :=
  match a.act with
  | .slab op i pc loop frame lat early held undo =>
    if a.stream ≠ p then a
    else if !landing && (s.broughtBefore op i a.due loop).contains (r, s.clock.offset) then
      { a with act := .slab op i pc loop frame lat early held (undo ++ [s.replaced p r cells]) }
    else
      let key := fun (m : Nat) => tileKey (s.writeCopy p r) (s.globalLane p m)
      { a with act := .slab op i pc loop frame lat early held (undo.map (fun u => if u.reg = r then u.meet key cells mark else u)) }
  | _ => a

/-- The latches with their validity bits in the context (R87, R109). -/
def State.setLatches (s : State) (p : StreamId) (l : List (BitVec 8)) : State :=
  s.modStream p (fun x => { x with latches := l, ctx := { x.ctx with latch := BitVec.ofNat 2 (2 ^ min 2 l.length - 1) } })

/-- A latch ceases to match a register that is written (R158). -/
def State.dropLatch (s : State) (p : StreamId) (r : BitVec 8) : State :=
  if (s.stream p).latches.contains r then s.setLatches p ((s.stream p).latches.filter (· != r)) else s

/-- A result or a landed vector becomes readable. For a latch a vector from the flumes lands in this cycle, 4 c after its sample
(DESIGN CHOICE, log entry 56: R158 does not say which of the cycles from the sample on lands it). -/
def State.arriveTile (s : State) (p : StreamId) (r : BitVec 8) (landing : Bool) (cells : Mem) (mark : Option Origin) : State :=
  let s0 := if s.eccBad.isEmpty then s else { s with inflight := s.inflight.map (s.undoing p r landing cells mark) }
  let s1 := if (s.image.bank.partner p r).isSome ∨ s.inflight.isEmpty then s0 else
    { s0 with inflight := s0.inflight.map (fun a => a.meet s.lanes p r landing (s.share p r) (s.tileMark p r)) }
  ((s1.dropLatch p r).writeTile p r cells mark).modStream p (fun x => { x with arrived := r :: x.arrived })

/-- A result on its way (R113). -/
def State.result (s : State) (p : StreamId) (lat : Nat) (r : BitVec 8) (cells : Mem) (mark : Option Origin) : State :=
  (s.dropLatch p r).later p lat (.tile r cells mark)

/-- A source register of a slab: what was kept for it, or the register as it stands. -/
def State.source (s : State) (p : StreamId) (held : List (BitVec 8 × List Byte × Option Origin)) (r : BitVec 8) :
    List Byte × Option Origin :=
  match held.find? (fun h => h.1 == r) with
  | some h => h.2
  | none => (s.share p r, s.tileMark p r)

/-- A register read corrects single errors (R346). -/
def State.readTile (s : State) (p : StreamId) (r : BitVec 8) : State :=
  if s.eccOne.isEmpty then s else s.readCorrect .tiles (s.tileWords p (s.readCopy p r))

/-! ## Cascade slabs -/

/-- A read of the Cascade fills the older of the two latches; a hit reads no register (R109). -/
def State.latchRead (s : State) (p : StreamId) (r : BitVec 8) : State :=
  let l := (s.stream p).latches
  let s1 := s.setLatches p ((r :: l.filter (· != r)).take 2)
  if l.contains r then s1.event 0x04 p.toNat 1 else s1.readTile p r

/-- The number of the present frame attempt (R344). -/
def State.attempt (s : State) : Nat := s.recov.attempts + 1

/-- Another check failed in the partition in one of the 63 attempts before this one (R344). -/
def State.failedBefore (s : State) (p : StreamId) : Bool :=
  let f := sparseGet 0 s.recov.lastFail p.toNat
  decide (f ≠ 0 ∧ f < s.attempt ∧ s.attempt ≤ f + 63)

/-- The bits of the recovery causes (R351, R422). -/
def causeReplayLimit : BitVec 5 := 1
def causeFrameNumber : BitVec 5 := 2
def causeConserve : BitVec 5 := 4
def causeImageCopy : BitVec 5 := 8
def causeFirmware : BitVec 5 := 16

/-- The failure of a conservation check, decided one cycle before the result is readable (R342, R344). -/
def State.conserveFail (s : State) (p : StreamId) (slot : BitVec 16) : State :=
  let s1 := s.count .conserve 1
  let r := s.recov
  let f : CFail := { no := r.failNo + 1, slot := slot, part := p, off := BitVec.ofNat 11 s.clock.offset, frame := s.clock.frame,
                      cycle := s.clock.cycles }
  { s1 with recov := { r with fails := r.fails ++ [f], failNo := r.failNo + 1, lastFail := sparseSet 0 r.lastFail p.toNat s.attempt }
            unit := if s.failedBefore p then { s.unit with causes := s.unit.causes ||| causeConserve } else s.unit }

/-- A slab leaves the Cascade (R145, R156): element form in, element form out, the conservation check between them
(R342), and the result to its destination. -/
def State.cascadeOut (s : State) (p : StreamId) (dst : BitVec 8) (lat : Nat) (slot : BitVec 16) (src out : List Byte)
    (mark : Option Origin) : State :=
  let ok := consWord src == consWord out
  let s1 := (if ok then s else s.later p (lat - 1) (.conserve dst slot)).event 0x03 p.toNat 1
  s1.result p lat dst (lanesFrom 0 (if s.plane p then toPlanes out else out)) (if ok then mark else joinMark mark (some .internal))

/-- A source register of a slab in element form, with its mark (R156). -/
def State.elementSource (s : State) (p : StreamId) (held : List (BitVec 8 × List Byte × Option Origin)) (r : BitVec 8) :
    List Byte × Option Origin :=
  let (raw, mark) := s.source p held r
  (s.elementForm p raw, mark)

/-- The sub-slot that a failed check of the slab names: 0xFFFF for a pass under a map (R342). -/
def Passing.slotId (o : Passing) : BitVec 16 := match o.slot with | some n => BitVec.ofNat 16 n | none => 0xFFFF

/-- What leaves the Cascade for a slab that it passes (R153, R154). -/
def State.passed (s : State) (o : Passing) : List Byte :=
  match o.slot with
  | some n => s.pass o.stream (s.settingBit n) o.slab
  | none => s.bpcPass o.stream o.map o.slab

/-- A slab passes. -/
def State.passOne (s : State) (o : Passing) : State := s.cascadeOut o.stream o.reg o.lat o.slotId o.slab (s.passed o) o.mark

/-- A slab enters the Cascade. On a sound one nothing carries a byte between partitions; what leaves a defective one depends on all the
slabs that pass it in the cycle, and is settled as the cycle ends (R83). -/
def State.passSlab (s : State) (o : Passing) : State :=
  if s.defects.isEmpty then s.passOne o else { s.dropLatch o.stream o.reg with cycle := { s.cycle with passing := s.cycle.passing ++ [o] } }

/-- The slabs that pass a defective Cascade in this cycle leave it (R83). -/
def State.passAll (s : State) : State :=
  if s.cycle.passing.isEmpty then s else
  let t := s.cycle.passing.foldl State.passOne s
  { t with cycle := { t.cycle with passing := [] } }

/-- Results on their way: those that have left their unit, and those that leave a defective Cascade as the cycle ends (R83, R95). -/
def State.onItsWay (s : State) : List Pend :=
  s.inflight ++ s.cycle.passing.map (fun o => ⟨s.clock.offset + o.lat, o.stream, .tile o.reg (lanesFrom 0 o.slab) o.mark⟩)

def State.permSlab (s : State) (p : StreamId) (f : PermF) (i lat : Nat) (held : List (BitVec 8 × List Byte × Option Origin)) : State :=
  let (src, mark) := s.elementSource p held (regAdd f.src i)
  let n := subSlot f.slot f.sub
  ((s.readSetting n).latchRead p (regAdd f.src i)).passSlab ⟨p, some n, 0, src, regAdd f.dst i, lat, mark⟩

def State.pbpcSlab (s : State) (p : StreamId) (f : PbpcF) (i lat : Nat) (held : List (BitVec 8 × List Byte × Option Origin)) : State :=
  let (src, mark) := s.elementSource p held (regAdd f.src i)
  (s.latchRead p (regAdd f.src i)).passSlab ⟨p, none, f.map, src, regAdd f.dst i, lat, mark⟩

/-! ## Pool slabs -/

/-- Pool words (32 bytes) of some runs of bytes. -/
def runWords (runs : List (Nat × Nat)) : List Nat :=
  (runs.flatMap (fun b => (List.range ((b.1 + b.2 + 31) / 32 - b.1 / 32)).map (· + b.1 / 32))).eraseDups

/-- An access that the Churn counts: A, and C where it takes a second bank cycle (R267, R276). -/
def State.churnAccess (s : State) (p : StreamId) (r : Nat) (sets : List StreamId) (runs : List (Nat × Nat)) : State :=
  let g := s.image.bank.region r
  if g.mode ≠ 1 then s else
  let nb := s.setBanks
  let words := runWords runs
  let twice := !decide ((words.map (fun x => s.bankOf r g (x / nb) (x % nb))).Nodup)
  let s1 := sets.foldl (fun s set =>
    let k := r * 16 + set.toNat
    let c := s.pool.churn
    { s with pool := { s.pool with churn := { c with
        accesses := sparseSet 0 c.accesses k (sparseGet 0 c.accesses k + 1)
        conflicts := if twice then sparseSet 0 c.conflicts k (sparseGet 0 c.conflicts k + 1) else c.conflicts } } }) s
  if twice then s1.event 0x06 p.toNat 1 else s1

/-- A read that met a landing not complete is counted once for its instruction, which issued at offset t (R203). -/
def State.lateLanding (s : State) (p : StreamId) (t : Nat) : State :=
  if (s.stream p).lateSeen = some t then s else
  ((s.modStream p (fun x => { x with lateSeen := some t })).count .landLate 1).event 0x09 p.toNat 1

/-- The banks of the words of some runs of a half, each once for every word. -/
def State.poolBanks (s : State) (p : StreamId) (r half : Nat) (runs : List (Nat × Nat)) : List Nat :=
  (runWords runs).map (fun x => s.bankAt (s.poolAddr r p half (32 * x)))

/-- A read of runs of a half takes a cycle of the banks that hold them, and of a bank that it touches twice a second one (R267, R271). -/
def State.takePool (s : State) (p : StreamId) (r half : Nat) (runs : List (Nat × Nat)) : State := s.takeBanks (s.poolBanks p r half runs)

/-- Words of a range of a half that hold one flipped bit are corrected on the way (R346). -/
def State.readPoolHalf (s : State) (p : StreamId) (r half o n : Nat) : State :=
  if s.eccOne.isEmpty then s else
  s.readCorrect .pool (((List.range n).map (fun i => s.poolAddr r p half (o + i) / 8)).eraseDups)

/-- The same for a stream's read of a region. -/
def State.readPool (s : State) (p : StreamId) (r o n : Nat) : State := s.readPoolHalf p r (s.readHalf r) o n

/-- Slab i of an LDT (R124, R223, R269). -/
def State.ldtSlab (s : State) (p : StreamId) (f : XferF) (i : Nat) (loop : Vector (BitVec 24) 4) (lat : Nat) : State :=
  let l := s.lanes
  let r := f.region.toNat
  let base := (xferAddr f true l loop i).toNat
  let ep := (xferSizes f true).2
  let runs := xferRuns f true l loop i
  let bytes := (List.range (xferCount f true l)).flatMap (fun a => s.poolRead p r (xferElemOff f true l base a) ep)
  let late := runs.any (fun b => s.landLate p r b.1 b.2)
  let mark := joinMark (joinMarks (runs.map (fun b => s.poolMark p r b.1 b.2))) (if late then some .internal else none)
  let s1 := ((runs.foldl (fun s b => s.readPool p r b.1 b.2) s).churnAccess p r [p] runs).takePool p r (s.readHalf r) runs
  let s2 := if late then s1.lateLanding p (s.clock.offset - i) else s1
  s2.result p lat (regAdd f.reg i) (lanesFrom 0 (convertBytes f.cvt bytes)) mark

/-- Slab i of an STT (R124, R125, R264, R435): visible to its own stream in the next cycle, to the others after the
latency. -/
def State.sttSlab (s : State) (p : StreamId) (f : XferF) (i : Nat) (loop : Vector (BitVec 24) 4) (lat : Nat)
    (held : List (BitVec 8 × List Byte × Option Origin)) : State :=
  let l := s.lanes
  let r := f.region.toNat
  let base := (xferAddr f false l loop i).toNat
  let (er, ep) := xferSizes f false
  let n := xferCount f false l
  let (raw, mark) := s.source p held (regAdd f.reg i)
  let bytes := convertBytes f.cvt (raw.take (n * er))
  let cells := (List.range n).flatMap (fun a => lanesFrom (xferElemOff f false l base a) ((bytes.drop (a * ep)).take ep))
  (((s.readTile p (regAdd f.reg i)).churnAccess p r (s.copySets r) (xferRuns f false l loop i)).poolWrite p r cells
    (s.clock.offset + 1) (s.clock.offset + lat) mark)

/-! ## Format slabs -/

/-- The rounding argument of element a of slab i of an instruction that issued in `frame` (R226, R227). -/
def State.rounding (s : State) (p : StreamId) (f : ConvF) (pc : BitVec 13) (loop : Vector (BitVec 24) 4) (frame : Frame) (i a : Nat) :
    Option (BitVec 32) :=
  if f.rnd = 0 then none else
  some (srbits (sparseGet 0 s.image.bank.seeds (p.toNat * 256 + f.seedsel.toNat)) frame p pc loop i a)

/-- The elements of slab i with their rounding arguments. -/
def State.convElems (s : State) (p : StreamId) (f : ConvF) (pc : BitVec 13) (loop : Vector (BitVec 24) 4) (frame : Frame) (i n : Nat)
    (raw : List Byte) : List (Nat × Option (BitVec 32)) :=
  (elems raw (fmtBytes (cvtSrc f.cvt)) n).mapIdx (fun a v => (v, s.rounding p f pc loop frame i a))

/-- A list cut into blocks of 32 elements. -/
def blocks32 {α : Type} (n : Nat) (l : List α) : List (List α) := (List.range (ceilDiv n 32)).map (fun b => (l.drop (32 * b)).take 32)

/-- Slab i of a CONV (R128, R223, R230 to R232). Where a slab holds fewer than 32 elements, a block is two slabs, and
the second one forms both: it reads the sources of both in its own cycle, which is one that R108 allows for each (DESIGN CHOICE, log
entry 43). -/
def State.convSlab (s : State) (p : StreamId) (f : ConvF) (i : Nat) (pc : BitVec 13) (loop : Vector (BitVec 24) 4) (frame : Frame) (lat : Nat)
    (held : List (BitVec 8 × List Byte × Option Origin)) : State :=
  let src := cvtSrc f.cvt
  let dst := cvtDst f.cvt
  let n := s.lanes / max (fmtBytes src) (fmtBytes dst)
  let out := fun (vs : List Nat) => lanesFrom 0 (elemBytes (fmtBytes dst) vs)
  let s0 := s.readTile p (regAdd f.src i)
  let (raw, mark) := s.source p held (regAdd f.src i)
  let here := s.convElems p f pc loop frame i n raw
  if mxQuant f.cvt then
    if n < 32 then
      if i % 2 = 0 then s0 else
      let (raw0, mark0) := s.source p held (regAdd f.src (i - 1))
      let first := s.convElems p f pc loop frame (i - 1) n raw0
      let (x, codes) := mxQuantise dst ((first ++ here).map (fun v => (decodeNum src v.1, v.2)))
      let m := joinMark mark0 mark
      ((s0.result p (lat - 1) (regAdd f.dst (i - 1)) (out (codes.take n)) m).result p lat (regAdd f.dst i) (out (codes.drop n)) m).result
        p (lat - 1) (regAdd f.aux (i - 1)) [(0, BitVec.ofNat 8 x)] m
    else
      let bs := (blocks32 n here).map (fun b => mxQuantise dst (b.map (fun v => (decodeNum src v.1, v.2))))
      (s0.result p lat (regAdd f.dst i) (out (bs.flatMap (·.2))) mark).result p lat (regAdd f.aux i)
        (lanesFrom 0 (bs.map (fun b => BitVec.ofNat 8 b.1))) mark
  else if mxDequant f.cvt then
    let auxReg := if n < 32 then regAdd f.aux (i - i % 2) else regAdd f.aux i
    let (scales, auxMark) := s.source p held auxReg
    let target := if dst = 13 then 2 else 1
    let vs := here.mapIdx (fun a v =>
      mxDequantise src target (scales.getD (if n < 32 then 0 else a / 32) 0).toNat v.1 v.2 f.sat)
    (s0.readTile p auxReg).result p lat (regAdd f.dst i) (out vs) (joinMark mark auxMark)
  else
    s0.result p lat (regAdd f.dst i) (out (here.map (fun v => convertElem f.cvt.toNat v.2 f.sat v.1))) mark

/-- PACK of a slab: plane i of the block from bit i of the elements (R129). -/
def packBlock (w : Nat) (bs : List Byte) : List Byte :=
  let q := bs.length / 8
  (List.range w).flatMap (fun i => (List.range q).map (fun x =>
    BitVec.ofNat 8 ((List.range 8).foldl (fun a r => a + if bitOf (bs.getD (8 * x + r) 0).toNat i then 2 ^ r else 0) 0)))

/-- UNPK of a block: the low w bits of every element (R129). -/
def unpackBlock (w l : Nat) (block : List Byte) : List Byte :=
  (List.range l).map (fun e => BitVec.ofNat 8 ((List.range w).foldl (fun a i =>
    a + if bitOf (block.getD (i * (l / 8) + e / 8) 0).toNat (e % 8) then 2 ^ i else 0) 0))

/-- First lane and width of a packed block (R129). -/
def blockLane (f : PackF) (l : Nat) : Nat := f.pos.toNat * (f.w.toNat + 1) * (l / 8)

def State.packSlab (s : State) (p : StreamId) (f : PackF) (i lat : Nat) (held : List (BitVec 8 × List Byte × Option Origin)) : State :=
  let (raw, mark) := s.source p held (regAdd f.src i)
  (s.readTile p (regAdd f.src i)).result p lat (regAdd f.dst i) (lanesFrom (blockLane f s.lanes) (packBlock (f.w.toNat + 1) raw)) mark

def State.unpkSlab (s : State) (p : StreamId) (f : PackF) (i lat : Nat) (held : List (BitVec 8 × List Byte × Option Origin)) : State :=
  let (raw, mark) := s.source p held (regAdd f.src i)
  (s.readTile p (regAdd f.src i)).result p lat (regAdd f.dst i)
    (lanesFrom 0 (unpackBlock (f.w.toNat + 1) s.lanes (raw.drop (blockLane f s.lanes)))) mark

/-- Slab i of an instruction in its cycle (R107). -/
def State.slab (s : State) (p : StreamId) (op : Op) (i : Nat) (pc : BitVec 13) (loop : Vector (BitVec 24) 4) (frame : Frame) (lat : Nat)
    (held : List (BitVec 8 × List Byte × Option Origin)) : State :=
  match op with
  | .perm f => s.permSlab p f i lat held
  | .pbpc f => s.pbpcSlab p f i lat held
  | .ldt f => s.ldtSlab p f i loop lat
  | .stt f => s.sttSlab p f i loop lat held
  | .conv f => s.convSlab p f i pc loop frame lat held
  | .pack f => s.packSlab p f i lat held
  | .unpk f => s.unpkSlab p f i lat held
  | _ => s

/-! ## Separator and Skimmer, cycle by cycle -/

/-- A read of one occupancy cycle: bytes, marks, the landing check (R203, R235, R435). -/
def State.unitRead (s : State) (p : StreamId) (r o n t : Nat) (mark : Option Origin) : State × List Byte × Option Origin × Bool :=
  let late := s.landLate p r o n
  let s1 := ((s.readPool p r o n).churnAccess p r [p] [(o, n)]).takePool p r (s.readHalf r) [(o, n)]
  (if late then s1.lateLanding p t else s1, s.poolRead p r o n, joinMark mark (s.poolMark p r o n), late)

/-- The first uncorrectable byte of a unit's read in its cycle (R115). -/
def State.unitBad (s : State) (p : StreamId) (r o n : Nat) : Option Nat := s.poolBad p r o n s.clock.offset

/-- Occupancy cycle c of a SEPR (R235); an uncorrectable word that it reads ends the instruction with ECC_UNCORR (R92, R115): the counting pass and the placing pass read keys; after the last cycle the
output area is on its way (R113, R237, R239). -/
def State.seprCycle (s : State) (p : StreamId) (f : SeprF) (c : Nat) (pc : BitVec 13) (got : List Byte) (mark : Option Origin) : State :=
  let n := seprN f
  let k := ceilDiv n 256
  let d := seprOcc f
  let t := s.clock.offset - c
  let i := if c < k then some c else if d - k ≤ c then some (c - (d - k)) else none
  let at_ := fun (i : Nat) => 32 * f.koff.toNat + 512 * i
  let len := fun (i : Nat) => min 512 (2 * n - 512 * i)
  match i.bind (fun i => s.unitBad p f.kreg.toNat (at_ i) (len i)) with
  | some b => s.raise p faultECC b 0 pc
  | none =>
  let (s1, got1, mark1) := match i with
    | none => (s, got, mark)
    | some i =>
      let (s1, bs, m, late) := s.unitRead p f.kreg.toNat (at_ i) (len i) t mark
      (s1, got ++ bs, if late then joinMark m (some .internal) else m)
  if c + 1 < d then s1.later p 1 (.sepr f (c + 1) pc got1 mark1) else
  let late := (s1.stream p).lateSeen = some t
  let keys := elems got1 2 (2 * n)
  s1.later p 41 (.output f.oreg (32 * f.ooff.toNat) (seprOutput f (keys.take n) (keys.drop n)) late mark1)

/-- A SEPR's outputs become readable (R113, R237), or the area is marked where a key's landing was late (R239). -/
def State.seprOut (s : State) (p : StreamId) (r base : Nat) (bytes : List Byte) (late : Bool) (mark : Option Origin) : State :=
  let t := s.clock.offset
  if late then
    let h := s.writeHalf r
    (s.copySets r).foldl (fun s set => { s with pool := { s.pool with
      marks := (List.range bytes.length).foldl (fun m i => markAdd m (s.poolAddr r set h (base + i)) (some .internal)) s.pool.marks } }) s
  else s.poolWrite p r (lanesFrom base bytes) t t mark

/-- The result area of a SKIM on its way to its registers (R243). -/
def State.skimResult (s : State) (p : StreamId) (dst : BitVec 8) (area : List Byte) (lat : Nat) (mark : Option Origin) : State :=
  let l := s.lanes
  (List.range (skimRegs l)).foldl (fun s i => s.result p lat (regAdd dst i) (lanesFrom 0 ((area.drop (i * l)).take l)) mark) s

/-- Occupancy cycle c of a SKIM (R235): 512 values, of which an uncorrectable one ends the instruction (R92, R115); after the last cycle the result is on its way (R113). -/
def State.skimCycle (s : State) (p : StreamId) (f : SkimF) (addr c : Nat) (pc : BitVec 13) (got : List Byte) (mark : Option Origin) : State :=
  let e := fmtE f.fmt
  let m := skimM f
  let d := skimOcc f
  let t := s.clock.offset - c
  let at_ := addr + 512 * e * c
  let len := min (512 * e) (e * m - 512 * e * c)
  match s.unitBad p f.region.toNat at_ len with
  | some b => s.raise p faultECC b 0 pc
  | none =>
  let (s1, bs, m1, late) := s.unitRead p f.region.toNat at_ len t mark
  let got1 := got ++ bs
  let mark1 := if late then joinMark m1 (some .internal) else m1
  if c + 1 < d then s1.later p 1 (.skim f addr (c + 1) pc got1 mark1) else
  let row := elems got1 e m
  let s2 := if row.any (isNan (fmtId f.fmt)) then
    s1.modStream p (fun x => { x with stat := { x.stat with skNan := x.stat.skNan + 1 } }) else s1
  s2.skimResult p f.dst (skimArea f row) 41 mark1

/-! ## The Basin's reading -/

/-- A well read by a DRAIN: counted, and cleared with CLR 1 (R255, R256). -/
def State.drainWell (s : State) (p : StreamId) (clr : Bool) (w : Nat) : State :=
  let v := s.well (s.wellRead p w)
  let s1 := s.modStream p (fun x => { x with stat := { x.stat with
    headroom := x.stat.headroom + (if 512 < v.count.toNat then 1 else 0)
    anchorMiss := x.stat.anchorMiss + (if v.anchor = anchorMiss then 1 else 0) } })
  if clr then s1.modWell p w (fun _ => Well.clear) else s1.touchWell p w

/-- Occupancy cycle c of a DRAIN (R250, R256, R258): its wells are read in order; an uncorrectable one raises ECC_UNCORR, and
the wells before it, those of its own cycle too, are counted and cleared (DESIGN CHOICE, log entry 57). After the last
cycle the result is on its way (R113). -/
def State.drainCycle (s : State) (p : StreamId) (f : DrainF) (c : Nat) (pc : BitVec 13) (got : List Nat) : State :=
  let n := f.n.toNat + 1
  let ws := (List.range (min 256 (n - 256 * c))).map (· + (f.woff.toNat + 256 * c))
  match ws.find? (s.wellBad p) with
  | some w => ((ws.takeWhile (fun v => v != w)).foldl (fun s v => s.drainWell p f.clr v) s).raise p faultECC w 0 pc
  | none =>
    let got1 := got ++ ws.map (fun w => (s.well (s.wellRead p w)).result (fmtId f.fmt))
    let s1 := ws.foldl (fun s w => s.drainWell p f.clr w) s
    if 256 * (c + 1) < n then s1.later p 1 (.drain f (c + 1) pc got1)
    else s1.result p 11 f.dst (lanesFrom 0 (elemBytes (fmtE f.fmt) got1)) (markGet s1.basin.marks p.toNat)

/-! ## Weirs -/

/-- An outbound sideband (R29): VALID, POISON, the declared pair, the stream's tag, and the half of the cycle. -/
def sideband (valid poison : Bool) (pair tag : Nat) (cons : BitVec 16) : BitVec 32 :=
  BitVec.ofNat 32 ((if valid then 2 ^ 31 else 0) + (if poison then 2 ^ 30 else 0) + pair % 8 * 2 ^ 27 + pair / 8 % 2 * 2 ^ 26
    + tag % 1024 * 2 ^ 16 + cons.toNat)

/-- Byte b of flume f is local lane m = b·2^(4−j) + (f >> j) of partition f mod k (R82). -/
def State.flumeLane (s : State) (f b : Nat) : Nat := b * (16 / s.parts) + f / s.parts

/-- The pins of a cycle without a release (R58): VALID 0, POISON 0, the pair declared for the flume's partition, STAG 0, CONS 0,
data 0; the outstanding responses stay. -/
def State.idlePins (s : State) : State :=
  { s with pins := { Pins.idle with
      sb := Vector.ofFn (fun i : Fin 16 => sideband false false (s.recAt (BitVec.ofNat 4 (i.val % s.parts)) 6 1) 0 0)
      resp := s.pins.resp } }

/-- A weir drives the flumes of its partition (R23, R27, R29, R32, R83); the end of the cycle counts the release. -/
def State.drive (s : State) (p : StreamId) (lanes : List Byte) (poison slip : Bool) : State :=
  let fs := (List.range 16).filter (fun f => f % s.parts == p.toNat)
  let pair := s.recAt p 6 1
  let tag := s.recAt p 4 2
  let s1 := fs.foldl (fun s f =>
    let bytes := (List.range (flumeBytes s.cfg)).map (fun b => lanes.getD (s.flumeLane f b) 0)
    { s with pins := { s.pins with
        data := writeBytes s.pins.data (f * 512) bytes
        sb := s.pins.sb.mapIdx (fun i v => if i = f then sideband true poison pair tag (consHalf s.clock.offset bytes) else v) } }) s
  { s1 with pins := { s1.pins with slip := s1.pins.slip || slip, drove := s1.pins.drove ++ [(p, poison, slip)] } }

/-- The releases of the cycle that ends are counted (R27, R397); a release that an early tick cut off is not made (R60). -/
def State.countReleases (s : State) : State :=
  s.pins.drove.foldl (fun s d =>
    let s1 := if d.2.2 then s.count .slip 1 else s
    let s2 := s1.event 0x0D d.1.toNat 1
    if d.2.1 then s2.event 0x0E d.1.toNat 1 else s2) s

/-! ## Uncorrectable reads -/

/-- A pass whose source comes through the operand latches (R109). -/
def latched : Op → Bool | .perm f => !f.mode | .pbpc _ => true | _ => false

/-- A slab after the first reads an uncorrectable word in its cycle: what FADDR names (R115, R345). -/
def State.slabReadBad (s : State) (p : StreamId) (op : Op) (i : Nat) (loop : Vector (BitVec 24) 4) (held : List (BitVec 8 × List Byte × Option Origin)) :
    Option Nat :=
  if s.eccBad.isEmpty then none else
  match op with
  | .ldt f => (xferRuns f true s.lanes loop i).findSome? (fun b => s.poolBad p f.region.toNat b.1 b.2 s.clock.offset)
  | _ => ((slabSources op i).find? (fun r => s.tileBad p r && !(latched op && (s.stream p).latches.contains r)
      && !held.any (fun h => h.1 == r))).map BitVec.toNat

/-- A register as it was before a result of a faulting instruction came to it (R92). -/
def State.undo (s : State) (p : StreamId) (u : Undone) : State :=
  let w := s.writeCopy p u.reg
  let k := shareKey p w
  ({ s with tiles := writeCells s.tiles (u.cells.map (fun c => (tileKey w (s.globalLane p c.1), c.2)))
            tileUse := if u.used then s.tileUse else eraseNat s.tileUse k
            tileMarks := markAdd (sparseErase s.tileMarks k) k u.mark
            tilesWritten := if u.written then s.tilesWritten else eraseNat s.tilesWritten (shareKey p u.reg)
            eccBad := s.eccBad ++ (u.bad.map (fun w => (Store.tiles, w))).filter (fun e => !s.eccBad.contains e)
            eccCover := s.eccCover.filter (fun e => !(e.1 == Store.tiles && u.bad.contains (e.2 / 8))) } : State).modStream p
    (fun x => { x with arrived := x.arrived.erase u.reg })

/-- The instruction of slab i has no effect: its other slabs and its results on the way go, and what its results have replaced is there
again (R92). -/
def State.dropSlabs (s : State) (p : StreamId) (op : Op) (i : Nat) (loop : Vector (BitVec 24) 4) (undo : List Undone) : State :=
  let mine := s.broughtBefore op i s.clock.offset loop
  undo.reverse.foldl (fun t u => t.undo p u) { s with inflight := s.inflight.filter (fun a => !(a.stream == p && match a.act with
      | .slab op' _ _ _ _ _ _ _ _ => op' == op
      | .tile r _ _ => mine.contains (r, a.due)
      | .conserve r _ => mine.contains (r, a.due + 1)
      | _ => false)) }

/-- A slab comes to its cycle: it raises ECC_UNCORR where what it reads is uncorrectable, and the instruction ends; otherwise it is made
(R92, R107, R115). -/
def State.slabDue (s : State) (p : StreamId) (op : Op) (i : Nat) (pc : BitVec 13) (loop : Vector (BitVec 24) 4) (frame : Frame) (lat : Nat)
    (held : List (BitVec 8 × List Byte × Option Origin)) (undo : List Undone) : State :=
  match s.slabReadBad p op i loop held with
  | some a => (s.dropSlabs p op i loop undo).raise p faultECC a 0 pc
  | none => s.slab p op i pc loop frame lat held

/-! ## Arrivals -/

/-- A Sluice landing becomes readable (R202, R203). -/
def State.arriveLand (s : State) (p : StreamId) (order : Nat) (cells : Mem) (positions : List Nat) : State :=
  (s.poolStore cells).modStream p (fun x => { x with jobs := x.jobs.map (fun j =>
    if j.order = order then { j with left := j.left.filter (fun q => !positions.contains q) } else j) })

/-- What arrives in its cycle. -/
def State.arrive (s : State) (a : Pend) : State :=
  let p := a.stream
  match a.act with
  | .slab op i pc loop frame lat _ held undo => s.slabDue p op i pc loop frame lat held undo
  | .tile r cells mark => s.arriveTile p r false cells mark
  | .landing r cells mark => s.arriveTile p r true cells mark
  | .ledger op eff pc => s.ledgerDo p op eff pc
  | .skp ps => s.skpStep p ps
  | .comb ps => s.combStep p ps
  | .fault code faddr cause pc => s.raise p code faddr.toNat cause pc
  | .conserve _ slot => s.conserveFail p slot
  | .sepr f c pc got mark => s.seprCycle p f c pc got mark
  | .skim f addr c pc got mark => s.skimCycle p f addr c pc got mark
  | .drain f c pc got => s.drainCycle p f c pc got
  | .output r base bytes late mark => s.seprOut p r.toNat base bytes late mark
  | .land order cells positions => s.arriveLand p order cells positions
  | .release lanes poison slip => s.drive p lanes poison slip
  | .slip => { s with pins := { s.pins with slip := true } }

/-- A write of the Ledger's port A. -/
def Pend.isLedger (a : Pend) : Bool := match a.act with | .ledger _ _ _ => true | _ => false

/-- The first arrival due in the present cycle of those that `want` names. -/
def State.dueFirst (s : State) (want : Pend → Bool) : Option Pend :=
  (s.inflight.takeWhile (fun a => decide (a.due ≤ s.clock.offset))).find? want

/-- The arrivals due in the present cycle that `want` names, in order, with those that they make due in it: at most `n`. -/
def State.arriveAll (want : Pend → Bool) : Nat → State → State
  | 0, s => s
  | n + 1, s =>
    match s.dueFirst want with
    | none => s
    | some a => State.arriveAll want n (({ s with inflight := s.inflight.erase a } : State).arrive a)

/-- What arrives in the present cycle but for the Ledger's port A, at most `n`. -/
def State.arriveDue (s : State) (n : Nat) : State := State.arriveAll (fun a => !a.isLedger) n s

/-- The writes of port A that are due in the present cycle, of the streams up to p: those that precede an access of p in the
sequence of the Ledger (R284). -/
def State.portA (s : State) (p : StreamId) : State :=
  State.arriveAll (fun a => a.isLedger && decide (a.stream ≤ p)) s.inflight.length s

/-- The sequence of the Ledger's port A to its end in the present cycle: each stream's writes, then its wait (R284). -/
def State.portAEnd (s : State) : State := allStreams.foldl (fun s p => (s.portA p).firstWait p) s

end Sys2Proof.Machine
end

