-- ==== Sys2Proof/Machine/Descriptor.lean ====
section
/-! DEFINITION. Tensor descriptors (R169 to R190): their fields, the memory region table, and the outcome of each stream
byte. -/

namespace Sys2Proof.Machine

/-- A dimension record (R173). -/
structure Dim where
  ext  : Nat
  bnd  : Nat
  org  : Int
  edge : Nat
  str  : Int
  deriving DecidableEq, Repr

/-- A descriptor (R172). -/
structure Desc where
  valid  : Bool
  ndim   : Nat
  esz    : Nat
  pw     : Nat
  plog   : Nat
  strm   : Nat
  region : Nat
  rpb    : Nat
  idxv   : Bool
  idim   : Nat
  grpv   : Bool
  gdim   : Nat
  glog   : Nat
  ownen  : Bool
  odim   : Nat
  olog   : Nat
  baseoff : Nat
  fill   : Nat
  ireg   : Nat
  ioff   : Nat
  oreg   : Nat
  ooff   : Nat
  ocnt   : Nat
  gstr   : Int
  dims   : List Dim
  deriving DecidableEq, Repr

/-- An entry of the memory region table (R170). -/
structure MemRegion where
  base    : Nat
  limit   : Nat
  valid   : Bool
  rd      : Bool
  wr      : Bool
  anyChip : Bool
  key     : BitVec 8
  deriving DecidableEq, Repr

/-- Dimension d of descriptor n (R173). -/
def Bank.dim (b : Bank) (n d : Nat) : Dim :=
  let a := 256 * n + 64 + 32 * d
  { ext := readLe b.descs a 4, bnd := readLe b.descs (a + 4) 4, org := signed 32 (readLe b.descs (a + 8) 4)
    edge := readLe b.descs (a + 12) 1 % 4, str := signed 64 (readLe b.descs (a + 16) 8) }

/-- Descriptor n (R172). -/
def Bank.desc (b : Bank) (n : Nat) : Desc :=
  let a := 256 * n
  let h := readLe b.descs a 8
  let o := readLe b.descs (a + 8) 8
  let i := readLe b.descs (a + 16) 8
  let w := readLe b.descs (a + 24) 8
  { valid := bitOf h 0, ndim := field h 1 3, esz := field h 4 3, pw := field h 7 3, plog := field h 10 3
    strm := field h 13 4, region := field h 17 12, rpb := field h 29 9 + 1, idxv := bitOf h 38, idim := field h 39 3
    grpv := bitOf h 42, gdim := field h 43 3, glog := field h 46 4, ownen := bitOf h 50, odim := field h 51 3
    olog := field h 54 4, baseoff := field o 0 52, fill := field o 52 8, ireg := field i 0 10, ioff := field i 10 26
    oreg := field w 0 10, ooff := field w 10 26, ocnt := field w 36 16 + 1, gstr := signed 64 (readLe b.descs (a + 32) 8)
    dims := (List.range (min 6 (field h 1 3))).map (b.dim n) }

/-- Memory region r (R170). -/
def Bank.memRegion (b : Bank) (r : Nat) : MemRegion :=
  let a := 32 * r
  let f := readLe b.memRegions (a + 16) 4
  { base := readLe b.memRegions a 8, limit := readLe b.memRegions (a + 8) 8, valid := bitOf f 0, rd := bitOf f 1
    wr := bitOf f 2, anyChip := bitOf f 3, key := BitVec.ofNat 8 (field f 8 8) }

/-- E of R174; 0 in plane layout. -/
def Desc.elem (d : Desc) : Nat := if d.esz < 4 then 2 ^ d.esz else 0

/-- PLB, GB and EPG of a plane layout (R172, R189). -/
def Desc.plb (d : Desc) : Nat := 64 * 2 ^ d.plog
def Desc.gb (d : Desc) : Nat := (d.pw + 1) * d.plb
def Desc.epg (d : Desc) : Nat := 8 * d.plb

/-- G, the grain (R174). -/
def Desc.grain (d : Desc) : Nat := if d.esz = 4 then d.gb else d.elem

/-- SLEN (R178). -/
def Desc.slen (d : Desc) : Nat :=
  match d.dims with
  | [] => 0
  | d0 :: ds => (if d.esz = 4 then d0.ext / d.epg * d.gb else d0.ext * d.elem) * ds.foldl (fun n x => n * x.ext) 1

/-- The outcome of a stream byte (R182). -/
inductive Place where
  | addr (pa : Nat) | fill | forbid (fad : Nat) | ownFail (blk : Int)
  deriving DecidableEq, Repr

/-- A stream byte's outcome with the Pool entries that it was read from: region, offset, bytes. -/
structure Located where
  place : Place
  used  : List (Nat × Nat × Nat)
  deriving DecidableEq, Repr

/-- Iteration indices, dimension 0 fastest (R178, R182). -/
def Desc.indices (d : Desc) (p : Nat) : List Nat × Nat :=
  match d.dims with
  | [] => ([], 0)
  | d0 :: ds =>
    let plane := d.esz = 4
    let q := if plane then p / d.gb else p / d.elem
    let b := if plane then p % d.gb else p % d.elem
    let n0 := if plane then d0.ext / d.epg else d0.ext
    let i0 := if plane then q % n0 * d.epg else q % n0
    let rest := ds.foldl (fun (a : List Nat × Nat) x => (a.1 ++ [a.2 % x.ext], a.2 / x.ext)) ([], q / n0)
    (i0 :: rest.1, b)

/-- Logical coordinate of dimension k, after its edge rule; none where the position is filled (R175, R182, R185). -/
def Desc.coord (d : Desc) (idx : Nat → Int) (idxen : Bool) (k i : Nat) (x : Dim) : Option Int :=
  let v := if idxen && k == d.idim then idx i else x.org + i
  let top : Int := if d.esz = 4 ∧ k = 0 then x.bnd - d.epg else x.bnd - 1
  if v < 0 ∨ top < v then
    if x.edge = 1 then some (if v < 0 then 0 else top) else if x.edge = 2 then none else some v
  else some v

/-- One address term of R182: the chip and the offset so far, or an outcome that ends the byte. -/
def Desc.term (d : Desc) (own : Nat → Nat) (k : Nat) (x : Dim) (v : Int) (a : Nat × Int) : Place ⊕ (Nat × Int) :=
  if d.esz = 4 ∧ k = 0 then .inr (a.1, a.2 + v / d.epg * d.gb)
  else if d.ownen ∧ k = d.odim then
    let blk := v / 2 ^ d.olog
    if blk < 0 ∨ (d.ocnt : Int) ≤ blk then .inl (.ownFail blk) else
    let ent := own blk.toNat
    if bitOf ent 12 then .inr (ent % 4096, a.2 + ent / 65536 * 512 + v % 2 ^ d.olog * x.str)
    else if x.edge = 2 then .inl .fill else .inl (.ownFail blk)
  else if d.grpv ∧ k = d.gdim then .inr (a.1, a.2 + v / 2 ^ d.glog * x.str + v % 2 ^ d.glog * d.gstr)
  else .inr (a.1, a.2 + v * x.str)

/-- The address terms in order. -/
def Desc.terms (d : Desc) (own : Nat → Nat) : Nat → List Dim → List Int → Nat × Int → Place ⊕ (Nat × Int)
  | k, x :: xs, v :: vs, a =>
    match d.term own k x v a with
    | .inl o => .inl o
    | .inr a' => d.terms own (k + 1) xs vs a'
  | _, _, _, a => .inr a

/-- `locate` of R182, with the entries that it reads. -/
def Desc.locate (d : Desc) (g : MemRegion) (idx : Nat → Int) (own : Nat → Nat) (p : Nat) (idxen write : Bool) : Located :=
  let (is, b) := d.indices p
  let ii := is.getD d.idim 0
  let cs := (List.range d.dims.length).map (fun k =>
    match d.dims[k]? with
    | some x => d.coord idx idxen k (is.getD k 0) x
    | none => none)
  let usedI := if idxen && decide (d.idim < d.dims.length) && (cs.take d.idim).all (·.isSome) then [(d.ireg, d.ioff + 4 * ii, 4)] else []
  if cs.any (·.isNone) then ⟨.fill, usedI⟩ else
  let vs : List Int := cs.map (·.getD 0)
  let blk : Int := vs.getD d.odim 0 / 2 ^ d.olog
  let used := usedI ++ (if d.ownen ∧ !(d.esz = 4 ∧ d.odim = 0) ∧ d.odim < d.dims.length ∧ 0 ≤ blk ∧ blk < d.ocnt then [(d.oreg, d.ooff + 8 * blk.toNat, 8)] else [])
  match d.terms own 0 d.dims vs (g.base / 2 ^ 52, (d.baseoff : Int) + b) with
  | .inl o => ⟨o, used⟩
  | .inr (chip, off) =>
    let fad := chip * 2 ^ 52 + (((g.base % 2 ^ 52 : Nat) : Int) + off) % 2 ^ 52
    if off < 0 ∨ (g.limit : Int) ≤ off ∨ (!write ∧ !g.rd) ∨ (write ∧ !g.wr) then ⟨.forbid fad.toNat, used⟩
    else ⟨.addr fad.toNat, used⟩

end Sys2Proof.Machine
end

