-- ==== Sys2Proof/Machine/Issue.lean ====
section
/-! DEFINITION. The issue of a stream instruction: the conditions of R95, R96, R107, R108, R114, R234, R250 and R271, the
allocation check of R97, and the advance of the program counter with the loop branches of R110. -/

namespace Sys2Proof.Machine

abbrev Out := Host.Outcome State Fault Refusal

/-! ## Readiness -/

/-- When something in flight makes a register of its stream readable. -/
def Pend.writesAt (a : Pend) (lanes : Nat) (r : BitVec 8) : Option Nat :=
  match a.act with
  | .tile r' _ _ => if r' = r then some a.due else none
  | .landing r' _ _ => if r' = r then some a.due else none
  | .slab op i _ _ _ lat _ _ _ => ((slabResults lanes op i).find? (fun d => d.1 == r)).map (fun d => a.due + lat - d.2)
  | .drain f c _ _ => if f.dst = r then some (a.due + (f.n.toNat / 256 - c) + 11) else none
  | .skim f _ c _ _ _ => if (slabDests lanes (.skim f) 0).contains r then some (a.due + (skimOcc f - 1 - c) + 41) else none
  | _ => none

/-- Every pending write of a register is readable by a cycle (R26, R95). -/
def State.writtenBy (s : State) (p : StreamId) (r : BitVec 8) (cycle : Nat) : Bool :=
  s.onItsWay.all (fun a => a.stream != p || match a.writesAt s.lanes r with | some d => decide (d ≤ cycle) | none => true)

/-- A source register is readable: a persistent register is read from its current copy, to which no write goes (R434). -/
def State.readable (s : State) (p : StreamId) (r : BitVec 8) (cycle : Nat) : Bool :=
  (s.image.bank.partner p r).isSome || s.writtenBy p r cycle

/-- The index tensor and the owner table that a Sluice instruction reads (R172, R176, R186): region, offset, length. -/
def State.sluiceTables (s : State) (f : SluiceF) : List (Nat × Nat × Nat) :=
  let d := s.image.bank.desc f.desc.toNat
  (if f.idxen && d.idxv then [(d.ireg, d.ioff, 4 * ((d.dims[d.idim]?).map (·.ext)).getD 0)] else [])
    ++ (if d.ownen then [(d.oreg, d.ooff, 8 * d.ocnt)] else [])

/-- The half that a write of a region goes to is the one that reads take: all but a frame pair's (R434). -/
def State.plainRegion (s : State) (r : Nat) : Bool := s.readHalf r == s.writeHalf r

/-- What a Sluice instruction still reads: its tables until its check pass, the source of a SCAT or BCST until its request pass has
ended (R186, R205). -/
def State.jobReads (s : State) (j : SluiceJob) (r o n : Nat) : Bool :=
  let meets := fun (t : Nat × Nat × Nat) => t.1 == r && rangesMeet o n t.2.1 t.2.2
  !j.recorded && !j.failed && decide (j.phase ≠ .formed) &&
    ((j.half == s.writeHalf r && (sluiceSource j.op).any meets)
      || (decide (j.phase = .issued) && s.plainRegion r && (s.sluiceTables j.f).any meets))

/-- Something of the stream still reads bytes of a range of the half that a write goes to (R108). -/
def State.poolReading (s : State) (p : StreamId) (r o n : Nat) : Bool :=
  (s.plainRegion r && s.inflight.any (fun a => a.stream == p && match a.act with
    | .sepr f _ _ _ _ => f.kreg.toNat == r && rangesMeet o n (32 * f.koff.toNat) (2 * seprN f)
    | .skim f addr _ _ _ _ => f.region.toNat == r && rangesMeet o n addr (fmtE f.fmt * skimM f)
    | _ => false))
  || (s.stream p).jobs.any (fun j => s.jobReads j r o n)

/-- The words of a region that an LDT, SEPR or SKIM reads at a cycle are readable. -/
def State.ownReadable (s : State) (p : StreamId) (r o n cycle : Nat) : Bool := s.poolReadable (some p) r o n cycle

/-- The byte range that all slabs of a transfer cover. -/
def xferSpan (f : XferF) (toReg : Bool) (lanes : Nat) (loop : Vector (BitVec 24) 4) : Nat × Nat :=
  let (a, _) := xferRange f toReg lanes loop 0
  let (b, m) := xferRange f toReg lanes loop f.rpt.toNat
  (a.toNat, (b + m - a).toNat)

/-! ## Cycles of an instruction -/

/-- Occupancy of the Basin (R250). -/
def basinOcc (n : BitVec 13) : Nat := ceilDiv (n.toNat + 1) 256

/-- An occupancy lies in the stream's windows: record byte `o` holds the mask (R233, R234, R249). -/
def State.inWindows (s : State) (p : StreamId) (o d : Nat) : Bool :=
  let m := s.recAt p o 8
  let t := s.clock.offset
  (List.range ((t + d - 1) / 32 + 1 - t / 32)).all (fun i => bitOf m (t / 32 + i))

/-- The latency of the last slab. -/
def State.lastLatency (s : State) (p : StreamId) (op : Op) : Nat := s.latency p op (opRpt op)

/-- The Pool bytes that an STT issued now writes, with the cycles from which they are seen (R113): nothing waits for those of a
frame pair, which go to the other copy (R434). -/
def State.sttStores (s : State) (p : StreamId) (f : XferF) : List Stored :=
  let t := s.clock.offset
  if !s.plainRegion f.region.toNat then [] else
  (List.range (f.rpt.toNat + 1)).flatMap (fun i => (xferRuns f false s.lanes (s.stream p).ctx.loop i).map (fun b =>
    { region := f.region.toNat, off := b.1, len := b.2, own := t + i + 1, others := t + i + s.latency p (.stt f) i }))

/-- The output area of a SEPR issued now; `slack` cycles later where its reads are (R113, R274). -/
def State.seprStores (s : State) (f : SeprF) (slack : Nat) : List Stored :=
  let fin := s.clock.offset + seprOcc f + 40 + slack
  if !s.plainRegion f.oreg.toNat then [] else
  [{ region := f.oreg.toNat, off := 32 * f.ooff.toNat, len := seprArea f, own := fin, others := fin }]

/-- The Pool words that a Sluice instruction reads are readable: its tables by the stream's own forwarding (R186), a source as other
agents see it (R125, R205, R273). -/
def State.sluiceReadable (s : State) (p : StreamId) (op : Op) (f : SluiceF) : Bool :=
  let t := s.clock.offset
  (s.sluiceTables f).all (fun w => s.poolReadable (some p) w.1 w.2.1 w.2.2 t)
    && (sluiceSource op).all (fun w => s.poolReadable none w.1 w.2.1 w.2.2 t)

/-- The units that an instruction uses are free, and the Pool words that it reads are readable (R95, R113, R122, R234, R250, R271).
A SEPR or SKIM waits for the end of an LDT's or the other unit's reads too, since the set's port serves one read in a cycle
(DESIGN CHOICE, log entry 55: R271 states the wait of an LDT alone). An STT over bytes that an earlier SEPR's pending output writes waits
until that is readable, as R108 has two writes of a tile register (DESIGN CHOICE, log entry 83: R95, R108 and R272 state no such wait for
the Pool). A second MODE 1 PERM issues in the very cycle in which the first ends or is refused, once that end's command has run in it; the
issue model lets it issue in the next one (DESIGN CHOICE, log entry 84: R166 says only after). -/
def State.unitFree (s : State) (p : StreamId) (op : Op) : Bool :=
  let x := s.stream p
  let t := s.clock.offset
  match op with
  | .perm f =>
    if f.mode then (match x.setter.job with
      | none => true
      | some j => decide (j.phase = .discard ∧ j.issued + 4 ≤ t))
    else decide (x.cascadeEnd ≤ t)
  | .pbpc _ => decide (x.cascadeEnd ≤ t)
  | .ldt f =>
    decide (x.poolEnd ≤ t ∧ x.poolReadEnd ≤ t) && (List.range (f.rpt.toNat + 1)).all (fun i =>
      (xferRuns f true s.lanes x.ctx.loop i).all (fun b => s.ownReadable p f.region.toNat b.1 b.2 (t + i)))
  | .stt f =>
    let (o, n) := xferSpan f false s.lanes x.ctx.loop
    decide (x.poolEnd ≤ t) && !s.poolReading p f.region.toNat o n && s.ownReadable p f.region.toNat o n t
  | .conv _ => decide (x.formatEnd ≤ t)
  | .pack _ => decide (x.formatEnd ≤ t)
  | .unpk _ => decide (x.formatEnd ≤ t)
  | .sepr f =>
    let o := 32 * f.koff.toNat
    let n := 2 * seprN f
    decide (x.sepEnd ≤ t ∧ x.poolReadEnd ≤ t) && s.inWindows p 40 (seprOcc f) && s.ownReadable p f.kreg.toNat o n t
      && !s.poolReading p f.oreg.toNat (32 * f.ooff.toNat) (seprArea f)
  | .skim f =>
    let o := ((f.off.toNat : Int) + f.stride.toInt * loopIndex x.ctx.loop f.ilvl f.idxen).toNat * 32
    let n := fmtE f.fmt * skimM f
    decide (x.skimEnd ≤ t ∧ x.poolReadEnd ≤ t) && s.inWindows p 48 (skimOcc f) && s.ownReadable p f.region.toNat o n t
  | .skp f => decide (x.basinEnd ≤ t ∧ x.basinReady ≤ t) && s.inWindows p 56 (basinOcc f.n)
  | .comb f => decide (x.basinEnd ≤ t ∧ x.basinReady ≤ t) && s.inWindows p 56 (basinOcc f.n)
  | .drain f => decide (x.basinEnd ≤ t ∧ x.basinReady ≤ t) && s.inWindows p 56 (basinOcc f.n)
  | .gath f => s.sluiceReadable p op f
  | .scat f => s.sluiceReadable p op f
  | .bcst f => s.sluiceReadable p op f
  | _ => true

/-! ## Waits -/

/-- The sequencer comes to the instruction at its PC (R135, R139): the cycle is kept, and a TWAIT's or CRECV's deadline
is fixed from the frame's stamp. -/
def State.come (s : State) (p : StreamId) : State :=
  let x := s.stream p
  if x.ctx.state ≠ .running ∨ !issuing s.unit.state ∨ x.reached.isSome ∨ s.clock.offset < x.next ∨ x.pastEnd then s else
  let deadline := fun (dl : BitVec 32) => if dl = 0xFFFFFFFF then BitVec.allOnes 64 else s.clock.stamp + dl.setWidth 64
  let at_ := some (s.clock.ticks, s.clock.offset)
  match decodeWord (s.wordAt p) with
  | some (_, .fwait _) => s.modStream p (fun x => { x with reached := at_ })
  | some (_, .twait f) => s.modStream p (fun x => { x with reached := at_, waitDl := some (deadline f.dl), waitOk := none })
  | some (_, .crecv f) => s.modStream p (fun x => { x with reached := at_, waitDl := some (deadline f.dl), waitOk := none })
  | _ => s

/-- The sequencer reaches the instruction, and its wait is evaluated (R80, R284). -/
def State.reach (s : State) (p : StreamId) : State := (s.come p).firstWait p

/-- FWAIT may issue, and whether it is late (R139). -/
def State.fwaitReady (s : State) (p : StreamId) (f : FwaitF) : Bool :=
  match (s.stream p).reached with
  | none => false
  | some (tk, o) =>
    if f.nxt then decide (tk < s.clock.ticks) && (decide (f.offset.toNat ≤ s.clock.offset) || decide (tk + 1 < s.clock.ticks))
    else decide (tk < s.clock.ticks ∨ f.offset.toNat < o ∨ f.offset.toNat ≤ s.clock.offset)
def State.fwaitLate (s : State) (p : StreamId) (f : FwaitF) : Bool :=
  !f.nxt && match (s.stream p).reached with | none => false | some (_, o) => decide (f.offset.toNat < o)

/-- The effect that the next number names has been performed in an earlier attempt (R64, R117). -/
def State.done? (s : State) (p : StreamId) : Option Effect := (s.stream p).performed (s.stream p).ctx.effseq

/-- A Pool write of the stream is not yet in the banks (R142, R272). -/
def State.poolPending (s : State) (p : StreamId) : Bool :=
  s.pool.wbuf.any (fun e => e.owner == p && !e.cells.isEmpty) ||
  s.inflight.any (fun a => a.stream == p && match a.act with
    | .slab (.stt _) _ _ _ _ _ _ _ _ => true
    | .sepr _ _ _ _ _ => true
    | .output _ _ _ _ _ => true
    | _ => false)

/-- Write requests without a response of the SCATs and BCSTs that the stream has issued so far: queued, outstanding, or not yet formed;
in a replay those of later ones do not count (R142, R207). -/
def State.writesPending (s : State) (p : StreamId) : Bool :=
  let x := s.stream p
  x.jobs.any (fun j => !j.failed && !j.recorded && decide (j.phase ≠ .formed) && match j.op with | .gath _ => false | _ => true)
  || s.ports.toList.any (fun q => q.wbuf.any (fun e => e.stream == p && !e.answered && decide (e.order < x.order)))

/-- The condition that an instruction waits on (R95, R135, R139, R142). -/
def State.waitDone (s : State) (p : StreamId) (op : Op) : Bool :=
  match op with
  | .fwait f => s.fwaitReady p f
  | .twait _ => (s.stream p).waitOk == some true
  | .crecv _ => (s.done? p).isSome || (s.stream p).waitOk == some true
  | .lfen sc => !(sc.getLsbD 0 && s.poolPending p) && !(sc.getLsbD 1 && s.ledgerPending p) && !(sc.getLsbD 2 && s.writesPending p)
  | _ => true

/-- The sequencer may issue in this cycle (R90, R95, R96). -/
def State.sequencerFree (s : State) (p : StreamId) : Bool :=
  let x := s.stream p
  issuing s.unit.state && decide (x.ctx.state = .running) && decide (s.clock.offset ≤ 1983) && decide (x.next ≤ s.clock.offset)
    && !x.pastEnd && !x.stuck && s.settings.reform.isNone

/-- The instruction that a stream's sequencer may still issue in this cycle. -/
def State.yetToIssue (s : State) (p : StreamId) : Option Op :=
  if s.sequencerFree p then (decodeWord (s.wordAt p)).map (·.2) else none

/-- A stream may still take a message at port A in this cycle, or end a wait (R284). -/
def State.portAOpen (s : State) : Bool :=
  allStreams.any (fun p => match s.yetToIssue p with
    | some (.crecv _) | some (.twait _) => true
    | _ => false)

/-- The cycle's issues are over. -/
def State.closeIssue (s : State) : State :=
  s.mapStreams (fun p x => if (s.yetToIssue p).isSome then { x with next := s.clock.offset + 1 } else x)

/-- The operands of every slab are readable in their cycles, and no result overtakes an earlier write (R95, R107, R108). -/
def State.operandsReady (s : State) (p : StreamId) (op : Op) : Bool :=
  let t := s.clock.offset
  (List.range (opRpt op + 1)).all (fun i => (slabSources op i).all (fun r => s.readable p r (t + i)) &&
    (slabDests s.lanes op i).all (fun r => s.writtenBy p r (t + s.latency p op i + i - 1)))

/-- The instruction at the PC is this one, and it issues in this cycle (R95). -/
def State.mayIssue (s : State) (p : StreamId) (e : LoopEnd) (op : Op) : Bool :=
  s.sequencerFree p && (decodeWord (s.wordAt p) == some (e, op)) && s.operandsReady p op && s.unitFree p op && s.waitDone p op

/-- The Pool read that an instruction makes in its issue cycle: the region, and runs of offset and length (R271). -/
def State.firstRead (s : State) (p : StreamId) (op : Op) : Option (Nat × List (Nat × Nat)) :=
  let loop := (s.stream p).ctx.loop
  match op with
  | .ldt f => some (f.region.toNat, xferRuns f true s.lanes loop 0)
  | .sepr f => some (f.kreg.toNat, [(32 * f.koff.toNat, min 512 (2 * seprN f))])
  | .skim f =>
    let a := 32 * ((f.off.toNat : Int) + f.stride.toInt * loopIndex loop f.ilvl f.idxen).toNat
    some (f.region.toNat, [(a, min (512 * fmtE f.fmt) (fmtE f.fmt * skimM f))])
  | _ => none

/-- The banks that the set's own stream may yet read in this cycle: those of the instruction that it can issue (R271). -/
def State.nextReads (s : State) (set : StreamId) : List Nat :=
  match decodeWord (s.wordAt set) with
  | some (e, op) => if !s.mayIssue set e op then [] else
    (s.firstRead set op).elim [] (fun r => s.poolBanks set r.1 (s.readHalf r.1) r.2)
  | none => []

/-! ## Allocation (R97) -/

/-- The lowest register of a run outside the mask. -/
def State.regsOut (s : State) (p : StreamId) (r : BitVec 8) (n : Nat) : Option Nat :=
  ((List.range n).map (· + r.toNat)).find? (fun i => !s.hasReg p i)

/-- The resource that PROT names: the operand field of lowest bit position, the lowest number of its run (R97). -/
def State.foreign (s : State) (p : StreamId) (op : Op) : Option Nat :=
  let reg := s.regsOut p
  let region := fun (r : BitVec 10) => if s.hasRegion p r.toNat then none else some r.toNat
  let ep := fun (e : BitVec 12) => if s.hasEndpoint p e.toNat then none else some e.toNat
  let tally := fun (t : BitVec 14) (n : Nat) => ((List.range n).map (· + t.toNat)).find? (fun i => !s.hasTally p i)
  let first := fun (l : List (Option Nat)) => l.findSome? id
  match op with
  | .perm f =>
    let slot := if s.hasSlot p f.slot.toNat then none else some f.slot.toNat
    if f.mode then first [reg f.src 2, slot] else first [reg f.dst (f.rpt.toNat + 1), reg f.src (f.rpt.toNat + 1), slot]
  | .pbpc f => first [reg f.dst (f.rpt.toNat + 1), reg f.src (f.rpt.toNat + 1)]
  | .ldt f => first [reg f.reg (f.rpt.toNat + 1), region f.region]
  | .stt f => first [reg f.reg (f.rpt.toNat + 1), region f.region]
  | .gath f => first [if s.hasDesc p f.desc.toNat then none else some f.desc.toNat, region f.region]
  | .scat f => first [if s.hasDesc p f.desc.toNat then none else some f.desc.toNat, region f.region]
  | .bcst f => first [if s.hasDesc p f.desc.toNat then none else some f.desc.toNat, region f.region]
  | .conv f => first [reg f.dst (f.rpt.toNat + 1), reg f.src (f.rpt.toNat + 1),
      if mxCode f.cvt then reg f.aux (f.rpt.toNat + 1) else none]
  | .pack f => first [reg f.dst (f.rpt.toNat + 1), reg f.src (f.rpt.toNat + 1)]
  | .unpk f => first [reg f.dst (f.rpt.toNat + 1), reg f.src (f.rpt.toNat + 1)]
  | .sepr f => first [region f.kreg, region f.oreg]
  | .skim f => first [reg f.dst (skimRegs s.lanes), region f.region]
  | .skp f => first [reg f.src 1, reg f.gate 2, reg f.widx 2]
  | .comb f => first [reg f.src 1, reg f.gate 2, reg f.widx 2]
  | .drain f => reg f.dst 1
  | .tsig f => tally f.tally (f.cnt.toNat + 1)
  | .tadd f => tally f.tally 1
  | .csend f => first [ep f.ep, reg f.src 1]
  | .crecv f => first [ep f.ep, reg f.dst 1, if f.sen then reg f.sreg 1 else none]
  | .copen f => ep f.ep
  | .cclos e => ep e
  | .alarm f => first [if s.hasTimer p f.timer.toNat then none else some f.timer.toNat, tally f.tally 1]
  | .chk f => first [reg f.a 1, if f.mode = 0 then reg f.b 1 else none]
  | _ => none

/-! ## Issue and advance -/

/-- PC of a stream. -/
def State.pc (s : State) (p : StreamId) : BitVec 13 := (s.stream p).ctx.pc

/-- One loop counter changed. -/
def setLoop (l : Vector (BitVec 24) 4) (i : BitVec 2) (v : BitVec 24) : Vector (BitVec 24) 4 :=
  l.set i.toNat v (by have := i.isLt; omega)

/-- The PC after an instruction that does not branch, and whether it passed index 8,191 (R112). -/
def Ctx.follow (c : Ctx) : Ctx × Bool := if c.pc = 8191 then (c, true) else ({ c with pc := c.pc + 1 }, false)

/-- The next PC: the loop decision of R110 where LEND is 1. A loop count of 0 at a LEND, which R110 does not decide, is taken as 1 is
(DESIGN CHOICE, log entry 68). -/
def Ctx.step (c : Ctx) (e : LoopEnd) : Ctx × Bool :=
  if !e.lend then c.follow else
  let i : Nat := e.lvl.toNat
  let n := c.loop[i]'(by have := e.lvl.isLt; omega)
  let start := c.lstart[i]'(by have := e.lvl.isLt; omega)
  if n = 0xFFFFFF then ({ c with pc := start }, false)
  else if 1 < n then ({ c with pc := start, loop := setLoop c.loop e.lvl (n - 1) }, false)
  else Ctx.follow { c with loop := setLoop c.loop e.lvl 0 }

/-- The sequencer goes on to the next instruction, unless the stream completed (R92, R110). -/
def State.advance (s : State) (p : StreamId) (e : LoopEnd) : State :=
  if (s.stream p).ctx.state ≠ .running then s else
  s.modStream p (fun x => let (c, past) := x.ctx.step e; { x with ctx := c, pastEnd := past })

/-! ## Uncorrectable words of the internal image copies (R345) -/

/-- MODEL: the coded words of the internal image copies have these numbers: program buffers two words for each entry, the
descriptors, the memory regions, the Pool regions, the seeds, and the entries of a stream's schedule, two in a word (R315, R317). -/
def programWord (i : Nat) : Nat := 2 * i
def descWord (n : Nat) : Nat := 262144 + 32 * n
def memRegionWord (n : Nat) : Nat := 393216 + 4 * n
def poolRegionWord (n : Nat) : Nat := 409600 + 2 * n
def seedWord (i : Nat) : Nat := 411648 + i
def scheduleWord (p : StreamId) (entry : Nat) : Nat := 415744 + 2048 * p.toNat + entry / 2

/-- Words that the fetch at the PC reads. -/
def State.fetchWords (s : State) (p : StreamId) : List Nat :=
  let i := programWord (p.toNat * 8192 + (s.stream p).ctx.pc.toNat)
  [i, i + 1]

/-- Words of the tables that an instruction names. -/
def State.tableWords (s : State) (p : StreamId) (op : Op) : List Nat :=
  let region := fun (r : BitVec 10) => [poolRegionWord r.toNat, poolRegionWord r.toNat + 1]
  let sluice := fun (f : SluiceF) =>
    let m := field (readLe s.image.bank.descs (256 * f.desc.toNat) 8) 17 12
    (List.range 32).map (· + descWord f.desc.toNat) ++ (List.range 4).map (· + memRegionWord m) ++ region f.region
      ++ (s.sluiceTables f).flatMap (fun t => [poolRegionWord t.1, poolRegionWord t.1 + 1])
  match op with
  | .ldt f => region f.region
  | .stt f => region f.region
  | .gath f => sluice f
  | .scat f => sluice f
  | .bcst f => sluice f
  | .conv f => if f.rnd = 1 then [seedWord (p.toNat * 256 + f.seedsel.toNat)] else []
  | .sepr f => region f.kreg ++ region f.oreg
  | .skim f => region f.region
  | _ => []

/-- A read of words of the internal image copies meets an uncorrectable one. -/
def State.copyBad (s : State) (ws : List Nat) : Bool :=
  !s.eccBad.isEmpty && ws.any (s.uncorrectable .imageCopies)

/-- The stream issues nothing further in the frame, and Recovery follows with cause IMAGE_COPY (R345, R351). -/
def State.copyFault (s : State) (p : StreamId) : State :=
  { (s.modStream p (fun x => { x with stuck := true })) with
    unit := { s.unit with causes := s.unit.causes ||| causeImageCopy, copyBad := true } }

/-- What every issue does: the step of the tick is closed, and the sequencer issues nothing more in this cycle. -/
def State.accept (s : State) (p : StreamId) : State :=
  (({ s with unit := { s.unit with window := false } } : State).modStream p (fun x =>
    { x with next := s.clock.offset + 1, reached := none, waitDl := none, waitOk := none })).event 0x02 p.toNat 1

/-- The instructions whose every issue takes an effect number (R117). -/
def numbered : Op → Bool
  | .gath _ | .scat _ | .bcst _ | .tsig _ | .tadd _ | .csend _ | .crecv _ | .copen _ | .cclos _ | .alarm _ => true
  | _ => false

/-- The state in which an instruction that issues now has its effect: it is accepted, and the internal image copies that it is read
from are corrected on the way (R346). -/
def State.issued (s : State) (p : StreamId) (op : Op) : State :=
  let t := s.reach p
  (t.accept p).readCorrect .imageCopies (t.fetchWords p ++ t.tableWords p op)

/-- A stream instruction: if it issues in this cycle, PROT for a resource that the stream does not hold (R97), or its
effect; otherwise the sequencer waits. -/
def State.issue (s : State) (p : StreamId) (e : LoopEnd) (op : Op) (effect : State → State) : State :=
  let s0 := s.reach p
  if s0.sequencerFree p && s0.copyBad (s0.fetchWords p) then s0.copyFault p
  else if s0.mayIssue p e op then
    if s0.copyBad (s0.tableWords p op) then s0.copyFault p else
    let s1 := s.issued p op
    match s1.foreign p op with
    | some n => (if numbered op then s1.takeEffect p else s1).raise p faultPROT n 2 (s1.pc p)
    | none => (effect s1).advance p e
  else s0

/-! ## Slabs -/

/-- The local lanes of a register that slab i writes: the first and how many. -/
def slabLanes (lanes : Nat) (op : Op) (i : Nat) (r : BitVec 8) : Nat × Nat :=
  match op with
  | .conv f =>
    let n := lanes / max (fmtBytes (cvtSrc f.cvt)) (fmtBytes (cvtDst f.cvt))
    if mxQuant f.cvt ∧ r ≠ regAdd f.dst i ∧ r ≠ regAdd f.dst (i - 1) then (0, ceilDiv n 32) else (0, n * fmtBytes (cvtDst f.cvt))
  | .pack f => (blockLane f lanes, (f.w.toNat + 1) * (lanes / 8))
  | .ldt f => (0, xferCount f true lanes * (xferSizes f true).1)
  | .skim _ => (0, min lanes 512)
  | .drain f => (0, (f.n.toNat + 1) * fmtE f.fmt)
  | _ => (0, lanes)

/-- The results that slab i of an instruction will have brought by a cycle, its own cycle being `due`: their bytes count as written. -/
def State.slabReached (s : State) (p : StreamId) (op : Op) (i due lat cycle : Nat) : State :=
  (slabResults s.lanes op i).foldl (fun s d =>
    if due + lat - d.2 ≤ cycle then
      let (m, n) := slabLanes s.lanes op i d.1
      s.writeTile p d.1 (lanesFrom m (List.replicate n 0)) none
    else s) s

/-- What is on its way reaches its register by a cycle. -/
def State.reached (s : State) (a : Pend) (cycle : Nat) : State :=
  match a.act with
  | .tile r cells _ => if a.due ≤ cycle then s.writeTile a.stream r cells none else s
  | .landing r cells _ => if a.due ≤ cycle then s.writeTile a.stream r cells none else s
  | .slab op i _ _ _ lat _ _ _ => s.slabReached a.stream op i a.due lat cycle
  | .drain f c _ _ => s.slabReached a.stream (.drain f) 0 (a.due + (f.n.toNat / 256 - c)) 11 cycle
  | .skim f _ c _ _ _ => s.slabReached a.stream (.skim f) 0 (a.due + (skimOcc f - 1 - c)) 41 cycle
  | _ => s

/-- A latch holds the source of a Cascade pass issued now, so that no register is read (R109). -/
def State.latchHolds (s : State) (p : StreamId) (op : Op) (r : BitVec 8) : Bool :=
  latched op && (s.stream p).latches.contains r && !((List.range (opRpt op + 1)).flatMap (slabDests s.lanes op)).contains r

/-- What the tile registers will hold by a cycle: what is on its way and what the landing table brings has reached them. -/
def State.registersBy (s : State) (cycle : Nat) : State :=
  let t := s.onItsWay.foldl (fun t a => t.reached a cycle) s
  (s.image.bank.landings.filter (fun e => decide (s.clock.offset ≤ e.offset ∧ e.offset + 4 ≤ cycle))).foldl (fun t e =>
    t.writeTile e.stream e.reg (lanesFrom 0 (List.replicate s.lanes 0)) none) t

/-- Slabs whose reads are judged in the issue cycle: the first, and every slab of an STT, whose earlier slabs write the Pool, by what will
stand in the registers in its cycle. Each other slab is judged as it reads (R115; DEDUCED, log entry 79). -/
def judgedSlabs (op : Op) : Nat := match op with | .stt f => f.rpt.toNat + 1 | _ => 1

/-- The first of the slabs judged at the issue that reads an uncorrectable register, and the register (R109, R115, R345). -/
def State.slabBad (s : State) (p : StreamId) (op : Op) : Option (Nat × Nat) :=
  if s.eccBad.isEmpty then none else
  ((List.range (judgedSlabs op)).flatMap (fun i =>
    let t := s.registersBy (s.clock.offset + i)
    (slabSources op i).filterMap (fun r => if t.tileBad p r && !s.latchHolds p op r then some (i, r.toNat) else none))).head?

/-- A fault in the cycle of slab i: in the issue cycle at once, later at its cycle (R92). -/
def State.faultAt (s : State) (p : StreamId) (i : Nat) (code : BitVec 8) (faddr : Nat) (cause : BitVec 3) : State :=
  if i = 0 then s.raise p code faddr cause (s.pc p)
  else s.later p i (.fault code (BitVec.ofNat 64 faddr) cause (s.pc p))

/-- Writes of a register that something in flight brings. -/
def Pend.writes (a : Pend) (lanes : Nat) (r : BitVec 8) : Nat :=
  match a.act with
  | .tile r' _ _ => if r' = r then 1 else 0
  | .landing r' _ _ => if r' = r then 1 else 0
  | .slab op i _ _ _ _ _ _ _ => (slabWrites lanes op i).count r
  | .drain f _ _ _ => if f.dst = r then 1 else 0
  | .skim f _ _ _ _ _ => (slabDests lanes (.skim f) 0).count r
  | _ => 0

/-- The registers that slab i of an instruction issued now reads and that writes before it in program order have yet to reach
(R108): those in flight, and those of its own slabs that are readable by its cycle. -/
def State.earlyWrites (s : State) (p : StreamId) (op : Op) (i : Nat) : List (BitVec 8) :=
  ((slabReads s.lanes op i).eraseDups).flatMap (fun r =>
    List.replicate (((s.onItsWay.filter (fun a => a.stream == p)).map (fun a => a.writes s.lanes r)).sum
      + ((List.range i).filter (fun j => decide (j + s.latency p op j ≤ i) && (slabWrites s.lanes op j).contains r)).length) r)

/-- The slabs of an instruction begin: slab 0 in the issue cycle, slab i in cycle t + i (R107). -/
def State.startSlabs (s : State) (p : StreamId) (op : Op) : State :=
  let c := (s.stream p).ctx
  let lat := s.latency p op
  let frame := s.clock.frame
  let s1 := ((List.range (opRpt op + 1)).flatMap (slabDests s.lanes op)).foldl (fun s r => s.dropLatch p r) s
  let s2 := s1.slab p op 0 c.pc c.loop frame (lat 0) []
  (List.range (opRpt op)).foldl (fun t i =>
    t.later p (i + 1) (.slab op (i + 1) c.pc c.loop frame (lat (i + 1)) (s.earlyWrites p op (i + 1)) [] [])) s2

/-- Effect of an instruction over slabs: ECC_UNCORR of a source in the cycle of its read, and then no slab has an
effect (R92, R115); otherwise its slabs begin. -/
def State.runSlabs (s : State) (p : StreamId) (op : Op) : State :=
  match s.slabBad p op with
  | some (i, r) => s.faultAt p i faultECC r 0
  | none => s.startSlabs p op

end Sys2Proof.Machine
end

