-- ==== Sys2Proof/Machine/Engines.lean ====
section
/-! DEFINITION. The Setter's intake and computation (R162 to R168) and the completion collector (R54, R94). -/

namespace Sys2Proof.Machine

/-! ## The Setter -/

/-- The start of the stream's first slice at or after an offset (R101, R166). -/
def sliceFrom (k p o : Nat) : Nat :=
  let i := ceilDiv o 128
  128 * (i + (p + 16 * k - i % k) % k)

/-- Slice cycles of a stream from one of its slices' start to the end of its last slice in the frame. -/
def sliceCycles (k o : Nat) : Nat := ceilDiv (2048 - o) (128 * k) * 128

/-- The cycle in which the t-th slice cycle from a slice start passes (R166). -/
def sliceEnd (k o t : Nat) : Nat := o + (t - 1) / 128 * (128 * k) + (t - 1) % 128

/-- Intake cycles of a vector (R162). -/
def intakeCycles (lanes : Nat) : Nat := ceilDiv lanes 2048

/-- The computation of an accepted vector begins in this frame or is deferred (R166). -/
def State.place (s : State) (p : StreamId) (j : SetterJob) : SetterJob :=
  let c0 := sliceFrom s.parts p.toNat (j.issued + 4 + intakeCycles s.lanes)
  let t := setterTime s.laneBits
  if t ≤ sliceCycles s.parts c0 ∧ c0 < 2048 then { j with phase := .computing, begins := c0, ends := sliceEnd s.parts c0 t }
  else { j with phase := .deferred }

/-- A deferred computation begins with the stream's first slice of the frame that opens (R166). -/
def State.beginDeferred (s : State) (p : StreamId) (j : SetterJob) : SetterJob :=
  let c0 := 128 * p.toNat
  { j with phase := .computing, begins := c0, ends := sliceEnd s.parts c0 (setterTime s.laneBits) }

/-- The Setter's job of a stream changed. -/
def State.setJob (s : State) (p : StreamId) (j : Option SetterJob) : State :=
  s.modStream p (fun x => { x with setter := { x.setter with job := j } })

/-- A HALT or fault of this very cycle gives way to NOTPERM: the stream has not completed before the cycle (R162). That NOTPERM goes before
another fault of its cycle is the model's choice (DESIGN CHOICE, log entry 77). -/
def State.unhalt (s : State) (p : StreamId) : State :=
  match (s.stream p).done with
  | some c =>
    if c.stopped ∨ !((s.stream p).ctx.state = .halted ∨ (s.stream p).ctx.state = .faulted) ∨ c.frame ≠ s.clock.frame ∨ c.offset ≠ s.clock.offset then s else
    { (s.modStream p (fun x => { x with done := none, ctx := { x.ctx with state := .running } })) with
      collector := s.collector.filter (fun e => e != (p, c)) }
  | none => s

/-- The Setter refuses a vector in the cycle that finds lane m (R162). -/
def State.setterRefuse (s : State) (p : StreamId) (j : SetterJob) (m : Nat) : State :=
  let s1 := (s.setJob p none).unhalt p
  if (s1.stream p).ctx.state = .running then s1.raise p faultNOTPERM m 0 j.pc
  else s1.modStream p (fun x => { x with stat := { x.stat with setRef := x.stat.setRef + 1 } })

/-- SETTER_INTAKE: the check of the vector, decided in the intake cycle of the offending lane or in the last one (R162);
a vector from a poisoned register is discarded in cycle t + 4 (R61). PSI_SETDEFERCNT counts a deferral as the intake ends, so that the
replay of a frame that is rolled back counts it again (DESIGN CHOICE, log entry 84: R166 names no cycle). -/
def execSetterIntake (p : StreamId) (s : State) : Out :=
  match (s.stream p).setter.job with
  | none => .next s
  | some j =>
    let now := s.clock.offset
    if !framesRun s.unit.state then .next s
    else if j.phase = .discard then (if j.issued + 4 ≤ now then .next (s.setJob p none) else .next s)
    else if j.phase ≠ .taken then .next s else
    match offendingLane s.lanes j.dst with
    | some m => if j.issued + 4 + m / 2048 ≤ now then .next (s.setterRefuse p j m) else .next s
    | none =>
      if now + 1 < j.issued + 4 + intakeCycles s.lanes then .next s else
      let j1 := s.place p j
      let s1 := s.setJob p (some j1)
      .next (if j1.phase = .deferred then s1.count .setDefer 1 else s1)

/-- The Setter works for a stream in a cycle: frames run (R352), and the cycle lies in one of the stream's slices and in its computation
(R101, R166). -/
def State.setterWorks (s : State) (p : StreamId) (offset : Nat) : Bool :=
  match (s.stream p).setter.job with
  | some j => framesRun s.unit.state && decide (j.phase = .computing ∧ j.begins ≤ offset ∧ offset ≤ j.ends) && offset / 128 % s.parts == p.toNat
  | none => false

/-- SETTER_COMPUTATION_END, which counts its last cycle (R397): the result waits for the commit of the frame (R166, R167). -/
def execSetterComputationEnd (p : StreamId) (s : State) : Out :=
  match (s.stream p).setter.job with
  | some j =>
    if framesRun s.unit.state ∧ j.phase = .computing ∧ j.ends ≤ s.clock.offset then
      let s1 := if s.setterWorks p s.clock.offset then s.event 0x05 p.toNat 1 else s
      .next (s1.modStream p (fun x => { x with setter := { x.setter with job := none, results := x.setter.results ++ [j] } }))
    else .next s
  | none => .next s

/-- The bytes of a result in the form of the SXPOS in force (R163, R164). -/
def State.resultBytes (s : State) (j : SetterJob) : List Byte :=
  settingBytes s.laneBits (setter s.laneBits j.dst) (localStage s.storeForm s.cut)

/-- Results in order of computation end, over all streams; streams in order where two end together. -/
def resultInsert : List SetterJob → SetterJob → List SetterJob
  | [], j => [j]
  | k :: l, j => if j.ends < k.ends then j :: k :: l else k :: resultInsert l j

/-- The commit writes every result in order of computation end, then invalidates the targets of computations deferred from
the committing frame (R166, R167), in Limp too, where frames commit (R301; that the commit engine's disconnection from the matrix, R300,
does not stop it is DEDUCED, log entry 52). -/
def State.commitSetter (s : State) : State :=
  let rs := allStreams.foldl (fun l p => (s.stream p).setter.results.foldl resultInsert l) []
  let s1 := rs.foldl (fun s j => s.putSetting (subSlot j.slot j.sub) (s.resultBytes j)) s
  let gone := allStreams.filterMap (fun p => match (s.stream p).setter.job with
    | some j => if j.phase = .deferred then some (subSlot j.slot j.sub) else none
    | none => none)
  let s2 := gone.foldl (fun s n => s.dropSetting n) s1
  allStreams.foldl (fun s p => s.modStream p (fun x => { x with setter := { x.setter with
    results := []
    job := x.setter.job.map (fun j => if j.phase = .deferred then s.beginDeferred p j else j) } })) s2

/-! ## The completion collector -/

/-- The completion status word (R94). -/
def completionWord (c : Completion) : Nat :=
  c.frame.toNat + 2 ^ 48 * (c.offset % 2048) + (if c.faulted then 2 ^ 59 else 0) + 2 ^ 60 * c.attempt.toNat
    + (if c.stopped then 2 ^ 62 else 0)

/-- The collector's turn in the Ledger's sequence (R284): the oldest queued word is written, one in each cycle from the cycle after
its completion on (R54, R94). -/
def State.collect (s : State) : State :=
  match s.collector with
  | [] => s
  | (p, c) :: rest =>
    if s.unit.state = .frozen ∨ s.clock.cycles < s.collectAt ∨ (c.frame = s.clock.frame ∧ c.attempt = s.unit.attempt ∧ s.clock.offset ≤ c.offset) then s else
    let s1 := ({ s with collector := rest, collectAt := s.clock.cycles + 1 } : State).ledgerPut (s.recAt p 64 8)
      (leBytes 8 (completionWord c))
    s1.evalWaits

end Sys2Proof.Machine
end

