-- ==== Sys2Proof/Machine/Hash.lean ====
section
/-! DEFINITION. The two digests that the spec names and does not define (PRESUMED, log entry 9): SHA-384 of FIPS 180-4, for
images, overlays, bundles and reports (R313, R320, R367), and CRC-32C, for records and copies (R310, R331). -/

namespace Sys2Proof.Machine

/-! ## Constants of SHA-384, by their definition -/

/-- The largest x below 2^(i + 1) with x^k at most `v`, found bit by bit from bit i down; `x` is what stands so far. -/
def rootFrom (k v : Nat) : Nat → Nat → Nat
  | 0, x => if (x + 1) ^ k ≤ v then x + 1 else x
  | i + 1, x => rootFrom k v i (if (x + 2 ^ (i + 1)) ^ k ≤ v then x + 2 ^ (i + 1) else x)

/-- The first 64 bits of the fractional part of the k-th root of n. -/
def rootFraction (k n : Nat) : BitVec 64 := BitVec.ofNat 64 (rootFrom k (n * 2 ^ (64 * k)) 68 0)

/-- The primes below 410: the first eighty. -/
def smallPrimes : List Nat := (List.range 410).filter (fun n => decide (2 ≤ n) && (List.range n).all (fun d => decide (d < 2) || n % d != 0))

/-- One constant for each round: from the cube roots of the first eighty primes. -/
def roundWords : List (BitVec 64) := smallPrimes.map (rootFraction 3)

/-! ## The hash of a stream of bytes -/

/-- The exclusive or of a word's rotations. -/
def rotations (x : BitVec 64) (by_ : List Nat) : BitVec 64 := by_.foldl (fun r n => r ^^^ x.rotateRight n) 0

/-- A word from its bytes, most significant first, and back. -/
def wordOfBytes (bs : List Byte) : BitVec 64 := BitVec.ofNat 64 (leNat bs.reverse)
def bytesOfWord (w : BitVec 64) : List Byte := (leBytes 8 w.toNat).reverse

/-- The hash value: the four newest words of each of its two histories, newest first. -/
structure Digest where
  left  : List (BitVec 64)
  right : List (BitVec 64)
  deriving DecidableEq, Repr

/-- From the square roots of the ninth to the sixteenth prime. -/
def Digest.first : Digest :=
  let ws := ((smallPrimes.drop 8).take 8).map (rootFraction 2)
  ⟨ws.take 4, ws.drop 4⟩

/-- A round puts a new word before each history; `x` is the sum of the round's constant and of its schedule word. -/
def Digest.round (d : Digest) (x : BitVec 64) : Digest :=
  let l := fun (i : Nat) => d.left.getD i 0
  let r := fun (i : Nat) => d.right.getD i 0
  let chosen := r 2 ^^^ (r 0 &&& (r 1 ^^^ r 2))
  let most := (l 0 &&& (l 1 ||| l 2)) ||| (l 1 &&& l 2)
  let t := x + r 3 + chosen + rotations (r 0) [14, 18, 41]
  ⟨(t + most + rotations (l 0) [28, 34, 39]) :: d.left.take 3, (l 3 + t) :: d.right.take 3⟩

/-- The schedule: `n` words, the oldest of a window of sixteen leaving it as a new one comes in. -/
def schedule : Nat → List (BitVec 64) → List (BitVec 64)
  | 0, _ => []
  | n + 1, win =>
    let near := win.getD 14 0
    let far := win.getD 1 0
    let new := win.getD 0 0 + win.getD 9 0 + (rotations near [19, 61] ^^^ near >>> 6) + (rotations far [1, 8] ^^^ far >>> 7)
    win.getD 0 0 :: schedule n (win.drop 1 ++ [new])

/-- A block of 128 bytes. -/
def Digest.block (d : Digest) (bs : List Byte) : Digest :=
  let words := (List.range 16).map (fun i => wordOfBytes ((bs.drop (8 * i)).take 8))
  let e := (List.zipWith (· + ·) roundWords (schedule 80 words)).foldl Digest.round d
  ⟨List.zipWith (· + ·) d.left e.left, List.zipWith (· + ·) d.right e.right⟩

/-- The blocks of a padded message, one after the other. -/
def Digest.blocks : Nat → Digest → List Byte → Digest
  | 0, d, _ => d
  | n + 1, d, bs => Digest.blocks n (d.block (bs.take 128)) (bs.drop 128)

/-- A message with its padding: a 1 bit, zeros, and the length in bits over the last 16 bytes of a block. -/
def shaPad (bs : List Byte) : List Byte :=
  let n := bs.length
  bs ++ [0x80] ++ List.replicate ((239 - n % 128) % 128) 0 ++ (leBytes 16 (8 * n)).reverse

/-- SHA-384: 48 bytes. -/
def sha384 (bs : List Byte) : List Byte :=
  let m := shaPad bs
  let d := Digest.first.blocks (m.length / 128) m
  ((d.left ++ d.right).take 6).flatMap bytesOfWord

/-! ## CRC-32C -/

/-- One byte of CRC-32C, reflected. -/
def crcByte (c : BitVec 32) (b : Byte) : BitVec 32 :=
  (List.range 8).foldl (fun c _ => if c.getLsbD 0 then (c >>> 1) ^^^ 0x82F63B78 else c >>> 1) (c ^^^ b.setWidth 32)

/-- CRC-32C. -/
def crc32c (bs : List Byte) : BitVec 32 := ~~~(bs.foldl crcByte 0xFFFFFFFF)

end Sys2Proof.Machine
end

