-- ==== Sys2Proof/Machine/ImageFormat.lean ====
section
/-! DEFINITION. The image in memory (R313 to R318, R333) and the loader's checks on the internal copy (R319 to R321). -/

namespace Sys2Proof.Machine

/-- A directory entry (R314). -/
structure Section where
  entry  : Nat
  type   : Nat
  index  : Nat
  resv   : Nat
  size   : Nat
  offset : Nat
  digest : List Byte
  deriving DecidableEq, Repr

/-- NSECT of the header (R313). -/
def nsect (m : Mem) : Nat := readLe m 6 2

/-- The end of the directory. -/
def dirEnd (m : Mem) : Nat := 256 + 64 * nsect m

/-- Directory entry i (R314). -/
def sectionAt (m : Mem) (i : Nat) : Section :=
  let a := 256 + 64 * i
  { entry := i, type := readLe m a 1, index := readLe m (a + 1) 1, resv := readLe m (a + 2) 2, size := readLe m (a + 4) 4
    offset := readLe m (a + 8) 8, digest := readBytes m (a + 16) 48 }

/-- The directory. -/
def sections (m : Mem) : List Section := (List.range (nsect m)).map (sectionAt m)

/-- All bytes of a range are 0. -/
def zeros (m : Mem) (a n : Nat) : Bool := (readBytes m a n).all (· == 0)

/-- Step 1 of R320: the legal values of R313. -/
def headerOk (m : Mem) : Bool :=
  let n := nsect m
  let len := readLe m 8 8
  decide (readLe m 0 4 = 0x46495350 ∧ readLe m 4 2 = 1 ∧ 1 ≤ n ∧ n ≤ 256 ∧ len % 64 = 0 ∧ 256 + 64 * n ≤ len ∧ len ≤ 2 ^ 36)
    && zeros m 24 8 && zeros m 128 128

/-- A resident section (R315). -/
def Section.resident (x : Section) : Bool := x.type != 3

/-- INDEX and SIZE of a section, as far as they do not depend on its contents (R315). -/
def Section.ok (x : Section) : Bool :=
  let z := x.size
  match x.type with
  | 1 => x.index == 0 && z == 16448
  | 2 => decide (x.index < 16 ∧ z % 16 = 0 ∧ 16 ≤ z ∧ z ≤ 131072)
  | 3 => decide (z % 16 = 0 ∧ 32 ≤ z ∧ z ≤ 131088)
  | 4 => decide (x.index = 0 ∧ z % 16 = 0)
  | 5 => decide (x.index = 0 ∧ z % 256 = 0 ∧ z ≤ 2 ^ 20)
  | 6 => decide (x.index = 0 ∧ z % 32 = 0 ∧ z ≤ 131072)
  | 7 => decide (x.index = 0 ∧ z % 16 = 0 ∧ z ≤ 16384)
  | 8 => decide (x.index < 16)
  | 9 => decide (x.index < 16 ∧ z % 8 = 0 ∧ z ≤ 2048)
  | 10 => decide (x.index = 0 ∧ z % 16 = 0 ∧ z ≤ 65536)
  | _ => false

/-- An entry breaks a check of step 4, given the entries before it (R320). A section of SIZE 0 whose OFFSET lies inside another section
overlaps it (DESIGN CHOICE, log entry 87: R320 does not say whether a section without a byte can). -/
def Section.bad (x : Section) (m : Mem) (before : List Section) : Bool :=
  !x.ok || x.resv != 0 || x.offset % 64 != 0 || decide (x.offset < dirEnd m) || decide (readLe m 8 8 < x.offset + x.size)
    || (x.resident && decide (16777216 < x.offset + x.size))
    || before.any (fun y => y.type == x.type && y.index == x.index)
    || before.any (fun y => decide (x.offset < y.offset + y.size ∧ y.offset < x.offset + x.size))

/-- Step 4 of R320: the first entry that breaks a check, or NSECT where no stream table is named. -/
def directoryBad (m : Mem) : Option Nat :=
  let l := sections m
  match l.find? (fun x => x.bad m (l.take x.entry)) with
  | some x => some x.entry
  | none => if l.any (fun x => x.type == 1) then none else some l.length

/-- The bytes of an image that are read with some of its sections: the header, the directory and those sections. -/
def imageReads (m : Mem) (want : Section → Bool) : List (Nat × Nat) :=
  (0, dirEnd m) :: ((sections m).filter want).map (fun x => (x.offset, x.size))

/-- MODEL: the ranges of an image in the shadow store, whose words have numbers from 2^21. -/
def inShadow (rs : List (Nat × Nat)) : List (Nat × Nat) := rs.map (fun r => (r.1 + 2 ^ 24, r.2))

/-- The shadow store is cleared: its words hold correct code again (R327, R345). -/
def State.clearShadow (s : State) : State :=
  { (s.keepEcc (fun e => !(e.1 == Store.imageStores && decide (2 ^ 21 ≤ e.2)))) with image := { s.image with shadow := .empty } }

/-- The sections in the order in which steps 5 and 6 fetch them. -/
def fetchOrder (m : Mem) : List Section :=
  (sections m).filter (·.resident) ++ (sections m).filter (fun x => !x.resident)

/-- The image bytes that a step of the load fetches. -/
def loadRange (m : Mem) (step : Nat) : Option (Nat × Nat) :=
  match step with
  | 0 => some (0, 256)
  | 1 => some (256, dirEnd m)
  | i + 2 => ((fetchOrder m)[i]?).map (fun x => (x.offset, x.offset + x.size))

/-- The 512-byte blocks of a byte range. -/
def blocksOf (r : Nat × Nat) : List Nat :=
  if r.2 ≤ r.1 then [] else (List.range ((r.2 - 1) / 512 + 1 - r.1 / 512)).map (· + r.1 / 512)

/-- Bytes of a fetched block that lie in a range, as cells at image offsets. -/
def blockCells (r : Nat × Nat) (block : Nat) (data : List Byte) : Mem :=
  (lanesFrom (512 * block) data).filter (fun c => r.1 ≤ c.1 && c.1 < r.2)

def codeBadFormat : BitVec 8 := 2
def codeBadDigest : BitVec 8 := 3
def codeFetchError : BitVec 8 := 4

/-- The instructions of an overlay section and what the loader keeps of it (R320 step 6, R333). -/
def overlayInfo (x : Section) (source : BitVec 64) (bytes : List Byte) : OverlayInfo :=
  { index := BitVec.ofNat 8 x.index, source := source + BitVec.ofNat 64 x.offset, offset := x.offset, size := x.size, digest := x.digest
    stream := BitVec.ofNat 4 (leNat (bytes.take 1)), dest := BitVec.ofNat 13 (leNat ((bytes.drop 2).take 2))
    head := bytes.take 16
    words := (List.range ((x.size - 16) / 16)).map (fun i => BitVec.ofNat 128 (leNat ((bytes.drop (16 + 16 * i)).take 16))) }

/-- The checks of a step over the internal copy (R320): a failure, or the store with what step 6 keeps. -/
def loadCheck (st : ImageStore) (l : Loader) : (BitVec 8 × BitVec 32) ⊕ ImageStore :=
  let m := st.bytes
  match l.step with
  | 0 =>
    if !headerOk m then .inl (codeBadFormat, 0xFFFF)
    else if sha384 (readBytes m 0 80) != readBytes m 80 48 then .inl (codeBadDigest, 0xFFFF) else .inr st
  | 1 =>
    if sha384 (readBytes m 256 (64 * nsect m)) != readBytes m 32 48 then .inl (codeBadDigest, 0xFFFE) else
    match directoryBad m with
    | some e => .inl (codeBadFormat, BitVec.ofNat 32 e)
    | none => .inr st
  | i + 2 =>
    match (fetchOrder m)[i]? with
    | none => .inr st
    | some x =>
      let bytes := readBytes (if x.resident then m else l.ovl) x.offset x.size
      if sha384 bytes != x.digest then .inl (codeBadDigest, BitVec.ofNat 32 x.entry)
      else if x.resident then .inr st
      else .inr { st with overlays := st.overlays ++ [overlayInfo x l.source bytes] }

/-- The loader goes on while the range of its step has come whole: check, then the next step (R320). -/
def loadAdvance : Nat → ImageStore → Loader → ImageStore × Loader
  | 0, st, l => (st, l)
  | n + 1, st, l =>
    match loadRange st.bytes l.step with
    | none => (st, l)
    | some r =>
      if !(blocksOf r).all l.got.contains then (st, l) else
      match loadCheck st l with
      | .inl v => (st, { l with verdict := some v })
      | .inr st' => loadAdvance n st' { l with step := l.step + 1, asked := [], got := [], ovl := [] }

/-- Fetching and checking have ended (R320): with a failure, or with every section checked. -/
def loadEnded (st : ImageStore) (l : Loader) : Bool := l.verdict.isSome || (loadRange st.bytes l.step).isNone

/-- Is the section of a step of the load one that is paged in, which no image store keeps (R320 step 6)? -/
def loadPaged (m : Mem) (step : Nat) : Bool :=
  decide (2 ≤ step) && ((fetchOrder m)[step - 2]?).any (fun x => !x.resident)

/-- What the checks from one place of the load to another read of the internal copy (R320, R346): the step that fails is read too. -/
def checkReads (m : Mem) (l l' : Loader) : List (Nat × Nat) :=
  (((List.range (l'.step + (if l'.verdict.isSome then 1 else 0) - l.step)).map (· + l.step)).filter (fun i => !loadPaged m i)).filterMap
    (fun i => (loadRange m i).map (fun r => (r.1, r.2 - r.1)))

/-- A block of the load arrives (R319, R320). The shadow store takes its bytes (R345), and the checks read them there (R346). A response of status 0b01 or 0b10 ends the load with FETCH_ERROR and DETAIL 0 (DESIGN CHOICE,
log entry 41: neither R319, R320 nor R411 gives a detail). -/
def State.loaderBlock (s : State) (gen step m : Nat) (stat : BitVec 2) (data : List Byte) : State :=
  match s.image.loader with
  | none => s
  | some l =>
    if l.gen ≠ gen ∨ l.step ≠ step ∨ l.verdict.isSome then s else
    if stat ≠ 0 then
      { s with image := { s.image with loader := some { l with verdict := some (codeFetchError, 0) } } } else
    match loadRange s.image.shadow.bytes step with
    | none => s
    | some r =>
      let cells := blockCells r m data
      let paged := loadPaged s.image.shadow.bytes step
      let l1 := { l with got := insertNat l.got m, ovl := if paged then writeCells l.ovl cells else l.ovl }
      let st := if paged then s.image.shadow else { s.image.shadow with bytes := writeCells s.image.shadow.bytes cells }
      let (st', l') := loadAdvance 300 st l1
      let s1 := if paged then s else s.coverWords .imageStores (cells.map (fun c => (c.1 + 2 ^ 24, c.2)))
      { (s1.readRanges .imageStores (inShadow (checkReads st'.bytes l1 l'))) with image := { s.image with shadow := st', loader := some l' } }

/-- The next block that the loader would read at a port (R319): its step and number. -/
def State.loaderNext (s : State) (port : Nat) : Option (Nat × Nat × Nat) :=
  match s.image.loader with
  | none => none
  | some l =>
    if l.verdict.isSome then none else
    (loadRange s.image.shadow.bytes l.step).bind (fun r =>
      ((blocksOf r).find? (fun m => m % s.cfg.ports == port && !l.asked.contains m)).map (fun m => (l.gen, l.step, m)))

/-- What the loader kept of an overlay of the active image (R334). -/
def State.overlayKept (s : State) (n : BitVec 8) : Option OverlayInfo := s.image.active.overlays.find? (fun o => o.index == n)

/-- The bytes of an overlay section from the start of its first memory block on. -/
def overlayRange (o : OverlayInfo) : Nat × Nat := (o.offset % 512, o.offset % 512 + o.size)

/-- The next block of the overlay that is being fetched, the first command not yet checked (R334). -/
def State.overlayNext (s : State) (port : Nat) : Option (Nat × Nat × OverlayInfo) :=
  match s.image.overlays.find? (fun c => !c.checked && c.bad.isNone) with
  | none => none
  | some c =>
    (s.overlayKept c.overlay).bind (fun o =>
      let base := o.offset / 512
      ((blocksOf (overlayRange o)).find? (fun m => (base + m) % s.cfg.ports == port && !c.asked.contains m)).map
        (fun m => (c.gen, m, o)))

/-- A block of an overlay arrives (R334, R335). -/
def State.overlayBlock (s : State) (gen m : Nat) (stat : BitVec 2) (data : List Byte) : State :=
  { s with image := { s.image with overlays := s.image.overlays.map (fun c =>
      if c.gen ≠ gen ∨ c.bad.isSome then c
      else if stat ≠ 0 then { c with bad := some 2 }
      else { c with got := insertNat c.got m, bytes := writeCells c.bytes (lanesFrom (512 * m) data) }) } }

end Sys2Proof.Machine
end

