-- ==== Sys2Proof/Machine/Sluice.lean ====
section
/-! DEFINITION. The Sluice (06, 07): GATH, SCAT and BCST, their check and request passes, and the landing of what they
read. -/

namespace Sys2Proof.Machine

/-! ## Issue -/

/-- The Pool range of a Sluice instruction fails R116, with the lowest offending byte (R127, R201). -/
def State.sluiceRangeBad (s : State) (p : StreamId) (op : Op) (f : SluiceF) : Option Int :=
  let g := s.image.bank.region f.region.toNat
  let a : Int := f.off.toNat
  let size : Int := s.regionSize g
  match op with
  | .gath _ =>
    let n : Int := f.count.toNat * sluiceBlock f
    if !g.valid || g.owner != p.toNat || g.mode != 2 then some a
    else if size < a + n then some (max a size) else none
  | .bcst _ => s.rangeBad p f.region.toNat a 512 false
  | _ => s.rangeBad p f.region.toNat a (f.count.toNat * scatBlock f) false

/-- One job of a stream changed. -/
def State.modJob (s : State) (p : StreamId) (order : Nat) (f : SluiceJob → SluiceJob) : State :=
  s.modStream p (fun x => { x with jobs := x.jobs.map (fun j => if j.order = order then f j else j) })

/-- A job by its order. -/
def Stream.job (x : Stream) (order : Nat) : Option SluiceJob := x.jobs.find? (fun j => j.order == order)

/-- The entries that a Sluice instruction which issues now will use (R186). -/
def State.entryTables (s : State) (p : StreamId) (f : SluiceF) : List EntryTable :=
  (s.sluiceTables f).map (fun t =>
    { region := t.1, half := s.readHalf t.1, off := t.2.1, bytes := s.poolRead p t.1 t.2.1 t.2.2 })

/-- An instruction that an earlier attempt of the frame issued goes on with the outcomes of its check pass, or runs both passes afresh
(R64, R204). -/
def State.reissue (s : State) (p : StreamId) (j : SluiceJob) : State :=
  (s.modJob p j.order (fun j => { j with recorded := false, at_ := s.clock.cycles
                                         tables := if j.phase = .issued then s.entryTables p j.f else j.tables })).modStream p
    (fun x => { x with order := x.order + 1 })

/-- A Sluice instruction enters its generator's ways (R196). -/
def State.newJob (s : State) (p : StreamId) (op : Op) (f : SluiceF) (p0 : Nat) (no : BitVec 32) : State :=
  let g := s.image.bank.memRegion (s.image.bank.desc f.desc.toNat).region
  let half := match op with | .gath _ => (s.clock.frame.toNat + 1) % 2 | _ => s.readHalf f.region.toNat
  s.modStream p (fun x => { x with
    order := x.order + 1
    jobs := x.jobs ++ [{ order := x.order, pc := x.ctx.pc, op := op, f := f, p0 := p0, eff := no, frame := s.clock.frame,
                         half := half, tables := s.entryTables p f, at_ := s.clock.cycles, from_ := 0, phase := .issued, recorded := false,
                         plan := [], fills := [], fill := 0, left := [], raw := [], defer := [], key := g.key,
                         remote := g.anyChip, failed := false, gone := false }] })

/-- Issue of GATH, SCAT and BCST (R127, R179, R181, R117): the instruction takes its effect number; PROT for the Pool range,
ALIGN for a start off the grain; the cursor advances. -/
def State.sluiceEffect (s : State) (p : StreamId) (op : Op) (f : SluiceF) : State :=
  let s1 := s.takeEffect p
  match s.sluiceRangeBad p op f with
  | some a => s1.raise p faultPROT a 1 (s.pc p)
  | none =>
    let d := s.image.bank.desc f.desc.toNat
    let i := f.cur.toNat
    let p0 := ((s.stream p).ctx.dpos[i]'(by have := f.cur.isLt; omega)).toNat % d.slen
    if p0 % d.grain ≠ 0 then s1.raise p faultALIGN p0 0 (s.pc p) else
    let no := (s.stream p).ctx.effseq
    let s2 := if f.cadv then
        s1.modCtx p (fun c => { c with dpos := c.dpos.set i (BitVec.ofNat 64 ((p0 + 512 * f.count.toNat) % d.slen))
                                                 (by have := f.cur.isLt; omega) })
      else s1
    match (s.stream p).jobs.find? (fun j => j.recorded && j.eff == no && decide (j.frame = s.clock.frame) && j.op == op) with
    | some j => s2.reissue p j
    | none => s2.newJob p op f p0 no

/-! ## The check pass -/

/-- Does a job write memory? -/
def SluiceJob.writes (j : SluiceJob) : Bool := match j.op with | .gath _ => false | _ => true

/-- The job on the stream's ways of one direction (R196): the first whose request pass has not ended. -/
def Stream.onWays (x : Stream) (write : Bool) : Option SluiceJob :=
  x.jobs.find? (fun j => j.writes == write && !j.recorded && !j.failed && decide (j.phase ≠ .formed))

/-- A fault that ends a check pass: code, FADDR, PROT cause. -/
abbrev CheckFault := BitVec 8 × Int × BitVec 3

/-- What the check pass finds of one stream block. -/
structure BlockCheck where
  fault : Option CheckFault
  plan  : List BlockPlan
  fills : List Nat
  used  : List (Nat × Nat × Nat)
  deriving DecidableEq, Repr

/-- The table of an instruction that holds a range. -/
def SluiceJob.table (j : SluiceJob) (r o n : Nat) : Option EntryTable :=
  j.tables.find? (fun t => t.region == r && decide (t.off ≤ o ∧ o + n ≤ t.off + t.bytes.length))

/-- The value of an entry, and the half that it was read from (R186, R201). -/
def SluiceJob.entry (j : SluiceJob) (r o n : Nat) : Nat :=
  match j.table r o n with | some t => leNat ((t.bytes.drop (o - t.off)).take n) | none => 0
def State.entryHalf (s : State) (j : SluiceJob) (r o n : Nat) : Nat := match j.table r o n with | some t => t.half | none => s.readHalf r

/-- The fault of one stream byte: an uncorrectable error anywhere in the 32-byte word that holds its entry (R115, R186, R345), or its place
(R190, R191). -/
def State.placeFault (s : State) (p : StreamId) (j : SluiceJob) (d : Desc) (l : Located) : Option CheckFault :=
  match l.used.findSome? (fun u => s.poolBadAt (some p) p u.1 (s.entryHalf j u.1 u.2.1 u.2.2) (u.2.1 / 32 * 32) 32 s.clock.offset) with
  | some b => some (faultECC, b, 0)
  | none =>
    match l.place with
    | .forbid fad => some (faultPROT, fad, 4)
    | .ownFail blk => some (faultPROT, (d.ooff : Int) + 8 * blk, 5)
    | _ => none

/-- Stream block k: the outcome of its bytes, its requests in ascending memory block number, its fills (a block that is all filled has a
place without bytes in the plan, R183); the translation failure of the lowest position decides, then the budget (R182, R183, R191 to R194,
R197). FADDR of a budget's ALIGN is the block's position in the tensor's stream, (p0 + 512·k) mod SLEN of R179, where R191 counts from the
instruction's first byte (DEDUCED, log entry 78). -/
def State.checkBlock (s : State) (p : StreamId) (j : SluiceJob) (d : Desc) (g : MemRegion) (k : Nat) : BlockCheck :=
  let idx := fun i => signed 32 (j.entry d.ireg (d.ioff + 4 * i) 4)
  let own := fun n => j.entry d.oreg (d.ooff + 8 * n) 8
  let ls := (List.range 512).map (fun r =>
    (512 * k + r, d.locate g idx own ((j.p0 + 512 * k + r) % d.slen) (j.f.idxen && d.idxv) j.writes))
  let addrs := ls.filterMap (fun l => match l.2.place with | .addr pa => some (pa, l.1, l.2.used) | _ => none)
  let blocks := addrs.foldl (fun bs a => insertNat bs (a.1 / 512)) []
  let marked := fun (u : Nat × Nat × Nat) => (s.markAt p u.1 (s.entryHalf j u.1 u.2.1 u.2.2) u.2.1 u.2.2).isSome
  let fault := match ls.findSome? (fun l => s.placeFault p j d l.2) with
    | some x => some x
    | none => if d.rpb < blocks.length then some (faultALIGN, (((j.p0 + 512 * k) % d.slen : Nat) : Int), 0) else none
  { fault := fault
    plan := if blocks.isEmpty then [{ k := k, block := 0, bytes := [], taint := false, st := .waiting }] else blocks.map (fun b =>
      let mine := addrs.filter (fun a => a.1 / 512 == b)
      { k := k, block := b, bytes := mine.map (fun a => (a.1 % 512, a.2.1)), taint := mine.any (fun a => a.2.2.any marked), st := .waiting })
    fills := ls.filterMap (fun l => if l.2.place = .fill then some l.1 else none)
    used := (ls.flatMap (fun l => l.2.used)).eraseDups }

/-- The n blocks from block k on, in order: the pass reads the entries of each, also behind one that fails (R186, R191). -/
def State.checkBlocks (s : State) (p : StreamId) (j : SluiceJob) (d : Desc) (g : MemRegion) (n k : Nat) : List BlockCheck :=
  (List.range n).map (fun i => s.checkBlock p j d g (k + i))

/-- Words of index and owner entries are read once for each stream block (R186, R346). -/
def State.readEntries (s : State) (p : StreamId) (j : SluiceJob) (c : BlockCheck) : State :=
  ((c.used.map (fun u => (u.1, s.entryHalf j u.1 u.2.1 u.2.2, u.2.1 / 32))).eraseDups).foldl (fun s w =>
    s.readPoolHalf p w.1 w.2.1 (32 * w.2.2) 32) s

/-- A request that an earlier attempt transferred, or presented, stays so in a check pass that runs afresh (R37, R204). -/
def carrySent (old : List BlockPlan) (b : BlockPlan) : BlockPlan :=
  match old.find? (fun o => o.block == b.block && o.k == b.k && decide (o.st = .formed ∨ o.st = .sent ∨ o.st = .answered)) with
  | some o => if o.bytes.isEmpty = b.bytes.isEmpty then { b with st := o.st, taint := false } else b
  | none => b

/-- g of R197: requests that a stream's generator forms in a cycle. -/
def State.perCycle (s : State) : Nat := 16 / s.parts

/-- The cycles of a pass over a plan (R197): what is filled takes none. -/
def State.passCycles (s : State) (plan : List BlockPlan) : Nat := ceilDiv (plan.countP (fun b => !b.bytes.isEmpty)) s.perCycle

/-- The check pass (R191 to R194, R197), whose outcome is decided as it begins and whose request pass follows after its cycles
(DEDUCED, log entry 59): with a fault the instruction transfers nothing and the fault waits for the
next committing tick (R127); with a late index or owner entry, which is read as it stands, all its requests and its fills are suppressed
(R203). -/
def State.checkPass (s : State) (p : StreamId) (j : SluiceJob) : State :=
  let d := s.image.bank.desc j.f.desc.toNat
  let g := s.image.bank.memRegion d.region
  let cs := s.checkBlocks p j d g j.f.count.toNat 0
  let late := cs.any (fun c => c.used.any (fun u => s.landLateIn j.frame p u.1 u.2.1 u.2.2))
  let s0 := cs.foldl (fun s c => s.readEntries p j c) s
  let s1 := if late then (s0.count .landLate 1).event 0x09 p.toNat 1 else s0
  match cs.findSome? (·.fault) with
  | some (code, faddr, cause) =>
    (s1.modJob p j.order (fun j => { j with phase := .checked, failed := true, plan := [], left := [] })).faultDue p
      { pc := j.pc, code := code, faddr := BitVec.ofInt 64 faddr, cause := cause, order := j.order, checked := true,
        address := BitVec.ofInt 64 faddr, status := 0 }
  | none =>
    let plan := (cs.flatMap (·.plan)).map (fun b => carrySent j.plan { b with taint := b.taint || late })
    let all := plan.flatMap (fun b => b.bytes.map (·.2))
    let kept := j.plan.flatMap (fun b => if b.st = .answered then b.bytes.map (·.2) else [])
    let landed := kept.filter (fun q => !j.left.contains q)
    let fills := cs.flatMap (·.fills)
    s1.modJob p j.order (fun j => { j with
      phase := .checked, from_ := s1.clock.cycles + s1.passCycles plan, plan := plan, fills := if late then [] else fills, fill := BitVec.ofNat 8 d.fill
      left := if j.writes then [] else (all ++ fills).filter (fun q => !landed.contains q) })

/-- A pass of the stream's ways may end: the stream is Running in a state in which streams issue (R210). -/
def State.sluiceActive (s : State) (p : StreamId) : Bool :=
  issuing s.unit.state && decide ((s.stream p).ctx.state = .running)

/-- The stream forms requests, now or, while Psiuno is in Recovery, after it (R210, R352, R353). -/
def State.formsYet (s : State) (p : StreamId) : Bool := decide ((s.stream p).ctx.state = .running)

/-- The request pass before it in the same direction has ended (R197). -/
def State.wayFree (s : State) (p : StreamId) (write : Bool) : Bool :=
  (s.stream p).jobs.all (fun j => j.writes != write || decide (j.phase ≠ .formed ∨ j.from_ ≤ s.clock.cycles))

/-- SLUICE_CHECK_PASS: the pass of the instruction on the stream's ways, in a cycle after its issue (R197). -/
def execSluiceCheckPass (p : StreamId) (write : Bool) (s : State) : Out :=
  match (s.stream p).onWays write with
  | some j => if s.sluiceActive p && s.wayFree p write && decide (j.phase = .issued ∧ j.at_ < s.clock.cycles) then .next (s.checkPass p j) else .next s
  | none => .next s

/-! ## Landing -/

/-- The memory-side positions of the element that a position belongs to (R225). -/
def SluiceJob.element (j : SluiceJob) (q : Nat) : List Nat :=
  if j.f.cvt = 0 then [q] else
  let em := fmtBytes (cvtSrc j.f.cvt)
  (List.range em).map (fun i => q / em * em + i)

/-- Pool offset and bytes of the element of a position, once its memory-side bytes are known (R180, R225). -/
def SluiceJob.landed (j : SluiceJob) (q : Nat) (bytes : List Byte) : Nat × List Byte :=
  if j.f.cvt = 0 then (j.f.off.toNat + q, bytes) else
  (j.f.off.toNat + q / fmtBytes (cvtSrc j.f.cvt) * fmtBytes (cvtDst j.f.cvt), convertBytes j.f.cvt bytes)

/-- Bytes of a job's positions have arrived: whole elements become readable after `lat` cycles, the others wait (R202). -/
def State.landBytes (s : State) (p : StreamId) (j : SluiceJob) (got : Mem) (lat : Nat) : State :=
  let known := got ++ j.raw
  let value := fun q => (known.find? (fun c => c.1 == q)).elim 0 (·.2)
  let heads := ((got.map (fun c => (j.element c.1).headD c.1)).eraseDups).filter
    (fun q => (j.element q).all (fun i => known.any (fun c => c.1 == i)))
  let cells := heads.flatMap (fun q =>
    let (o, bs) := j.landed q ((j.element q).map value)
    bs.mapIdx (fun i b => (s.poolAddr j.f.region.toNat p j.half (o + i), b)))
  let done := heads.flatMap j.element
  let s1 := s.modJob p j.order (fun j => { j with raw := known.filter (fun c => !done.contains c.1) })
  if done.isEmpty then s1
  else if lat = 0 then s1.arriveLand p j.order cells done
  else s1.later p lat (.land j.order cells done)

/-- The merge of R208: for each byte of a block, the youngest earlier write of the stream, else the response. -/
def State.merged (s : State) (p : StreamId) (order block : Nat) (data : List Byte) (i : Nat) : Byte :=
  let es := (s.ports.toList.flatMap (·.wbuf)).filter (fun e =>
    e.stream == p && decide (e.order < order ∧ e.block = block) && e.cells.any (fun c => c.1 == i))
  match es.foldl (fun (a : Option WriteEntry) e => match a with
      | none => some e
      | some b => if b.order < e.order ∨ (b.order = e.order ∧ (b.tick < e.tick ∨ (b.tick = e.tick ∧ b.num ≤ e.num))) then some e
                  else some b) none with
  | some e => (e.cells.find? (fun c => c.1 == i)).elim 0 (·.2)
  | none => data.getD i 0

/-- An earlier write instruction of the stream has yet to form requests, in a replay also before it is issued again (R208). -/
def Stream.writesBefore (x : Stream) (order : Nat) : Bool :=
  x.jobs.any (fun j => j.writes && !j.failed && decide (j.order < order) && (j.recorded || decide (j.phase ≠ .formed)))

/-- A block's data lands (R202, R208). -/
def State.landBlock (s : State) (p : StreamId) (order block : Nat) (bytes : List (Nat × Nat)) (data : List Byte) : State :=
  match (s.stream p).job order with
  | none => s
  | some j => s.landBytes p j (bytes.map (fun b => (b.2, s.merged p order block data b.1))) 4

/-- Blocks whose landing waited land once no earlier write instruction has requests to form, or the stream forms no
more (R208, R210). -/
def State.landDeferred (s : State) (p : StreamId) : State :=
  (s.stream p).jobs.foldl (fun s j =>
    if j.defer.isEmpty || (s.formsYet p && (s.stream p).writesBefore j.order) then s else
    j.defer.foldl (fun s b => s.landBlock p j.order b.1 b.2.1 b.2.2) (s.modJob p j.order (fun j => { j with defer := [] }))) s

/-! ## The request pass -/

/-- One port changed. -/
def State.modPort (s : State) (i : Nat) (f : Port → Port) : State :=
  { s with ports := s.ports.mapIdx (fun k q => if k = i then f q else q) }

def State.port (s : State) (i : Nat) : Port := s.ports[i]?.getD .idle

/-- A port's write buffer has 5,120 entries (R205). -/
def wbufDepth : Nat := 5120

/-- A queue in the order of R199: oldest formed first, ties by stream, then by number. -/
def reqBefore (a b : Req) : Bool :=
  let sn := fun (r : Req) => match r.from_ with | .stream s _ => s.toNat | _ => 16
  decide (a.formed < b.formed ∨ (a.formed = b.formed ∧ (sn a < sn b ∨ (sn a = sn b ∧ a.num < b.num))))
def reqInsert : List Req → Req → List Req
  | [], r => [r]
  | q :: l, r => if reqBefore r q then r :: q :: l else q :: reqInsert l r

/-- The entry of a job's plan at place i takes a state. -/
def SluiceJob.setPlan (j : SluiceJob) (i : Nat) (st : ReqState) : SluiceJob :=
  { j with plan := j.plan.mapIdx (fun k b => if k = i then { b with st := st } else b) }

/-- Request i of the plan is suppressed (R61). -/
def State.suppressReq (s : State) (p : StreamId) (j : SluiceJob) (i : Nat) : State :=
  (s.modJob p j.order (fun j => j.setPlan i .suppressed)).suppress p 1

/-- Request i of the plan is formed and goes to its port (R198, R199, R205). -/
def State.formReq (s : State) (p : StreamId) (j : SluiceJob) (i : Nat) (b : BlockPlan) (cells : Mem) : State :=
  let x := s.stream p
  let n := if j.writes then x.formedW else x.formedR
  let port := (n + p.toNat) % s.cfg.ports
  let r : Req := { from_ := .stream p j.order, block := b.block, key := j.key, remote := j.remote, num := n,
                   tick := s.clock.ticks, formed := s.clock.cycles, bytes := b.bytes, cells := cells, old := false }
  let s1 := (s.modJob p j.order (fun j => j.setPlan i .formed)).modStream p (fun x =>
    if j.writes then { x with formedW := x.formedW + 1 } else { x with formedR := x.formedR + 1 })
  s1.modPort port (fun q =>
    if j.writes then
      { q with writes := reqInsert q.writes r
               wbuf := q.wbuf ++ [{ stream := p, order := j.order, block := b.block, num := n, cells := cells,
                                    tick := s.clock.ticks, answered := false }] }
    else { q with reads := reqInsert q.reads r })

/-- What becomes of a place in the plan. -/
inductive Formed where
  /-- It is done, in one of the cycle's g turns or in none; or the pass stops here for this cycle. -/
  | turn | free | stop
  deriving DecidableEq, Repr

/-- The Pool bytes that a write instruction takes for a stream block: offset and length (R180, R225). -/
def SluiceJob.source (j : SluiceJob) (k : Nat) : Nat × Nat :=
  match j.op with
  | .bcst _ => (j.f.off.toNat, 512)
  | _ => (j.f.off.toNat + k * scatBlock j.f, scatBlock j.f)

/-- What the generator does with a write request: it is held where its port has no free entry (R205); its source is read as other
agents see it (R125, R273); an uncorrectable word faults, and a mark suppresses it (R61, R115, R435). -/
def State.makeWrite (s : State) (p : StreamId) (j : SluiceJob) (i : Nat) (b : BlockPlan) : State × Formed :=
  let r := j.f.region.toNat
  let (o, n) := j.source b.k
  let marked := (s.markAt p r j.half o n).isSome
  let full := decide (wbufDepth ≤ (s.port (((s.stream p).formedW + p.toNat) % s.cfg.ports)).wbuf.length)
  if full && !marked && !b.bytes.isEmpty then
    (if b.st = .held then s else (s.modJob p j.order (fun j => j.setPlan i .held)).count .portLate 1, .stop)
  else
    match s.poolBadAt none p r j.half o n s.clock.offset with
    | some a => (s.raise p faultECC a 0 j.pc, .stop)
    | none =>
      let s1 := s.readPoolHalf p r j.half o n
      if b.bytes.isEmpty then (s1.modJob p j.order (fun j => j.setPlan i .answered), .free)
      else if marked then (s1.suppressReq p j i, .turn)
      else
        let src := convertBytes j.f.cvt (s.poolView none p r j.half o n)
        let cells := writeCells [] (b.bytes.map (fun c => (c.1, src.getD (c.2 % 512) 0)))
        let stored := (b.bytes.map (·.1)).foldl (fun l i => insertNat l i) []
        (s1.formReq p j i b (stored.map (fun i => (i, memGet cells i))), .turn)

/-- The pass reaches stream block k: its filled bytes land (R183). -/
def State.landFills (s : State) (p : StreamId) (order k : Nat) : State :=
  match (s.stream p).job order with
  | none => s
  | some j =>
    let qs := if j.writes then [] else j.fills.filter (fun q => q / 512 == k && j.left.contains q)
    if qs.isEmpty then s else s.landBytes p j (qs.map (fun q => (q, j.fill))) 0

/-- What the generator does with place i of the plan; a place without bytes makes no request (R183). -/
def State.makeReq (s0 : State) (p : StreamId) (j : SluiceJob) (i : Nat) (b : BlockPlan) : State × Formed :=
  let s := s0.landFills p j.order b.k
  if b.st ≠ .waiting ∧ b.st ≠ .held then (s, .free)
  else if b.bytes.isEmpty ∧ (b.taint ∨ !j.writes) then (s.modJob p j.order (fun j => j.setPlan i .answered), .free)
  else if b.taint then (s.suppressReq p j i, .turn)
  else if !j.writes then (s.formReq p j i b [], .turn)
  else s.makeWrite p j i b

/-- The plan from place i on, in at most `turns` turns: is it done to its end? -/
def State.makeReqs (s : State) (p : StreamId) (j : SluiceJob) : Nat → Nat → List BlockPlan → State × Bool
  | _, _, [] => (s, true)
  | turns, i, b :: bs =>
    if turns = 0 ∧ (b.st = .waiting ∨ b.st = .held) ∧ !b.bytes.isEmpty then (s, false) else
    match s.makeReq p j i b with
    | (s1, .turn) => s1.makeReqs p j (turns - 1) (i + 1) bs
    | (s1, .free) => s1.makeReqs p j turns (i + 1) bs
    | (s1, .stop) => (s1, false)

/-- The pattern of a BCST is read from a landing that is not complete, while requests are still to be formed (R203). -/
def State.patternLate (s : State) (p : StreamId) (j : SluiceJob) : Bool :=
  match j.op with
  | .bcst f => j.plan.any (fun b => !b.taint && !b.bytes.isEmpty && decide (b.st = .waiting ∨ b.st = .held))
      && s.landLateIn j.frame p f.region.toNat f.off.toNat 512
  | _ => false

/-- The requests that an instruction has yet to form are suppressed in this attempt. -/
def SluiceJob.taint (j : SluiceJob) : SluiceJob :=
  { j with plan := j.plan.map (fun b => if b.st = .waiting ∨ b.st = .held then { b with taint := true } else b) }

/-- A cycle of the request pass (R197, R198): at most g requests are formed in order; when it ends, waiting landings of later reads
go on (R208). A pattern whose landing is late suppresses what is left, and is counted once (R203). -/
def State.formCycle (s0 : State) (p : StreamId) (j0 : SluiceJob) : State :=
  let late := s0.patternLate p j0
  let j := if late then j0.taint else j0
  let s := if late then ((s0.modJob p j0.order SluiceJob.taint).count .landLate 1).event 0x09 p.toNat 1 else s0
  match s.makeReqs p j s.perCycle 0 j.plan with
  | (s1, true) => (s1.modJob p j.order (fun j => { j with phase := .formed, from_ := s.clock.cycles + 1 })).landDeferred p
  | (s1, false) => s1.modJob p j.order (fun j => { j with phase := .forming })

/-- The generator works on an instruction in this cycle: the source of a write is read before offset 1,984 (R113), but for one that a
port has held (R205); another goes on in the next frame, as under R96 (DEDUCED, log entry 59). -/
def State.formsNow (s : State) (p : StreamId) (j : SluiceJob) : Bool :=
  s.sluiceActive p && (!j.writes || decide (s.clock.offset ≤ 1983) || j.plan.any (fun b => decide (b.st = .held)))

/-- SLUICE_REQUEST_PASS: the request pass of the instruction on the stream's ways, after its check pass and the request pass before it in its direction
(R197); the cycles that follow go on with it. -/
def execSluiceRequestPass (p : StreamId) (write : Bool) (s : State) : Out :=
  match (s.stream p).onWays write with
  | some j =>
    if s.formsNow p j && s.wayFree p write && decide (j.phase = .checked ∧ j.at_ < s.clock.cycles ∧ j.from_ ≤ s.clock.cycles) then
      .next (s.formCycle p j)
    else .next s
  | none => .next s

/-- The request passes under way go on in a core cycle (R197, R205). -/
def State.formRun (s : State) : State :=
  allStreams.foldl (fun s p => [false, true].foldl (fun s write =>
    match (s.stream p).onWays write with
    | some j => if s.formsNow p j && decide (j.phase = .forming) then s.formCycle p j else s
    | none => s) s) s

end Sys2Proof.Machine
end

