-- ==== Sys2Proof/Machine/Memory.lean ====
section
/-! DEFINITION. The memory ports (R37 to R41, R199 to R213): which request a port presents, its transfer, and what a
response does for the Sluice, the loader (R319), an overlay (R334) and the scrub engine (R217). -/

namespace Sys2Proof.Machine

/-! ## Holds and presentation -/

/-- Write requests of a stream to a block that wait in a queue or for a response, with their place in order. -/
def State.openWrites (s : State) : List Req :=
  s.ports.toList.flatMap (fun q => q.writes ++ (q.tags.filter (·.write)).map (·.req))

/-- An earlier GATH of the stream holds a write to a block (R206): to every block until its check pass has ended, to those that it reads
until they are answered. -/
def SluiceJob.holdsWrite (j : SluiceJob) (active : Bool) (cycle order block : Nat) : Bool :=
  !j.writes && !j.failed && decide (j.order < order) &&
  ((decide (j.phase = .issued ∨ (j.phase = .checked ∧ cycle < j.from_)) && !j.recorded && active) ||
   j.plan.any (fun b => b.block == block && !b.bytes.isEmpty && match b.st with
     | .formed | .sent => true
     | .waiting | .held => active && !j.recorded
     | _ => false))

/-- Requests of one stream. -/
def sameStream (a b : Req) : Bool :=
  match a.from_, b.from_ with
  | .stream p _, .stream q _ => p == q
  | _, _ => false

/-- A request is held (R206, R338). -/
def State.reqHeld (s : State) (write : Bool) (r : Req) : Bool :=
  match r.from_ with
  | .stream p order =>
    (!r.old && s.openWrites.any (fun q => q.old && q.block == r.block)) ||
    (write && (s.openWrites.any (fun q => q.block == r.block && sameStream q r && reqBefore q r) ||
               (s.stream p).jobs.any (fun j => j.holdsWrite (s.formsYet p) s.clock.cycles order r.block)))
  | _ => false

/-- The request that a port is to present (R199): the oldest that was formed in an earlier cycle and is not held; behind a held
one, the requests of its stream wait. -/
def State.present_ (s : State) (write : Bool) : List Req → List Req → Option Req
  | [], _ => none
  | r :: l, blocked =>
    if s.clock.cycles ≤ r.formed ∨ blocked.any (sameStream r) then s.present_ write l blocked
    else if s.reqHeld write r then s.present_ write l (r :: blocked)
    else some r

/-- The lowest free tag of a port (R199): a tag is free from the cycle after its response on, and a presented request has its own. -/
def Port.freeTag (q : Port) (cycle : Nat) : Option (BitVec 10) :=
  ((List.range 1024).map (BitVec.ofNat 10)).find? (fun t =>
    !q.tags.any (fun e => e.tag == t) && !q.freed.any (fun e => e.1 == t && e.2 == cycle)
      && !q.shownR.any (fun e => e.2 == t) && !q.shownW.any (fun e => e.2 == t))

/-! ## Transfers -/

/-- A stream's request is transferred: the plan records it (R64, R117), and one that waited past its frame is counted
(R213). -/
def State.sentReq (s : State) (write : Bool) (r : Req) : State :=
  match r.from_ with
  | .stream p order =>
    let s1 := s.modJob p order (fun j => { j with plan := j.plan.map (fun b =>
      if b.block = r.block ∧ b.bytes = r.bytes ∧ b.st = .formed then { b with st := .sent } else b) })
    let s2 := if r.tick < s.clock.ticks then s1.count .portLate 1 else s1
    s2.event (if write then 0x08 else 0x07) p.toNat 1
  | .loader gen step m => { s with image := { s.image with loader := s.image.loader.map (fun l =>
      if l.gen = gen ∧ l.step = step then { l with asked := insertNat l.asked m } else l) } }
  | .overlay gen m => { s with image := { s.image with overlays := s.image.overlays.map (fun c =>
      if c.gen = gen then { c with asked := insertNat c.asked m } else c) } }
  | .scrub _ => s

/-- A presented request is transferred with its tag (R37, R199). -/
def State.transfer (s : State) (port : Nat) (write : Bool) (r : Req) (t : BitVec 10) : State :=
  let s1 := s.modPort port (fun q =>
    { q with tags := q.tags ++ [{ tag := t, write := write, req := r, sentTb := s.clock.centre, held := none }]
             freed := q.freed.filter (fun e => e.2 == s.clock.cycles)
             reads := if write then q.reads else q.reads.erase r
             writes := if write then q.writes.erase r else q.writes
             shownR := if write then q.shownR else none
             shownW := if write then none else q.shownW
             afterR := if write then q.afterR else s.clock.cycles + 1
             afterW := if write then s.clock.cycles + 1 else q.afterW })
  s1.sentReq write r

/-- Is any stream Running? -/
def State.anyRunning (s : State) : Bool := allStreams.any (fun p => decide ((s.stream p).ctx.state = .running))

/-- Tags of a port that the loader holds, for images and overlays. -/
def Port.loaderTags (q : Port) : Nat :=
  q.tags.countP (fun e => match e.req.from_ with | .loader _ _ _ => true | .overlay _ _ => true | _ => false)

/-- A read of the loader, presented where no stream request is ready (R319): 8 tags of a port while a stream is Running,
and 128 otherwise. -/
def State.loaderReq (s : State) (port : Nat) : Option Req :=
  if (if s.anyRunning then 8 else 128) ≤ (s.port port).loaderTags then none else
  let mk := fun (f : Requester) (block : Nat) (key : BitVec 8) =>
    ({ from_ := f, block := block, key := key, remote := false, num := 0, tick := s.clock.ticks, formed := s.clock.cycles,
       bytes := [], cells := [], old := false } : Req)
  match s.loaderNext port, s.image.loader with
  | some (gen, step, m), some l => some (mk (.loader gen step m) (l.source.toNat / 512 + m) l.key)
  | _, _ =>
    (s.overlayNext port).map (fun (gen, m, o) => mk (.overlay gen m) (o.source.toNat / 512 + m) s.image.active.key)

/-- Ports that exist, on a machine whose domain SL is powered and clocked (R378). -/
def State.portLive (s : State) (port : Nat) : Bool :=
  decide (port < s.cfg.ports ∧ s.domCur domSL = 0) && match s.unit.state with | .off | .reset => false | _ => true

/-- A port that exists takes responses in every cycle, whatever state SL is in: a response channel has no READY (R38). -/
def State.respLive (s : State) (port : Nat) : Bool :=
  decide (port < s.cfg.ports) && match s.unit.state with | .off | .reset => false | _ => true

/-- The read that a port is to present: a stream's, or else the loader's (R199, R319). -/
def State.shownRead (s : State) (port : Nat) : Option Req :=
  match s.present_ false (s.port port).reads [] with
  | some r => some r
  | none => s.loaderReq port

/-- Block n of a scrub list: its entry, address block and key (R217). -/
def scrubBlock : Nat → List ScrubEntry → Nat → Option (Nat × Nat × BitVec 8)
  | _, [], _ => none
  | i, e :: l, n => if n < e.nblk then some (i, e.base.toNat / 512 + n, e.key) else scrubBlock (i + 1) l (n - e.nblk)

/-- The write that the scrub engine presents at a port: block m of the list at port m mod P, at most 125 in any 128 cycles,
in Scrub alone (R216, R217). -/
def State.scrubReq (s : State) (port : Nat) : Option Req :=
  let c := s.scrub
  if s.unit.state ≠ .scrub ∨ c.status ≠ 2 ∨ c.stopped ∨ 125 ≤ c.recent.countP (fun e => e.1 == port && decide (s.clock.cycles < e.2 + 128)) then none else
  (scrubBlock 0 c.list (port + s.cfg.ports * sparseGet 0 c.sent port)).map (fun (i, block, key) =>
    { from_ := .scrub i, block := block, key := key, remote := false, num := 0, tick := s.clock.ticks
      formed := s.clock.cycles, bytes := [], cells := lanesFrom 0 (List.replicate 512 0), old := false })

/-- A write is transferred; one of the scrub that runs counts as its port's next block (R217). -/
def State.sendWrite (s : State) (port : Nat) (r : Req) (t : BitVec 10) : State :=
  let s1 := s.transfer port true r t
  match r.from_ with
  | .scrub _ =>
    if r.old then s1 else
    let c := s1.scrub
    { s1 with scrub := { c with sent := sparseSet 0 c.sent port (sparseGet 0 c.sent port + 1)
                                recent := (c.recent.filter (fun e => decide (s.clock.cycles < e.2 + 128))) ++ [(port, s.clock.cycles)] } }
  | _ => s1

/-- The write that a port is to present: a stream's, or else the scrub engine's (R199, R217). -/
def State.shownWrite (s : State) (port : Nat) : Option Req :=
  match s.present_ true (s.port port).writes [] with
  | some r => some r
  | none => s.scrubReq port

/-- A port presents a read and a write in this cycle, each with the lowest free tag, and holds them until their transfer; the
read takes the lower tag (R37, R199). Nothing new is presented while Frozen (R393), or once SL is to leave On (R378). -/
def State.presentAt (s : State) (port : Nat) : State :=
  if !s.portLive port ∨ s.domReq domSL ≠ 0 ∨ s.unit.state = .frozen then s else
  let read := fun (s : State) =>
    if (s.port port).shownR.isSome ∨ s.clock.cycles < (s.port port).afterR then s else
    match s.shownRead port, (s.port port).freeTag s.clock.cycles with
    | some r, some t => s.modPort port (fun q => { q with shownR := some (r, t) })
    | _, _ => s
  let write := fun (s : State) =>
    if (s.port port).shownW.isSome ∨ s.clock.cycles < (s.port port).afterW then s else
    match s.shownWrite port, (s.port port).freeTag s.clock.cycles with
    | some r, some t => s.modPort port (fun q => { q with shownW := some (r, t) })
    | _, _ => s
  write (read s)

/-- Every port presents what it can. -/
def State.presentAll (s : State) : State := (List.range s.cfg.ports).foldl State.presentAt s

/-- MEMORY_READ_REQUEST: the host accepts the read that the port presents (R37, R199, R393). -/
def execMemoryReadRequest (port : BitVec 3) (s : State) : Out :=
  let k := port.toNat
  if !s.portLive k then .next s else
  let s1 := s.presentAt k
  match (s1.port k).shownR with
  | some (r, t) => .next (s1.transfer k false r t)
  | none => .next s1

/-- MEMORY_WRITE_REQUEST: the host accepts the write that the port presents (R37, R199, R206, R217, R393). -/
def execMemoryWriteRequest (port : BitVec 3) (s : State) : Out :=
  let k := port.toNat
  if !s.portLive k then .next s else
  let s1 := s.presentAt k
  match (s1.port k).shownW with
  | some (r, t) => .next (s1.sendWrite k r t)
  | none => .next s1

/-! ## Responses -/

/-- A response beyond its class's latency (R212). -/
def State.lateResponse (s : State) (e : Tag) : State :=
  match e.req.from_ with
  | .stream _ _ =>
    let limit := (if e.req.remote then s.regs.latRemote else s.regs.latLocal).toNat
    if limit < (s.clock.centre - e.sentTb).toNat then s.count .memLate 1 else s
  | _ => s

/-- The fault that a response's status brings to its stream waits for the next committing tick (R40). -/
def State.responseFault (s : State) (p : StreamId) (order : Nat) (r : Req) (stat : BitVec 2) : State :=
  let a := BitVec.ofNat 64 (512 * r.block)
  s.faultDue p { pc := (((s.stream p).job order).map (·.pc)).getD 0, code := if stat = 2 then faultPROT else faultECC
                 faddr := a, cause := if stat = 2 then 6 else 0, order := order, checked := false, address := a, status := stat }

/-- The plan's entry of a request is answered. -/
def State.answered (s : State) (p : StreamId) (order : Nat) (r : Req) : State :=
  s.modJob p order (fun j => { j with plan := j.plan.map (fun b =>
    if b.block = r.block ∧ b.bytes = r.bytes ∧ b.st = .sent then { b with st := .answered } else b) })

/-- A tag's response has come: the tag is free from the next cycle on (R199). -/
def State.freeTag (s : State) (port : Nat) (t : BitVec 10) : State :=
  s.modPort port (fun q => { q with tags := q.tags.filter (fun e => e.tag != t)
                                    freed := (q.freed.filter (fun e => e.2 == s.clock.cycles)) ++ [(t, s.clock.cycles)] })

/-- A 16-bit count that saturates (R417). -/
def sat16 (v : BitVec 16) : BitVec 16 := if v = BitVec.allOnes 16 then v else v + 1

/-- What a read response brings its requester (R40, R202, R208, R319, R334, R338). -/
def State.readDone (s : State) (e : Tag) (stat : BitVec 2) (data : List Byte) : State :=
  match e.req.from_ with
  | .stream p order =>
    if e.req.old then { s with regs := { s.regs with discard := sat16 s.regs.discard } } else
    let s1 := s.answered p order e.req
    if stat ≠ 0 then s1.responseFault p order e.req stat else
    if s1.formsYet p && (s1.stream p).writesBefore order then
      s1.modJob p order (fun j => { j with defer := j.defer ++ [(e.req.block, e.req.bytes, data)] })
    else s1.landBlock p order e.req.block e.req.bytes data
  | .loader gen step m => s.loaderBlock gen step m stat data
  | .overlay gen m => s.overlayBlock gen m stat data
  | .scrub _ => s

/-- MEMORY_READ_RESPONSE: a tag that is not outstanding on the channel is discarded and counted (R41); while Frozen the data
is kept with its tag (R393). -/
def execMemoryReadResponse (port : BitVec 3) (tag : BitVec 10) (stat : BitVec 2) (data : List Byte) (s : State) : Out :=
  let k := port.toNat
  if data.length ≠ 512 then .fault .malformedOperand else
  if !s.respLive k then .next s else
  match (s.port k).tags.find? (fun e => e.tag == tag && !e.write && e.held.isNone) with
  | none => .next (s.count .portErr 1)
  | some e =>
    if s.unit.state = .frozen then
      .next (s.modPort k (fun q => { q with tags := q.tags.map (fun x => if x.tag = tag then { x with held := some (stat, data) } else x) }))
    else .next (((s.freeTag k tag).lateResponse e).readDone e stat data)

/-- A write buffer entry whose response has come, and which the tick that closes the frame after its formation has passed,
is freed in the cycle after the later of the two (R205): a core cycle begins so. -/
def State.freeEntries (s : State) : State :=
  { s with ports := s.ports.map (fun q =>
      { q with wbuf := q.wbuf.filter (fun e => !(e.answered && decide (e.tick + 2 ≤ s.clock.ticks))) }) }

/-- A scrub write is answered: the error counts, and an event record for the first failing address of an entry (R217). -/
def State.scrubDone (s : State) (entry : Nat) (r : Req) (stat : BitVec 2) : State :=
  if stat = 0 then s else
  let c := s.scrub
  let s1 : State := { s with scrub := { c with
    errTgt := if stat = 2 then sat16 c.errTgt else c.errTgt
    errData := if stat = 2 then c.errData else sat16 c.errData
    failed := insertNat c.failed entry } }
  if c.failed.contains entry then s1 else s1.coreLog 0x000B entry (512 * r.block) stat.toNat 0

/-- The write buffer entry of a request is answered (R205). -/
def Port.answer (q : Port) (p : StreamId) (order : Nat) (r : Req) : Port :=
  { q with wbuf := q.wbuf.map (fun w =>
      if w.stream = p ∧ w.order = order ∧ w.block = r.block ∧ w.num = r.num ∧ w.tick = r.tick then { w with answered := true } else w) }

/-- What a write response brings its requester (R40, R207, R217). -/
def State.writeDone (s : State) (e : Tag) (stat : BitVec 2) : State :=
  match e.req.from_ with
  | .stream p order =>
    let s1 : State := { s with ports := s.ports.map (fun q => q.answer p order e.req) }
    let s2 := s1.answered p order e.req
    if stat ≠ 0 then s2.responseFault p order e.req stat else s2
  | .scrub entry => if e.req.old then s else s.scrubDone entry e.req stat
  | _ => s

/-- MEMORY_WRITE_RESPONSE (R40, R41, R207). -/
def execMemoryWriteResponse (port : BitVec 3) (tag : BitVec 10) (stat : BitVec 2) (s : State) : Out :=
  let k := port.toNat
  if !s.respLive k then .next s else
  match (s.port k).tags.find? (fun e => e.tag == tag && e.write && e.held.isNone) with
  | none => .next (s.count .portErr 1)
  | some e =>
    if s.unit.state = .frozen then
      .next (s.modPort k (fun q => { q with tags := q.tags.map (fun x => if x.tag = tag then { x with held := some (stat, []) } else x) }))
    else .next (((s.freeTag k tag).lateResponse e).writeDone e stat)

end Sys2Proof.Machine
end

