-- ==== Sys2Proof/Machine/Overlay.lean ====
section
/-! DEFINITION. Overlays (R334, R335): their check, their release at the Control crossing, their install at a tick and their faults;
the status bits of image commands. -/

namespace Sys2Proof.Machine

/-! ## Status of image commands -/

/-- PSI_IMGSTAT bits (R411). -/
def State.imgRefuse (s : State) : State := ({ s with regs := { s.regs with imgRefused := true } } : State).freshBit 0x50 13
def State.imgLate (s : State) : State := ({ s with regs := { s.regs with imgLate := true } } : State).freshBit 0x50 11
def State.imgStale (s : State) : State := ({ s with regs := { s.regs with imgStale := true } } : State).freshBit 0x50 12

/-- More than 65,536 frames in the past (R327). -/
def stale (m now : Frame) : Bool := decide (65536 < (now - m).toNat ∧ (now - m).toNat < 2 ^ 47)

/-! ## Install and fault -/

/-- Words put from a buffer index on; an entry that holds `fill` is not listed (R315). -/
def putWords (fill : BitVec 128) (m : Sparse (BitVec 128)) (i : Nat) : List (BitVec 128) → Sparse (BitVec 128)
  | [] => m
  | w :: ws => putWords fill (sparseSet fill m i w) (i + 1) ws

/-- OVERLAY_FAULT (R335): the stream enters Faulted in action 4, whatever its state. -/
def State.overlayFault (s : State) (p : StreamId) (overlay : BitVec 8) (cause : BitVec 2) : State :=
  (s.modStream p (fun x => { x with ctx := { x.ctx with fault := faultOVERLAY
                                                        faddr := BitVec.ofNat 64 (overlay.toNat + 256 * cause.toNat) } })).complete p true false

/-- Overlay commands that have failed fault their streams at the next tick (R335). -/
def State.overlayFaults (s : State) : State :=
  let bad := s.image.overlays.filter (fun c => c.bad.isSome)
  let s1 : State := { s with image := { s.image with overlays := s.image.overlays.filter (fun c => c.bad.isNone) } }
  bad.foldl (fun s c => match s.overlayKept c.overlay with
    | some o => s.overlayFault o.stream c.overlay (c.bad.getD 0)
    | none => s) s1

/-- Overlay commands that the Control crossing releases (R327, R334). -/
def State.releaseOverlays (s : State) : State :=
  s.image.overlays.foldl (fun s c =>
    if c.ready ∨ s.clock.ctl < c.at_ + 16 then s
    else if stale c.frame s.clock.frame then
      ({ s with image := { s.image with overlays := s.image.overlays.filter (fun d => d.gen != c.gen) } } : State).imgStale
    else
      let l := s.image.overlays.map (fun (d : OverlayCmd) => if d.gen = c.gen then { d with ready := true } else d)
      let s1 : State := { s with image := { s.image with overlays := l } }
      if framePast c.frame s.clock.frame then s1.imgLate else s1) s

/-- The instructions of a buffered overlay. -/
def overlayWords (o : OverlayInfo) (bytes : Mem) : List (BitVec 128) :=
  (List.range ((o.size - 16) / 16)).map (fun i => BitVec.ofNat 128 (readLe bytes (o.offset % 512 + 16 + 16 * i) 16))

/-- An overlay due at this tick: installed where its digest matched, else its stream faults (R334, R335). In Limp, where the loader is
disconnected (R300), one that has been checked is not installed either, and faults its stream with the cause of one that is not checked
(DESIGN CHOICE, log entry 52: the spec names no cause). -/
def State.installOverlay (s : State) (c : OverlayCmd) : State :=
  let s1 : State := { s with image := { s.image with overlays := s.image.overlays.filter (fun d => d.gen != c.gen) } }
  match s1.overlayKept c.overlay with
  | none => s1
  | some o =>
    if c.checked && !s.unit.matrixOff then
      let b := s1.image.bank
      let ws := putWords b.fill b.programs (o.stream.toNat * 8192 + o.dest.toNat) (overlayWords o c.bytes)
      let at_ := 2 * (o.stream.toNat * 8192 + o.dest.toNat)
      State.wroteWords { s1 with image := { s1.image with bank := { b with programs := ws } } } .imageCopies
        ((List.range (2 * (overlayWords o c.bytes).length)).map (· + at_))
    else s1.overlayFault o.stream c.overlay 1

/-- By ascending overlay number. -/
def overlayInsert : List OverlayCmd → OverlayCmd → List OverlayCmd
  | [], c => [c]
  | d :: l, c => if c.overlay < d.overlay then c :: d :: l else d :: overlayInsert l c

/-- Installs due at this committing tick, in ascending overlay number (R334). -/
def State.installOverlays (s : State) : State :=
  if !s.unit.committing then s else
  ((s.image.overlays.filter (fun c => c.ready && c.bad.isNone && framePast c.frame s.clock.frame)).foldl overlayInsert []).foldl
    State.installOverlay s

/-- OVERLAY_CHECKED: the digest of the buffered copy is compared (R334, R335). -/
def execOverlayChecked (s : State) : Out :=
  match s.image.overlays.find? (fun c => !c.checked && c.bad.isNone) with
  | none => .next s
  | some c =>
    if s.unit.state = .frozen ∨ s.unit.matrixOff then .next s else
    match s.overlayKept c.overlay with
    | none => .next s
    | some o =>
      if !(blocksOf (overlayRange o)).all c.got.contains then .next s else
      let ok := sha384 (readBytes c.bytes (o.offset % 512) o.size) == o.digest
      let l := s.image.overlays.map (fun (d : OverlayCmd) =>
        if d.gen = c.gen then (if ok then { d with checked := true } else { d with bad := some 0 }) else d)
      .next { s with image := { s.image with overlays := l } }

end Sys2Proof.Machine
end

