-- ==== Sys2Proof/Machine/Power.lean ====
section
/-! DEFINITION. Domain states with their demand and wake budget (R378 to R384), operating points (R385 to R387), sensor
readings (R388), and F1's policy pass (R307, R308). -/

namespace Sys2Proof.Machine

/-! ## Domains -/

/-- The domains whose state may change (R380): the lane arrays of the configuration, CS, ST, SK, BA and SL. -/
def State.switchable (s : State) : List Nat := List.range s.cfg.arrays ++ [domCS, domST, domSK, domBA, domSL]

/-- A stream uses a domain (R381). -/
def State.usesDomain (s : State) (p : StreamId) (d : Nat) : Bool :=
  s.present p &&
  (decide (d ≤ domCS) || (d == domSL && decide (s.recAt p 32 8 ≠ 0)) || (d == domST && decide (s.recAt p 192 32 ≠ 0)) ||
   (d == domSK && decide (s.recAt p 40 16 ≠ 0)) || (d == domBA && (decide (s.recAt p 56 8 ≠ 0) || decide (s.wellCount p ≠ 0))))

/-- A Setter computation is not yet written (R167). -/
def Stream.setterOpen (x : Stream) : Bool := x.setter.job.isSome || !x.setter.results.isEmpty

/-- A stream has a Sluice request formed, transferred or unanswered (R210). -/
def State.anyRequest (s : State) : Bool :=
  let mine := fun (r : Req) => match r.from_ with | .stream _ _ => true | _ => false
  s.ports.toList.any (fun q => q.reads.any mine || q.writes.any mine || q.tags.any (fun e => mine e.req) || q.shownR.any (fun e => mine e.1)
    || q.shownW.any (fun e => mine e.1))

/-- A memory port has a request formed, presented, transferred or unanswered, of a stream, the loader, an overlay or a scrub: its
domain must stay until the channel's rules are met (R37, R38). -/
def State.portsBusy (s : State) : Bool :=
  s.ports.toList.any (fun q => !q.reads.isEmpty || !q.writes.isEmpty || !q.tags.isEmpty || q.shownR.isSome || q.shownW.isSome)

/-- An access of the Pool window waits (R275, R384). -/
def HeldAct.isPool (a : HeldAct) : Bool :=
  match a with | .access _ _ addr _ _ _ => decide (0x10000000 ≤ addr ∧ addr < 0x14000000) | _ => false

/-- A memory request of a stream is formed or transferred, and not answered (R210). -/
def SluiceJob.open_ (j : SluiceJob) : Bool := j.plan.any (fun b => decide (b.st = .formed ∨ b.st = .sent))

/-- A wake of the stream's domains has begun under R383 and its Start has not yet taken effect. -/
def State.starting (s : State) (p : StreamId) : Bool :=
  (s.stream p).start.isSome || s.crossing.any (fun e => match e.act with | .start q _ => q == p | _ => false)

/-- A domain is in demand (R381); the loader is active also in an exchange, whose staged banks it writes (R336). -/
def State.inDemand (s : State) (d : Nat) : Bool :=
  allStreams.any (fun p => s.usesDomain p d && (decide ((s.stream p).ctx.state = .running) || s.starting p)) ||
  (d == domSL && (allStreams.any (fun p => (s.stream p).jobs.any (·.open_)) || s.portsBusy || s.image.loader.isSome || !s.image.overlays.isEmpty ||
    s.image.exchange.any (fun e => !e.staged))) ||
  (d == domST && (allStreams.any (fun p => (s.stream p).setterOpen) || s.settings.reform.isSome)) ||
  (decide (d < domCS) && s.pool.churn.step.isSome) ||
  s.power.wake.contains d || decide (s.domReq d = 0 ∧ s.domCur d ≠ 0)

/-- The budget of a domain in µs: the smallest among the partitions whose streams use it (R382). -/
def State.domBudget (s : State) (d : Nat) : Option Nat :=
  (allStreams.filter (fun p => s.usesDomain p d)).foldl (fun b p =>
    let v := (s.power.budgets[p.toNat]'(by have := p.isLt; omega)).toNat
    some (match b with | none => v | some w => min v w)) none

/-- PM_DOM_REQ of a domain changes, which it does only while the two fields agree (R45) and never in Frozen (R393); entries to
Retain and Off and wakes from them make a record (R382), by the core that decides or by hardware (`agent`, R309). -/
def State.requestDomain (s : State) (agent d : Nat) (v : BitVec 2) : State :=
  let was := s.domReq d
  if was = v ∨ was ≠ s.domCur d ∨ s.unit.state = .frozen then s else
  let s1 : State := { s with power := { s.power with req := sparseSet 0 s.power.req d v } }
  if 2 ≤ v.toNat ∨ 2 ≤ was.toNat then s1.hwRecord (mkRec 0x000E 3 agent d v.toNat was.toNat 0) else s1

/-- A request of F1's, a privileged act: it waits until the log has room for its record (R304, R311). -/
def State.policyDomain (s : State) (d : Nat) (v : BitVec 2) : State :=
  if s.logRoom then s.requestDomain s.cores.f1.toNat d v
  else if s.domReq d = v ∨ s.domReq d ≠ s.domCur d then s else s.hold (.domain d v)

/-- A wake begins: On is requested now, or in the first cycle in which the fields agree (R383). -/
def State.wakeDomain (s : State) (d : Nat) : State :=
  if s.domReq d = 0 then s
  else if s.domReq d = s.domCur d ∧ s.unit.state ≠ .frozen then s.requestDomain 0xFF d 0
  else { s with power := { s.power with wake := insertNat s.power.wake d } }

def State.wakeDomains (s : State) (ds : List Nat) : State := ds.foldl State.wakeDomain s

/-- The Pool's banks serve DMA in every lane array: it is not Off (R378), and a tick has come since it was (R384). -/
def State.arraysServe (s : State) : Bool :=
  (List.range s.cfg.arrays).all (fun d => decide (s.domCur d ≠ 3 ∧ s.domReq d ≠ 3)) && s.power.onTick.all (fun t => decide (t < s.clock.ticks))

/-- Every domain that a stream uses shows On (R383). -/
def State.domainsOn (s : State) (p : StreamId) : Bool :=
  s.switchable.all (fun d => !s.usesDomain p d || decide (s.domCur d = 0))

/-- What hardware does with the domains at a tick (R380 to R383): in Armed and Running a domain in demand is woken, and one
out of demand is placed in Idle unless its budget is 0; the other states that run frames ask for On. -/
def State.powerTick (s : State) : State :=
  if s.unit.state = .armed ∨ s.unit.state = .running then
    s.switchable.foldl (fun s d =>
      if s.inDemand d then
        let s1 : State := { s with power := { s.power with idle := sparseSet 0 s.power.idle d 0 } }
        s1.wakeDomain d
      else
        let s1 : State := { s with power := { s.power with idle := sparseSet 0 s.power.idle d (sparseGet 0 s.power.idle d + 1) } }
        if s.domBudget d = some 0 then s1.wakeDomain d
        else if s.domReq d = 0 then s1.requestDomain 0xFF d 1 else s1) s
  else if framesRun s.unit.state ∨ s.unit.state = .recovery then s.wakeDomains s.switchable
  else if s.unit.state = .scrub then s.wakeDomain domSL
  else s

/-- Physical Pool bytes that lie in a lane array's banks (R22, R260). -/
def State.inArray (s : State) (d a : Nat) : Bool := a / 32 % s.cfg.banks / 64 == d

/-- A coded word of 8 bytes that a domain holds (R345, R379). -/
def State.wordIn (s : State) (d : Nat) (e : Store × Nat) : Bool :=
  match e.1 with
  | .pool => decide (d < domCS) && s.inArray d (8 * e.2)
  | .tiles => decide (d < domCS) && e.2 % 1024 / 64 == d
  | .settings => d == domST
  | .wells => d == domBA
  | .imageCopies => (d == domSL && decide (descWord 0 ≤ e.2 ∧ e.2 < poolRegionWord 0)) ||
      (d == domCS && decide (e.2 < descWord 0 ∨ seedWord 0 ≤ e.2))
  | _ => false

/-- The contents that a domain loses in Off. -/
def State.loseStores (s : State) (d : Nat) : State :=
  if d < domCS then
    { s with pool := { s.pool with bytes := s.pool.bytes.filter (fun c => !s.inArray d c.1), wbuf := [], marks := [] }
             tiles := s.tiles.filter (fun c => c.1 % 8192 / 512 != d), tileUse := [], tileMarks := [] }
  else if d = domST then { s with settings := { s.settings with bytes := [], valid := [], staged := [] } }
  else if d = domSK then { s with inflight := s.inflight.filter (fun a => match a.act with
      | .sepr _ _ _ _ _ => false | .skim _ _ _ _ _ _ => false | .output _ _ _ _ _ => false | _ => true) }
  else if d = domBA then { s with basin := { wells := [], ptr := [], touched := [], written := [], marks := [] } }
  else if d = domSL then
    { (s.mapStreams (fun _ x => { x with jobs := [] })) with
      image := { s.image with bank := { s.image.bank with descs := [], memRegions := [] } }
      ports := Vector.replicate 8 .idle
      inflight := s.inflight.filter (fun a => match a.act with | .land _ _ _ => false | _ => true) }
  else if d = domCS then { s with image := { s.image with bank := { s.image.bank with programs := [], fill := 0, landings := [], releases := [], seeds := [] } } }
  else s

/-- What a domain loses in Off, so that it is 0, with correct code, on its wake (R345, R379). -/
def State.loseDomain (s : State) (d : Nat) : State :=
  (s.loseStores d).keepEcc (fun e => !s.wordIn d e)

/-- DOMAIN_STATE_CHANGE: PM_DOM_CUR comes to show the requested state (R45); a wake that waited for the fields to agree
is requested (R383). -/
def execDomainStateChange (d : BitVec 5) (s : State) : Out :=
  let k := d.toNat
  if 24 ≤ k ∨ s.unit.state = .off ∨ s.domReq k = s.domCur k then .next s else
  let up := decide (k < domCS ∧ s.domCur k = 3)
  let s1 : State := { s with power := { s.power with cur := sparseSet 0 s.power.cur k (s.domReq k)
                                                     onTick := if up then some s.clock.ticks else s.power.onTick } }
  let s2 := if s1.domCur k = 3 then s1.loseDomain k else s1
  if s2.power.wake.contains k ∧ s2.unit.state ≠ .frozen then
    let s3 : State := { s2 with power := { s2.power with wake := eraseNat s2.power.wake k } }
    .next (s3.requestDomain 0xFF k 0)
  else .next s2

/-! ## Operating points and sensors -/

/-- A change of the operating point: it alters the length of a cycle only (R69). -/
def State.setPoint (s : State) (p : BitVec 3) : State :=
  let old := coreMHz s.clock.point
  let new := coreMHz p
  { s with clock := { s.clock with point := p, tbRem := s.clock.tbRem * new / old, ctlRem := s.clock.ctlRem * new / old } }

/-- Action 3 of R53: an acknowledged request is due at the tick of its named frame, or at the first tick after a late
acknowledgement, whatever frame it opens, which its record marks with CODE 1 (R386). -/
def State.pointTick (s : State) : State :=
  let w := s.power
  if !(w.opOut && w.opAck && (w.opLate || framePast w.opFrame s.clock.frame)) then s else
  let was := s.clock.point
  let s1 : State := { s.setPoint w.opReq with power := { w with opOut := false, opAck := false, opLate := false } }
  s1.fwLog s.cores.f1 0x000F w.opReq.toNat (if w.opLate then s.clock.frame else w.opFrame).toNat was.toNat
    (if w.opLate then 1 else 0)

/-- PM_OP_ACK: in time by offset 1,983 of the frame before the named one (R386). -/
def execPmOpAck (s : State) : Out :=
  if !s.power.opOut || s.power.opAck || decide (s.unit.state = .off) then .next s else
  let late := framePast s.power.opFrame s.clock.frame ||
    (decide (s.power.opFrame = s.clock.frame + 1) && decide (1983 < s.clock.offset))
  .next { s with power := { s.power with opAck := true, opLate := late } }

/-- SENSOR_READING (R388, R430). -/
def execSensorReading (id : BitVec 6) (data : BitVec 16) (s : State) : Out :=
  if s.unit.state = .off ∨ s.unit.state = .reset then .next s
  else if 0x1A ≤ id.toNat then .next (s.count .senseErr 1)
  else
    let s1 : State := { s with power := { s.power with sense := sparseSet 0 s.power.sense id.toNat data } }
    .next (if 0x16 ≤ id.toNat then s1.count .stretch data.toNat else s1)

/-! ## The policy pass -/

/-- The temperature of a sensor in 1/128 °C: reading plus offset trim (R387, R390). -/
def State.temperature (s : State) (id : Nat) : Int :=
  (sparseGet 0 s.power.sense id).toInt + (sparseGet 0 s.repair.offsets id).toInt

/-- The temperature sensors that exist (R388). -/
def State.thermometers (s : State) : List Nat := List.range s.cfg.arrays ++ [0x10, 0x11]

/-- The thermal limit in force: the smaller of TMAX and the limit trim of the current point, if there is one (R387). -/
def State.thermalLimit (s : State) : Int :=
  match s.repair.limits.find? (fun e => e.1 == s.clock.point.toNat) with
  | some e => min s.regs.tmax.toInt e.2.toInt
  | none => s.regs.tmax.toInt

/-- PM_OP_REQ is written, with its record (R304): exactly 8 frames ahead where R386 asks for 8 at least (DESIGN CHOICE, log entry 42), and at most once in 64 frames (R386). -/
def State.requestPoint (s : State) (p : BitVec 3) : State :=
  let recent := match s.power.opTick with | some t => decide (s.clock.ticks < t + 64) | none => false
  if s.power.opOut || recent || decide (p = s.clock.point) then s else
  ({ s with power := { s.power with opReq := p, opFrame := s.clock.frame + 8, opOut := true, opAck := false, opLate := false
                                    opTick := some s.clock.ticks } } : State).fwLog s.cores.f1 0x000F p.toNat
    (s.clock.frame + 8).toNat s.clock.point.toNat 0

/-- A point in the installer's range (R386). -/
def State.inRange (s : State) (p : Nat) : Bool := decide (s.regs.fastest.toNat ≤ p ∧ p ≤ s.regs.slowest.toNat)

/-- F1's request of a point in the installer's range (R386); it waits until the log has room for its record (R304, R311). -/
def State.policyRequest (s : State) (p : Nat) : State :=
  if !s.inRange p then s
  else if s.logRoom then s.requestPoint (BitVec.ofNat 3 p) else s.hold (.point (BitVec.ofNat 3 p))

/-- F1's choice of the operating point (R387). -/
def State.policyPoint (s : State) : State :=
  let limit := s.thermalLimit
  let ids := s.thermometers
  let hot := ids.foldl (fun h i => sparseSet 0 h i (if limit ≤ s.temperature i then sparseGet 0 h i + 1 else 0)) s.power.hot
  let cool := if ids.all (fun i => decide (s.temperature i + 640 ≤ limit)) then s.power.cool + 1 else 0
  let s1 : State := { s with power := { s.power with hot := hot, cool := cool } }
  let at_ := s.clock.point.toNat
  if s.regs.forceSlow then s1.policyRequest s.regs.slowest.toNat
  else if ids.any (fun i => decide (4 ≤ sparseGet 0 hot i)) then s1.policyRequest (at_ + 1)
  else if 64 ≤ cool ∧ 0 < at_ then s1.policyRequest (at_ - 1)
  else s1

/-- The state that F1 asks of a domain: Retain after 64 frames in Idle with a budget of 2 µs or more (R382), Off in Hold and
Scrub for what no load, scrub or clear needs (R380, R384); SL stays while a request of any kind is out (DEDUCED, log entry 74). -/
def State.policyWish (s : State) (d : Nat) : Option (BitVec 2) :=
  match s.unit.state with
  | .armed | .running =>
    let enough := match s.domBudget d with | none => true | some b => decide (2 ≤ b)
    if !s.inDemand d && enough && decide (s.domReq d = 1 ∧ 64 ≤ sparseGet 0 s.power.idle d) then some 2 else none
  | .hold =>
    let needed := (d == domSL && (s.image.loader.isSome || s.portsBusy)) || (decide (d < domCS) && s.held.any (·.isPool))
    if s.unit.initAt.isSome || needed then none else some 3
  | .scrub => if s.scrub.switch.any (fun w => decide (w.1 = .begin)) || d == domSL then none else some 3
  | _ => none

/-- F1's choice of the domain states (R382, R384). -/
def State.policyDomains (s : State) : State :=
  s.switchable.foldl (fun s d => match s.policyWish d with | some v => s.policyDomain d v | none => s) s

/-- F1 sets MEMLATE at a pass at which a latency counter has increased (R307, R408). -/
def State.policyMemory (s : State) : State :=
  let m := s.counter .memLate
  let l := s.counter .landLate
  let s1 : State := { s with power := { s.power with seenMem := m, seenLand := l } }
  if m ≠ s.power.seenMem ∨ l ≠ s.power.seenLand then s1.alertBit 6 else s1

/-- The installer's settings that a policy pass puts in force (R415). -/
def State.policySettings (s : State) : State :=
  { s with power := { s.power with budgets := s.regs.budgets }
           pool := { s.pool with churn := { s.pool.churn with enable := s.regs.churnOn, thresh := s.regs.thresh } } }

/-- A core runs the firmware: CC0 alone once the fallback matrix serves, in Limp and in the Hold that follows it (R300, R301; that F1 on
another core rests there is DEDUCED, log entry 52). -/
def State.coreRuns (s : State) (c : BitVec 2) : Bool :=
  s.cores.assigned && !s.cores.failed.getLsbD c.toNat && (!s.unit.matrixOff || c == 0) && match s.unit.state with
    | .off | .reset | .boot | .frozen => false
    | _ => true

/-- POLICY_PASS: F1's pass when the timebase has passed a multiple of 1,000,000 tb, in the order of R307. -/
def execPolicyPass (s : State) : Out :=
  if s.clock.control < s.power.passAt ∨ !s.coreRuns s.cores.f1 then .next s else
  let s1 : State := { s with power := { s.power with
    passAt := BitVec.ofNat 64 ((s.clock.control.toNat / 1000000 + 1) * 1000000) } }
  .next (s1.policySettings.policyPoint.policyDomains.policyMemory)

end Sys2Proof.Machine
end

