-- ==== Sys2Proof/Machine/Tick.lean ====
section
/-! DEFINITION. The frame tick (R53): commit and rollback of the ending frame (R60 to R66), entry to Recovery (R351) and
exit from it (R353), the operating point and the snapshot. -/

namespace Sys2Proof.Machine

/-! ## Time across a tick -/

/-- What counts offsets goes on from the next frame's offset 0, `len` cycles later. -/
def Stream.shift (x : Stream) (len : Nat) : Stream :=
  { x with next := x.next - len, cascadeEnd := x.cascadeEnd - len, poolEnd := x.poolEnd - len
           poolReadEnd := x.poolReadEnd - len, formatEnd := x.formatEnd - len, sepEnd := x.sepEnd - len
           skimEnd := x.skimEnd - len, basinEnd := x.basinEnd - len, basinReady := x.basinReady - len
           stored := (x.stored.filter (fun w => decide (len < w.others))).map (fun w => { w with own := w.own - len, others := w.others - len }) }

/-- Nothing of the frame occupies a unit any more. -/
def Stream.unitsFree (x : Stream) : Stream :=
  { x with next := 0, cascadeEnd := 0, poolEnd := 0, poolReadEnd := 0, formatEnd := 0, sepEnd := 0, skimEnd := 0
           basinEnd := 0, basinReady := 0, stored := [] }

/-- Cycles of what is on its way, counted from the new offset 0. -/
def State.shiftTime (s : State) (len : Nat) : State :=
  { s with inflight := s.inflight.map (fun a => { a with due := a.due - len })
           pool := { s.pool with wbuf := s.pool.wbuf.map (fun e => { e with own := e.own - len, others := e.others - len }) } }

/-- Is it a Sluice landing, which runs on across ticks (R51)? -/
def Pend.isLand (a : Pend) : Bool := match a.act with | .land _ _ _ => true | _ => false

/-- Bookkeeping that every frame begins anew. -/
def Stream.newFrame (x : Stream) : Stream :=
  { x with done := none, latches := [], lateSeen := none, arrived := [], stuck := false, formedR := 0, formedW := 0
           ctx := { x.ctx with latch := 0 } }

/-! ## Commit -/

/-- A stream's pointers of persistent registers written in the frame move (R434). -/
def State.flipPairs (s : State) : State :=
  let s1 := s.mapStreams (fun p x =>
    let mine := s.tilesWritten.filter (fun k => k / 256 == p.toNat)
    { x with ctx := { x.ctx with pairsel := mine.foldl (fun v k => v ^^^ BitVec.ofNat 256 (2 ^ (k % 256))) x.ctx.pairsel } })
  { s1 with pool := { s1.pool with half := s1.pool.written.foldl (fun h r => sparseSet 0 h r (1 - sparseGet 0 h r)) s1.pool.half }
            basin := { s1.basin with ptr := s1.basin.written.foldl (fun h k => sparseSet 0 h k (1 - sparseGet 0 h k)) s1.basin.ptr } }

/-- Which pairs the frame wrote is forgotten, and wells of a range that is not persistent are clear (R246), with correct code. -/
def State.closePairs (s : State) : State :=
  let ranges := allStreams.flatMap (fun p => if bitOf (s.recAt p 28 1) 0 then [(s.wellBase p, 2 * s.wellCount p)] else [])
  let kept := fun (w : Nat) => ranges.any (fun r => decide (r.1 ≤ w ∧ w < r.1 + r.2))
  ({ s with tilesWritten := [], pool := { s.pool with written := [] }
            basin := { s.basin with touched := [], written := [], wells := s.basin.wells.filter (fun e => kept e.1) } } : State).keepEcc
    (fun e => e.1 != .wells || kept e.2)

/-- A Setter computation whose last cycle has passed has ended (R166). -/
def Stream.setterEnd (x : Stream) (len : Nat) : Stream :=
  match x.setter.job with
  | some j => if j.phase = .computing ∧ j.ends < len then
      { x with setter := { x.setter with job := none, results := x.setter.results ++ [j] } } else x
  | none => x

/-- The faults that waited for a commit (R40, R127, R191): a Running stream raises one; of a stream that has completed, or
of a job from before it did, each is recorded as late (R210). -/
def State.faultsTick (s : State) (p : StreamId) : State :=
  let x := s.stream p
  let s1 := s.modStream p (fun x => { x with faultsDue := [] })
  let gone := fun (d : FaultDue) => match x.job d.order with | some j => j.gone | none => !d.checked
  let late := fun (s : State) (d : FaultDue) => s.lateFault p d.address.toNat d.status.toNat
  if x.ctx.state ≠ .running then x.faultsDue.foldl late s1 else
  let s2 := (x.faultsDue.filter gone).foldl late s1
  match firstDue (x.faultsDue.filter (fun d => !gone d)) with
  | some d => s2.raise p d.code d.faddr.toInt d.cause d.pc
  | none => s2

/-- Something of a job is still on its way. -/
def State.jobLive (s : State) (p : StreamId) (j : SluiceJob) : Bool :=
  j.open_ || !j.defer.isEmpty || s.inflight.any (fun a => a.stream == p && match a.act with | .land o _ _ => o == j.order | _ => false)

/-- The Sluice instructions that a commit keeps: those whose traffic runs on, those of the frame that ended, whose landings
the next frame reads, and those whose request pass waits for an entry (R205). A stream that completed forms no further requests (R210). -/
def State.commitJobs (s : State) (p : StreamId) (ended : Frame) : State :=
  let completed := (s.stream p).ctx.state ≠ .running
  s.modStream p (fun x => { x with jobs := x.jobs.filterMap (fun j =>
    let j1 := if completed then { j with gone := true, phase := .formed } else j
    if s.jobLive p j || (!j.recorded && (if completed then decide (j.frame = ended ∧ j.phase = .formed)
        else decide (j.frame = ended) || (!j.failed && decide (j.phase ≠ .formed)))) then some j1
    else none) })

/-- Action 2 of R53 for a frame that commits (R63, R64, R167, R434). -/
def State.commitFrame (s : State) (ended : Frame) (len : Nat) : State :=
  let dropped := allStreams.foldl (fun n p => n + (s.stream p).suppressed) 0
  let s1 := ((s.mapStreams (fun _ x => { (x.setterEnd len) with effects := [], suppressed := 0 })).flipPairs).commitSetter
  let s2 := (s1.count .poisonDrop dropped).event 0x0F 0 1
  let s3 := s2.shiftTime len
  let s4 := s3.mapStreams (fun _ x => (x.shift len).newFrame)
  let s5 := allStreams.foldl State.faultsTick s4
  allStreams.foldl (fun s p => s.commitJobs p ended) s5

/-! ## Rollback -/

/-- A request of a plan is presented at a port, which holds it until its transfer (R37). -/
def State.presented (s : State) (p : StreamId) (order : Nat) (b : BlockPlan) : Bool :=
  let same := fun (e : Req × BitVec 10) => decide (e.1.from_ = .stream p order ∧ e.1.block = b.block ∧ e.1.bytes = b.bytes)
  s.ports.toList.any (fun q => q.shownR.any same || q.shownW.any same)

/-- A Sluice instruction of the frame that is rolled back (R204): its transferred and presented requests stay, the other formed
ones are formed again; one whose check pass has not ended, or that was suppressed in part, runs both passes afresh. A write instruction
stays also where it has no plan yet, since a later GATH's landing waits for its requests (R208). -/
def State.rolledJob (s : State) (p : StreamId) (j : SluiceJob) : Option SluiceJob :=
  let plan := j.plan.map (fun b =>
    if (b.st = .formed ∧ !s.presented p j.order b) ∨ b.st = .held then { b with st := .waiting } else b)
  let unchecked := decide (j.phase = .issued ∨ (j.phase = .checked ∧ s.clock.cycles < j.from_))
  let again := plan.any (fun b => b.taint || decide (b.st = .suppressed))
  if unchecked && j.plan.isEmpty && !j.writes then none
  else some { j with recorded := true, plan := plan, phase := if unchecked || again then .issued else .checked }

/-- A request of an instruction of the frame. -/
def State.ofFrame (s : State) (ended : Frame) (r : Req) : Bool :=
  !r.old && match r.from_ with
  | .stream p order => ((s.stream p).job order).any (fun j => decide (j.frame = ended))
  | _ => false

/-- Requests of the frame that were formed and neither presented nor transferred leave their queues and write buffers. -/
def State.unform (s : State) (ended : Frame) : State :=
  { s with ports := s.ports.map (fun q =>
      let gone := fun (r : Req) => s.ofFrame ended r && !q.shownR.any (fun e => e.1 == r) && !q.shownW.any (fun e => e.1 == r)
      let out := q.writes.filter gone
      { q with reads := q.reads.filter (fun r => !gone r)
               writes := q.writes.filter (fun r => !gone r)
               wbuf := q.wbuf.filter (fun w => !out.any (fun r => r.from_ == .stream w.stream w.order && r.block == w.block &&
                 r.num == w.num && r.tick == w.tick)) }) }

/-- A wait counted from the frame after: the frame that it was reached in is again the one before. -/
def nextTick (r : Option (Nat × Nat)) : Option (Nat × Nat) := r.map (fun e => (e.1 + 1, e.2))

/-- A wait that the snapshot found reached is an FWAIT's, for which the frame that is re-opened is the next one still (R139); a TWAIT
or CRECV is reached anew. -/
def State.heldWait (s : State) (p : StreamId) : Option (Nat × Nat) :=
  match decodeWord (sparseGet s.image.bank.fill s.image.bank.programs (p.toNat * 8192 + (s.stream p).snap.pc.toNat)) with
  | some (_, .fwait _) => nextTick (s.stream p).reachedSnap
  | _ => none

/-- A stream of the frame that is rolled back (R63, R87, R93). -/
def State.rollStream (s : State) (ended : Frame) (p : StreamId) (x : Stream) : Stream :=
  ({ x with ctx := x.snap, setter := x.setterSnap, suppressed := 0, reached := s.heldWait p, waitDl := none, waitOk := none
            pastEnd := false, order := x.orderSnap
            jobs := x.jobs.filterMap (fun j => if j.frame = ended then s.rolledJob p j else some j) } : Stream).unitsFree.newFrame

/-- Action 2 of R53 for a frame that is rolled back (R60, R63, R64, R204). -/
def State.rollFrame (s : State) (ended : Frame) (len : Nat) (early : Bool) : State :=
  let s1 := s.unform ended
  let s2 : State := { s1 with inflight := s1.inflight.filter Pend.isLand, cycle := { s1.cycle with passing := [] }
                              pool := { s1.pool with wbuf := s1.pool.wbuf.filter (fun e => decide (e.own ≤ len)) }
                              collector := if early then [] else s1.collector }
  let s3 := (s2.shiftTime len).mapStreams (s2.rollStream ended)
  (s3.count .replay 1).event 0x10 0 1

/-- A tick at which no frame commits or rolls back (R62, R352): what a held context waits for lies in the frame after exit (R139,
R353). -/
def State.holdFrame (s : State) (len : Nat) : State :=
  (s.shiftTime len).mapStreams (fun _ x => { (x.shift len).newFrame with reached := nextTick x.reached })

/-! ## The Churn's counts -/

/-- The counts of the frame close (R276): hot runs, and the regions that they queue, the one under re-key among them. -/
def State.churnTick (s : State) : State :=
  let c := s.pool.churn
  let hot := fun (k : Nat) => decide (c.thresh.toNat * sparseGet 0 c.accesses k < 256 * sparseGet 0 c.conflicts k)
  let runs := (c.accesses.filter (fun e => hot e.1)).map (fun e => (e.1, sparseGet 0 c.runs e.1 + 1))
  let full := if c.enable then runs.filter (fun e => decide (4096 ≤ e.2)) else []
  let queue := full.foldl (fun q e => let r := e.1 / 16
                                      insertNat q r)
                 (c.queue.map (·.toNat))
  { s with pool := { s.pool with churn := { c with
      accesses := [], conflicts := [], runs := runs.filter (fun e => !full.contains e), queue := queue.map (BitVec.ofNat 10) } } }

/-! ## Performance counters -/

/-- START and STOP of PSI_PERFCTL (R429). -/
def perfFrame (w : Vector (BitVec 32) 8) (i : Nat) : Frame :=
  BitVec.ofNat 48 ((w[i]?.getD 0).toNat + 2 ^ 32 * (w[i + 1]?.getD 0).toNat)

/-- New contents of PSI_PERFCTL take effect (R397, R429): frames that are past count as late, and stale ones are refused
(R327). -/
def State.perfNew (s : State) : State :=
  match s.perf.next with
  | none => s
  | some w =>
    let f := s.clock.frame
    let a := perfFrame w 4
    let b := perfFrame w 6
    let used := w.toList.take 4 != [0, 0, 0, 0]
    let late := used && ((framePast a f && !stale a f) || (framePast b f && !stale b f))
    let old := used && (stale a f || stale b f)
    let fresh1 := if late then insertNat s.regs.fresh (32 * 0x50 + 11) else s.regs.fresh
    { s with perf := { s.perf with words := w, next := none, on := false, startDue := used && !stale a f, stopDue := used && !stale b f }
             regs := { s.regs with imgLate := s.regs.imgLate || late, imgStale := s.regs.imgStale || old
                                   fresh := if old then insertNat fresh1 (32 * 0x50 + 12) else fresh1 } }

/-- Counting begins and ends at committing ticks (R327, R397). -/
def State.perfTick (s : State) (committing : Bool) : State :=
  let s1 := s.perfNew
  if !committing then s1 else
  let f := s1.clock.frame
  let q := s1.perf
  let q1 := if q.startDue && framePast (perfFrame q.words 4) f then { q with on := true, startDue := false } else q
  let q2 := if q1.stopDue && framePast (perfFrame q1.words 6) f then { q1 with on := false, stopDue := false } else q1
  { s1 with perf := q2 }

/-! ## Action 4 at every tick -/

/-- The context of R89: the entry point, the cursors' start values (R179), the pair pointers as they are. -/
def State.freshCtx (s : State) (p : StreamId) (pairs : BitVec 256) : Ctx :=
  { Ctx.idle with pc := BitVec.ofNat 13 (s.recAt p 2 2), state := .armed, pairsel := pairs
                  dpos := Vector.ofFn (fun i : Fin 8 => BitVec.ofNat 64 (s.recAt p (480 + 8 * i.val) 8)) }

/-- A stream takes the context of R89; what it had under way is given up. That this takes in a Start which waits for its frame is
the model's choice (DESIGN CHOICE, log entry 50). -/
def State.rearm (s : State) (p : StreamId) : State :=
  s.modStream p (fun x => { x with
    ctx := s.freshCtx p x.ctx.pairsel, start := none, reached := none, waitDl := none, waitOk := none, pastEnd := false
    setter := { job := none, results := [], invalidate := [] }
    jobs := x.jobs.map (fun j => { j with gone := true, phase := .formed }) })

/-- Psiuno enters Armed after its initialisation (R89, R328). -/
def State.enterArmed (s : State) : State :=
  let s1 : State := { s with unit := { s.unit with initDone := false, initAt := none, attempt := 0 } }
  (s1.mapStreams (fun p x => if s.present p then { x with ctx := s.freshCtx p 0 } else x)).goto .armed 0

/-- A pending Start takes effect (R91, R383); in Armed the first one makes the unit Running (R326). It is late where F is past,
or was current or past at the tick that released the command, whatever frame a later tick opens (R91, R383). One that was released for a
future F, found its domains not On at the tick that opened F, and starts when a rollback re-opens F is not late (DEDUCED, log entry
50). -/
def State.startStream (s : State) (p : StreamId) : State :=
  let x := s.stream p
  match x.start with
  | none => s
  | some f =>
    if !framePast f s.clock.frame || !s.domainsOn p || !(decide (x.ctx.state = .armed ∨ x.ctx.state = .halted)) then s else
    let late := x.startNow || decide (f ≠ s.clock.frame)
    let s1 := s.modStream p (fun x => { x with start := none, next := 0, startLate := x.startLate || late
                                               ctx := { x.ctx with state := .running } })
    let s1 := if late then s1.freshBit 0x8C p.toNat else s1
    if s1.unit.state = .armed then s1.goto .running 0 else s1

def State.startsDue (s : State) : State := allStreams.foldl State.startStream s

/-- Exit from Recovery, which F2 has signalled, at the first tick at or after READY that presents G, within the 65,536 ticks of
R353. The streams keep the contexts held in Recovery, also where no stream is Running and the unit enters Armed (R352, R353; R89 names
the fresh context for an entry to Armed: DEDUCED, log entry 75). -/
def State.tryResume (s : State) : State :=
  if s.unit.state ≠ .recovery ∨ !s.unit.ready ∨ s.clock.frame ≠ s.unit.resumeG ∨ s.unit.readyTick + 65536 ≤ s.clock.ticks then s else
  let s1 : State := { s with unit := { s.unit with ready := false, attempt := if s.unit.gReplay then s.unit.attempt else 0 } }
  s1.fwGoto s1.cores.f2 (if s1.anyRunning then .running else .armed) 0

/-! ## The step of the tick -/

/-- Action 6 (R53, R102): the snapshot of every stream and of the registers that show it. -/
def State.snapshot (s : State) : State :=
  let s1 := s.mapStreams (fun _ x => { x with
    snap := x.ctx, shown := x.stat, setterSnap := x.setter, orderSnap := x.order, reachedSnap := x.reached
    opened := decide (x.ctx.state = .running) })
  { s1 with perf := { s1.perf with shown := s1.perf.counts } }

/-- Every domain asks for On in Recovery (R380), and the causes and G are shown (R351, R422). The entry is F2's act where its
request is the only cause. -/
def State.enterRecovery (s : State) (g : Frame) (rolled : Bool) (causes : BitVec 5) : State :=
  let s1 : State := { s with unit := { s.unit with causes := 0, resumeG := g, ready := false, gReplay := rolled }
                             recov := { s.recov with cause := causes, probeDue := false, probeTick := none, acted := false } }
  if causes = causeFirmware then (s1.alertBit 5).fwGoto s.cores.f2 .recovery 0 else (s1.alertBit 5).goto .recovery 0

/-- A Recovery cause in Limp leads to Hold (R301, R354). -/
def State.limpFault (s : State) : State :=
  (({ s with unit := { s.unit with causes := 0 } } : State).alertBit 5).goto .hold 0x46

/-- Transitions that follow from the outcome of the ending frame (R326, R351). -/
def State.afterFrame (s : State) (expected : Frame) (rolled : Bool) (causes : BitVec 5) : State :=
  if causes ≠ 0 then (if s.unit.state = .limp then s.limpFault else s.enterRecovery expected rolled causes)
  else if rolled ∧ s.unit.state = .running then s.goto .replay 0
  else if !rolled ∧ s.unit.state = .replay then s.goto .running 0
  else s

/-- An entry of the Control crossing is released at this tick (R67). -/
def State.released (s : State) (e : XEntry) : Bool := decide (e.at_ + 16 ≤ s.clock.ctl)

/-- Recovery requests that this tick releases (R351): the entry takes effect at their release tick. -/
def State.requestedRecovery (s : State) : Bool := s.crossing.any (fun e => s.released e && decide (e.act = .recovery))

/-- The causes of R351 that hold at the closing tick. -/
def State.causesNow (s : State) (early mismatch : Bool) : BitVec 5 :=
  s.unit.causes
    ||| (if s.unit.thirdReq ∨ (early ∧ s.unit.attempt = 2) then causeReplayLimit else 0)
    ||| (if mismatch then causeFrameNumber else 0)
    ||| (if s.requestedRecovery then causeFirmware else 0)

/-- Action 2 with the transitions after it, for a frame that commits or rolls back. -/
def State.closeFrame (s : State) (ended frame : Frame) (len : Nat) : State :=
  let early := decide (len < 2048)
  let rolled := s.unit.replayReq || early
  let expected := if rolled then ended else ended + 1
  let mismatch := decide (frame ≠ expected)
  let causes := s.causesNow early mismatch
  let s1 : State := { s with
    unit := { s.unit with replayReq := false, thirdReq := false, committing := !rolled
                          attempt := if rolled then (if s.unit.attempt = 0 then 1 else 2) else 0 }
    recov := { s.recov with attempts := s.recov.attempts + 1 } }
  let s2 := (if rolled then s1.rollFrame ended len early else s1.commitFrame ended len).closePairs
  let s3 := if mismatch then (s2.count .rowErr 1).alertBit 1 else s2
  s3.churnTick.afterFrame expected rolled causes

/-- A tick in a state in which no frame commits or rolls back. Its frame counts for the Churn (R276). Fault responses that wait wait on
in Recovery, for the commit after it; once Psiuno has left the frames for good they are late (R210; DEDUCED, log entry 58). -/
def State.passFrame (s : State) (len : Nat) : State :=
  let s1 := (({ s with unit := { s.unit with replayReq := false, thirdReq := false, committing := false } } : State).holdFrame len).churnTick
  if s.unit.state = .recovery then s1 else allStreams.foldl State.faultsTick s1

/-- The new frame (R49, R71): its number, its stamp from the Centre region, offset 0. -/
def Clock.newFrame (c : Clock) (frame : Frame) : Clock :=
  { c with frame := frame, stamp := c.centre, offset := 0, ticks := c.ticks + 1 }

/-- An early or late tick slips (R43, R59); the releases of the cycle in which an early one arrives are not made (R60). -/
def State.tickSlip (s : State) (len : Nat) : State :=
  if len = 2048 then s else
  let s1 := s.idlePins
  ({ s1 with pins := { s1.pins with slip := true } } : State).count .slip 1

/-- The freeze tick: actions 1 and 3 run, 2 and 4 to 7 do not; presented requests stay presented (R392, R393). Action 1 takes in
the slip of an early or a late tick (R43, R59; DEDUCED, log entry 15). -/
def State.freezeTick (s0 : State) (frame : Frame) : State :=
  let s := s0.tickSlip s0.clock.offset
  let s1 : State := { s with
    clock := s.clock.newFrame frame
    crossing := s.crossing.filter (fun e => decide (e.act ≠ .freeze))
    dbg := { s.dbg with frozen := true, frame := frame, was := s.unit.state } }
  s1.pointTick.goto .frozen 0

/-- A probe begins at offset 0, once no re-form runs (R349, R424). -/
def State.beginProbe (s : State) : State :=
  if !s.recov.probeDue ∨ s.settings.reform.isSome ∨ s.unit.state ≠ .recovery then s else
  { s with recov := { s.recov with probeDue := false, probeTick := some s.clock.ticks, probeFail := 0, probeDone := false
                                   probeLane := 0, probePass := 0 } }

/-- Spare assignments released at the last tick take effect (R348). -/
def State.laneTick (s : State) : State :=
  { s with repair := { s.repair with
      lanes := s.repair.lanesNext.foldl (fun v w => v.set w.1.toNat w.2 (by have := w.1.isLt; omega)) s.repair.lanes
      lanesNext := [] } }

/-- The record of a load's end, by the image loader, master 4 (R296, R309, R321): like a hardware record it does not wait, and is lost
and counted where the queue is full (DESIGN CHOICE, log entry 17). -/
def State.loadRecord (s : State) (code : BitVec 8) : State :=
  s.hwRecord (mkRec 0x0006 3 4 1 (readLe s.image.shadow.bytes 80 8) code.toNat code.toNat)

/-- A load in progress ends unfinished: its record has no code, and the shadow store is cleared (R321, R327). -/
def State.dropLoad (s : State) : State :=
  if s.image.loader.isNone then s else
  let s1 := (s.loadRecord 0).clearShadow
  { s1 with image := { s1.image with loader := none } }

/-- A write of the scrub engine that has been cut off. -/
def Req.cut (r : Req) : Req := match r.from_ with | .scrub _ => { r with old := true } | _ => r

/-- Scrub is left for Limp, or for want of a core: the scrub ends as cancelled, and a switch ends with it (R326, R416, R418; DEDUCED, log
entry 52). A write that it presents stands until its transfer (R37). -/
def State.cutScrub (s : State) : State :=
  if s.unit.state ≠ .scrub then s else
  { s with
    scrub := { s.scrub with switch := none, status := if s.scrub.status = 1 ∨ s.scrub.status = 2 then 4 else s.scrub.status }
    ports := s.ports.map (fun q => { q with tags := q.tags.map (fun e => { e with req := e.req.cut })
                                            shownW := q.shownW.map (fun e => (e.1.cut, e.2)) }) }

/-- Limp is entered, with CC0 holding F0 and F2; Hold with NO_CORE where CC0 has failed (R301). From here the fallback matrix
alone serves (R300): a load, an initialisation, an exchange, a scrub and a switch are given up, and every domain is woken (R380, log entry 52). -/
def State.enterLimp (s : State) : State :=
  let d := s.dropLoad.cutScrub
  let s0 : State := { d with
    unit := { d.unit with drainTo := none, ready := false, limpDue := false, matrixOff := true, initAt := none, initDone := false, clear := none }
    image := { d.image with exchange := none, staged := .empty }
    settings := { d.settings with staged := [] } }
  if s0.cores.failed.getLsbD 0 then s0.goto .hold 7 else
  (({ s0 with cores := { s0.cores with f0 := 0, f2 := 0, assigned := true } } : State).goto .limp 0).wakeDomains s.switchable

/-- Hold from Recovery, F2's decision, sets the recovery bit of PSI_ALERT (R350, R351, R356, R408). -/
def State.holdRecovery (s : State) (reason : BitVec 8) : State := (s.alertBit 5).fwGoto s.cores.f2 .hold reason

/-- Transitions decided since the last tick, out of states that are left at ticks only (R326); F2's waits, from tick to tick, until the
log has room for its record (R304, R311). -/
def State.dueTransitions (s : State) : State :=
  let s1 := match s.unit.holdDue with
    | some r => if s.unit.state = UnitState.recovery then (if s.logRoom then s.holdRecovery r else s) else { s with unit := { s.unit with holdDue := none } }
    | none => s
  if s1.unit.limpDue then ({ s1 with unit := { s1.unit with limpDue := false } } : State).enterLimp else s1

/-- What takes effect in action 4 at every tick: transitions that are due, entry to Armed, failed overlays, overlay installs and the
completions of those that are not checked (R102, R335), pending Starts, exit from Recovery, Hold for want of a core, which Hold itself does not enter again but for a fault of the matrix (R326). A Start
that waits for the frame that opens goes before a Stop or Clear of the same tick (DESIGN CHOICE, log entry 50). -/
def State.dueAtTick (s0 : State) : State :=
  let s := s0.dueTransitions
  let s1 := if s.unit.initDone then s.enterArmed else s
  let s2 := s1.laneTick.overlayFaults.releaseOverlays.installOverlays.startsDue.tryResume.beginProbe
  if !s2.unit.noCore then s2 else
  let s3 : State := { s2 with unit := { s2.unit with noCore := false } }
  if s2.unit.state = .hold ∧ !s2.unit.matrixOff then s3 else s3.cutScrub.goto .hold 7

/-- The tick of a machine that is not in Off, Reset or Frozen. -/
def State.tick (s : State) (frame : Frame) : State :=
  let len := s.clock.offset
  let ended := s.clock.frame
  let s0 : State := { (s.tickSlip len) with
    clock := s.clock.newFrame frame
    unit := { s.unit with window := true } }
  let s1 := if framesRun s.unit.state then s0.closeFrame ended frame len else s0.passFrame len
  let s2 : State := { s1 with crossing := s1.crossing.filter (fun e => !(s1.released e && decide (e.act = .recovery))) }
  let s3 := (allStreams.foldl State.landDeferred s2).pointTick.perfTick s2.unit.committing
  s3.dueAtTick.snapshot.clearMarks

/-- The first freeze that this tick releases (R391). -/
def State.freezes (s : State) : Bool := s.crossing.any (fun e => s.released e && decide (e.act = .freeze))

/-- ROW_TICK: a frame tick with the sampled ROW_FRAME (R43, R49, R53). Psiuno ignores it in Off and Frozen; in Reset it only
starts the next frame's count. -/
def execRowTick (frame : Frame) (s : State) : Out :=
  if s.clock.offset = 0 then .next s else
  match s.unit.state with
  | .off | .frozen => .next s
  | .reset => .next { s with clock := { s.clock with offset := 0, ticks := s.clock.ticks + 1 } }
  | _ => .next (if s.freezes then s.freezeTick frame else s.tick frame)

end Sys2Proof.Machine
end

