-- ==== Sys2Proof/Machine/Image.lean ====
section
/-! DEFINITION. The image's sections as the internal stores take them (R315 to R318), initialisation (R328), image commands
(R327), staging (R336) and the exchange (R337 to R340). -/

namespace Sys2Proof.Machine

/-! ## Sections -/

/-- The first section of a type and index. -/
def findSection (m : Mem) (type index : Nat) : Option Section :=
  (sections m).find? (fun x => x.type == type && x.index == index)

/-- The bytes of a section, none where it is absent. -/
def sectionBytes (m : Mem) (type index : Nat) : List Byte :=
  match findSection m type index with
  | some x => readBytes m x.offset x.size
  | none => []

/-- A store filled from offset 0; zeros are not listed. -/
def memOf (bs : List Byte) : Mem := (lanesFrom 0 bs).filter (fun c => decide (c.2 ≠ 0))

/-- The value of `n` bytes at an offset of a list. -/
def leAt (bs : List Byte) (o n : Nat) : Nat := leNat ((bs.drop o).take n)

/-- Instruction words of a program section (R315). -/
def programWords (bs : List Byte) : List (BitVec 128) :=
  (List.range (bs.length / 16)).map (fun i => BitVec.ofNat 128 (leAt bs (16 * i) 16))

/-- The word of HALT, which an entry beyond a program's section holds (R315). -/
def haltWord : BitVec 128 := 1

/-- Entries of a schedule section (R317), as many as it holds: landings, then releases. -/
def schedEntries (p : StreamId) (bs : List Byte) : List SchedEntry :=
  (List.range (min (leAt bs 0 2 + leAt bs 2 2) ((bs.length - 16) / 4))).map
    (fun i => let v := leAt bs (16 + 4 * i) 4; ⟨p, v % 2048, BitVec.ofNat 8 (v / 2048)⟩)
def schedLandings (p : StreamId) (bs : List Byte) : List SchedEntry := (schedEntries p bs).take (leAt bs 0 2)
def schedReleases (p : StreamId) (bs : List Byte) : List SchedEntry := (schedEntries p bs).drop (leAt bs 0 2)

/-- The internal stores as an image fills them (R315, R328). -/
def imageBank (m : Mem) : Bank :=
  { streamTable := memOf (sectionBytes m 1 0)
    programs := allStreams.foldl (fun ps p => putWords haltWord ps (p.toNat * 8192) (programWords (sectionBytes m 2 p.toNat))) []
    fill := haltWord
    descs := memOf (sectionBytes m 5 0)
    memRegions := memOf (sectionBytes m 6 0)
    poolRegions := memOf (sectionBytes m 7 0)
    landings := allStreams.flatMap (fun p => schedLandings p (sectionBytes m 8 p.toNat))
    releases := allStreams.flatMap (fun p => schedReleases p (sectionBytes m 8 p.toNat))
    seeds := allStreams.foldl (fun ss p =>
      let bs := sectionBytes m 9 p.toNat
      (List.range (bs.length / 8)).foldl (fun ss i => sparseSet 0 ss (p.toNat * 256 + i) (BitVec.ofNat 64 (leAt bs (8 * i) 8))) ss) [] }

/-- A settings entry (R315): slot, sub-slot number within it, header bytes 2 to 15, and the setting. -/
structure SettingEntry where
  slot  : Nat
  sub   : Nat
  resv  : List Byte
  bytes : List Byte
  deriving DecidableEq, Repr

/-- The settings entries of an image. -/
def settingEntries (c : Configuration) (m : Mem) : List SettingEntry :=
  let z := 16 + usedBytes c (imageBank m).cut
  let bs := sectionBytes m 4 0
  (List.range (bs.length / z)).map (fun i =>
    { slot := leAt bs (z * i) 1, sub := leAt bs (z * i + 1) 1, resv := (bs.drop (z * i + 2)).take 14,
      bytes := (bs.drop (z * i + 16)).take (z - 16) })

/-- A Ledger initial entry (R318): offset, byte 4, bytes 5 to 7, value. -/
structure LedgerEntry where
  offset : Nat
  flags  : Nat
  resv   : Nat
  value  : Nat
  deriving DecidableEq, Repr

def ledgerEntries (m : Mem) : List LedgerEntry :=
  let bs := sectionBytes m 10 0
  (List.range (bs.length / 16)).map (fun i =>
    { offset := leAt bs (16 * i) 4, flags := leAt bs (16 * i + 4) 1, resv := leAt bs (16 * i + 5) 3, value := leAt bs (16 * i + 8) 8 })

/-! ## Settings under SXPOS -/

/-- A block of a sub-slot replaced. -/
def putBlock (blk t : Nat) (b bs : List Byte) : List Byte := bs.take (blk * t) ++ b ++ bs.drop (blk * (t + 1))

/-- The three steps of R161 for one sub-slot of n local lane bits, from the form of q1 to that of q2 (local stages). -/
def reformBytes (n : Nat) (q1 q2 : Option Nat) (bs : List Byte) : List Byte :=
  let blk := 2 ^ n / 16
  let sx := 2 * n - 1
  let zero := List.replicate blk (0 : Byte)
  let blkAt := fun (l : List Byte) (t : Nat) => (l.drop (blk * t)).take blk
  let b1 := match q1 with | some t => putBlock blk t (blkAt bs sx) bs | none => bs
  match q2 with
  | some t => putBlock blk t zero (putBlock blk sx (blkAt b1 t) b1)
  | none => putBlock blk sx zero b1

/-- The byte ranges of a sub-slot that the three steps read, and those that they write (R161). -/
def reformReads (n : Nat) (q1 q2 : Option Nat) : List (Nat × Nat) :=
  ((q1.map (fun _ => 2 * n - 1)).toList ++ q2.toList).map (fun t => (2 ^ n / 16 * t, 2 ^ n / 16))
def reformWrites (n : Nat) (q1 q2 : Option Nat) : List (Nat × Nat) :=
  (q1.toList ++ [2 * n - 1] ++ q2.toList).map (fun t => (2 ^ n / 16 * t, 2 ^ n / 16))

/-- One sub-slot of a cut re-formed in place, from the form of `q1` (R161): only the blocks copied are read (R346), and only those written
hold correct code after it (R345). -/
def State.reformSlot (s : State) (q1 : BitVec 5) (cut n : Nat) : State :=
  let at_ := slotPlace s.cfg cut n
  let l := s.cfg.laneBits - cut
  let q1' := localStage q1 cut
  let q2' := localStage s.settings.sxpos cut
  let s1 := s.readRanges .settings ((reformReads l q1' q2').map (fun r => (at_ + r.1, r.2)))
  let b := reformBytes l q1' q2' (readBytes s.settings.bytes at_ (usedBytes s.cfg cut))
  State.coverWords { s1 with settings := { s1.settings with bytes := writeBytes s1.settings.bytes at_ b } } .settings
    ((reformWrites l q1' q2').flatMap (fun r => lanesFrom (at_ + r.1) ((b.drop r.1).take r.2)))

/-- REFORM_COMPLETE: every valid sub-slot, and every staged one by the cut of its image, has the form of the SXPOS in force
(R103, R161, R336); the engine needs 2,048 c. -/
def execReformComplete (s : State) : Out :=
  match s.settings.reform with
  | none => .next s
  | some q1 =>
    if s.clock.offset < 2047 ∨ s.unit.state = .frozen ∨ s.unit.matrixOff then .next s else
    let s1 := s.settings.valid.foldl (fun s n => s.reformSlot q1 s.cut n) s
    let s2 := s.settings.staged.foldl (fun s n => s.reformSlot q1 s.image.staged.cut n) s1
    .next { s2 with settings := { s2.settings with reform := none } }

/-- Settings entries written in the form that the Store is in (R152, R161). -/
def State.putEntries (s : State) (cut : Nat) (es : List SettingEntry) : State :=
  es.foldl (fun s e =>
    let at_ := slotPlace s.cfg cut (e.slot * 16 + e.sub)
    let bs := reformBytes (s.cfg.laneBits - cut) none (localStage s.storeForm cut) e.bytes
    State.coverWords { s with settings := { s.settings with bytes := writeBytes s.settings.bytes at_ bs } } .settings (lanesFrom at_ bs)) s

/-! ## Initialisation -/

/-- An entry's value for a detector record, without its reserved bits (R17, R288). -/
def LedgerEntry.detector (e : LedgerEntry) : Nat :=
  e.value % 2 ^ 32 % detectorMask (e.offset % 16) + 2 ^ 32 * (e.value / 2 ^ 32 % detectorMask (e.offset % 16 + 4))

/-- A Ledger initial entry's bytes: in an endpoint record only bytes 0 to 3 of the record take the value (R318); reserved bits stay 0 (R17,
R285, R288). -/
def LedgerEntry.write (e : LedgerEntry) : Nat × List Byte :=
  if 0x20000 ≤ e.offset ∧ e.offset < 0x40000 then
    (e.offset, if e.offset % 32 = 0 then leBytes 4 (e.value % 2 ^ 13 + 2 ^ 16 * field e.value 16 5) else [])
  else (e.offset, leBytes 8 (if 0x14000 ≤ e.offset ∧ e.offset < 0x15000 then e.detector else e.value))

/-- Every store of R328, initialised from the active image, whose resident sections are read (R346); the clear engine has cleared the
Pool's banks (R275). Half 0 of a halved region and
the first copy of a persistent well are current then (DESIGN CHOICE, log entry 5). -/
def State.initialise (s0 : State) : State :=
  let m := s0.image.active.bytes
  let s := s0.readRanges .imageStores (imageReads m Section.resident)
  let es := settingEntries s.cfg m
  let s1 : State := { (s.keepEcc (fun e => match e.1 with | .ledger | .wells | .imageCopies => false | _ => true)) with
    image := { s.image with bank := imageBank m }
    settings := { s.settings with valid := [], staged := [] }
    pool := { Pool.zero with bytes := s.pool.bytes, churn := { Churn.idle with enable := s.pool.churn.enable, thresh := s.pool.churn.thresh } }
    ledger := { bytes := [], armed := [], lateArmed := [], portAt := none }
    basin := { wells := [], ptr := [], touched := [], written := [], marks := [] }
    tileUse := [], tileMarks := [], tilesWritten := [] }
  let s2 := s1.putEntries s1.cut es
  let s3 : State := { s2 with settings := { s2.settings with valid := es.foldl (fun l e => insertNat l (e.slot * 16 + e.sub)) [] } }
  let s4 := (ledgerEntries m).foldl (fun s e => s.ledgerSet e.write.1 e.write.2) s3
  s4.mapStreams (fun _ x => { Stream.idle with stat := x.stat, shown := x.shown, refused := x.refused, noEffect := x.noEffect,
                                               startLate := x.startLate, order := x.order, faultsDue := x.faultsDue })

/-- INITIALISATION_COMPLETE, once every domain is requested and shows On and the clear engine is done: the stores hold what R328 says, and
Psiuno enters Armed at the next tick (R275, R328, R380). -/
def execInitialisationComplete (s : State) : Out :=
  if s.unit.initAt.isNone ∨ s.unit.initDone ∨ s.unit.state ≠ .hold ∨ s.unit.clear.isSome ∨
     !s.switchable.all (fun d => decide (s.domReq d = 0 ∧ s.domCur d = 0)) then .next s
  else .next { s.initialise with unit := { s.unit with initDone := true } }

/-! ## Image commands at their release -/

/-- The address of image byte 0 and the key in PSI_IMGSRC (R410). -/
def imgSource (v : BitVec 64) : BitVec 64 := BitVec.ofNat 64 (v.toNat / 512 * 512)
def imgKey (v : BitVec 64) : BitVec 8 := BitVec.ofNat 8 v.toNat

/-- Reasons of Hold that exclude LOAD and ARM (R326, R327): REPAIR_DISAGREE, REPAIR_LOST, NO_CORE, FW_VERIFY, and
LIMP_FAULT, after which the fast matrix is faulted. -/
def holdBarred (r : BitVec 8) : Bool := [5, 6, 7, 8, 0x46].contains r.toNat

/-- Reasons that RELEASE accepts (R327, R354). -/
def releasable (r : BitVec 8) : Bool := r == 9 || (decide (0x40 ≤ r.toNat ∧ r.toNat ≤ 0x7F) && r != 0x46)

/-- LOAD takes effect: the shadow image is discarded, and the loader begins (R319, R320, R327). -/
def State.doLoad (s : State) : State :=
  let ok := (match s.unit.state with
    | .hold => !holdBarred s.unit.reason && !s.unit.matrixOff
    | .armed | .running => true
    | _ => false) && s.image.loader.isNone && s.image.exchange.isNone
  if !ok then s.imgRefuse else
  let g := s.image.gen + 1
  let l : Loader := { gen := g, source := imgSource s.regs.imgSrc, key := imgKey s.regs.imgSrc, step := 0, asked := [], got := [],
                      ovl := [], verdict := none }
  let s0 := s.clearShadow
  let s1 : State := { s0 with image := { s0.image with gen := g, loader := some l } }
  s1.wakeDomain domSL

/-- An initialisation begins: every domain is requested On, and the clear engine is to clear the Pool from its first set-row on (R275,
R328, R380). -/
def State.beginInit (s : State) : State :=
  ({ s with unit := { s.unit with initAt := some s.clock.control, initDone := false, clear := some 0 } } : State).wakeDomains s.switchable

/-- MODEL: words of the active image store have numbers below 2^21, those of the shadow store the next 2^21; they change with
the roles. -/
def State.swapWords (s : State) : State :=
  let f := fun (n : Nat) (e : Store × Nat) => if e.1 == Store.imageStores then (e.1, if e.2 < n then e.2 + n else e.2 - n) else e
  { s with eccBad := s.eccBad.map (f (2 ^ 21)), eccOne := s.eccOne.map (f (2 ^ 21)), eccCover := s.eccCover.map (f (2 ^ 24)) }

/-- ARM: active and shadow change roles; the image that was active is no longer admitted (R327, R328). -/
def State.doArm (s : State) : State :=
  if s.unit.state ≠ .hold ∨ holdBarred s.unit.reason ∨ s.unit.matrixOff ∨ !s.image.shadow.admitted then s.imgRefuse else
  let img := s.image
  ({ s with image := { img with active := { img.shadow with admitted := true }, shadow := { img.active with admitted := false } } } : State).swapWords.beginInit

/-- RELEASE: initialisation from the active image (R327). -/
def State.doRelease (s : State) : State :=
  if s.unit.state ≠ .hold ∨ !releasable s.unit.reason ∨ !s.image.active.present ∨ s.unit.matrixOff then s.imgRefuse
  else s.beginInit

/-- The shadow image writes no slot that a stream of the active image holds (R336). -/
def State.exchangeFits (s : State) : Bool :=
  (settingEntries s.cfg s.image.shadow.bytes).all (fun e => allStreams.all (fun p => decide (s.parts ≤ p.toNat) || !s.hasSlot p e.slot))

/-- EXCHANGE is accepted, and staging begins, for which the loader's domain is woken (R336, R381); the settings of the shadow image are
read to see whose slots they write (R346). -/
def State.doExchange (s0 : State) (f : Frame) : State :=
  if !(s0.unit.state = .armed ∨ s0.unit.state = .running) ∨ !s0.image.shadow.admitted ∨ s0.image.exchange.isSome then s0.imgRefuse
  else if stale f s0.clock.frame then s0.imgStale
  else
  let s := s0.readRanges .imageStores (inShadow (imageReads s0.image.shadow.bytes (fun x => x.type == 4)))
  if !s.exchangeFits then { s.imgRefuse with regs := { s.imgRefuse.regs with imgCode := 0x18 } }
  else
    let s1 := ({ s with image := { s.image with exchange := some ⟨f, false⟩ } } : State).wakeDomain domSL
    if framePast f s.clock.frame then s1.imgLate else s1

/-- STAGING_COMPLETE: the staged banks hold the shadow image, and its settings stand in their sub-slots, still invalid
(R336). -/
def execStagingComplete (s : State) : Out :=
  match s.image.exchange with
  | none => .next s
  | some x =>
    if x.staged ∨ s.unit.state = .frozen ∨ s.unit.matrixOff then .next s else
    let m := s.image.shadow.bytes
    let es := settingEntries s.cfg m
    let s1 := (s.readRanges .imageStores (inShadow (imageReads m (fun x => x.resident && x.type != 10)))).putEntries (imageBank m).cut es
    .next { s1 with image := { s1.image with staged := imageBank m, exchange := some { x with staged := true } }
                    settings := { s1.settings with staged := es.foldl (fun l e => insertNat l (e.slot * 16 + e.sub)) [] } }

/-- A stream stops at this tick, as a Stop command stops it (R92). -/
def State.stopStream (s : State) (p : StreamId) : State :=
  if (s.stream p).ctx.state = .running then s.complete p false true else s

/-- A DRAIN or UNLOAD takes effect (R327). -/
def State.beginDrain (s : State) (c : ImgCmd) : State :=
  let s1 := allStreams.foldl State.stopStream s
  (({ s1 with unit := { s1.unit with drainTo := some (if c = .drain then .armed else .hold), drainTick := s1.clock.ticks } } : State).goto
    .draining 0).wakeDomains s.switchable

/-- DRAIN and UNLOAD at their release (R327): a late one takes effect at that tick, in its place among the commands; the others wait for
their frame. That a late one which a tick with a rollback releases waits for the next commit is the model's reading (DEDUCED, log entry
76). -/
def State.doDrain (s : State) (c : ImgCmd) (f : Frame) : State :=
  if !(s.unit.state = .armed ∨ s.unit.state = .running) then s.imgRefuse
  else if stale f s.clock.frame then s.imgStale
  else
    let late := framePast f s.clock.frame
    let s1 := if late then s.imgLate else s
    if late && s.unit.committing then s1.beginDrain c
    else { s1 with image := { s1.image with waiting := s1.image.waiting ++ [(c, f)] } }

/-- An exchange is cancelled, and what was staged for it dropped. -/
def State.dropExchange (s : State) : State :=
  { s with image := { s.image with exchange := none, staged := .empty }, settings := { s.settings with staged := [] } }

/-- ABORT: the load in progress ends with the shadow store cleared, or the exchange is cancelled (R327); the record of the
load's end has no code (R309, R321). -/
def State.doAbort (s : State) : State :=
  if s.image.loader.isSome then s.dropLoad
  else if s.image.exchange.isSome then s.dropExchange
  else s.imgRefuse

/-- An image command at its release (R327). -/
def State.imageCommand (s : State) (c : ImgCmd) (f : Frame) : State :=
  match c with
  | .load => s.doLoad
  | .arm => s.doArm
  | .release => s.doRelease
  | .exchange => s.doExchange f
  | .drain => s.doDrain .drain f
  | .unload => s.doDrain .unload f
  | .abort => s.doAbort

/-- A DRAIN or UNLOAD whose frame opens at a committing tick takes effect (R327), before the entries that the tick releases; a second
one that is due then waits until Psiuno is Armed again (DESIGN CHOICE, log entry 76). -/
def State.takeDrain (s : State) : State :=
  if !s.unit.committing ∨ !(s.unit.state = .armed ∨ s.unit.state = .running) then s else
  match s.image.waiting.find? (fun w => framePast w.2 s.clock.frame) with
  | none => s
  | some w => ({ s with image := { s.image with waiting := s.image.waiting.erase w } } : State).beginDrain w.1

/-- Draining can end at this tick: it is one after that at which Draining began, and no request and no Setter computation
remains (R327). -/
def State.drained (s : State) : Bool :=
  s.unit.window && decide (s.unit.state = .draining ∧ s.unit.drainTick < s.clock.ticks) && !s.anyRequest &&
    !allStreams.any (fun p => (s.stream p).setterOpen)

/-- Draining ends where it can; Armed finds every stream that the image gives a program in the context of R89. -/
def State.drainStep (s : State) : State :=
  match s.unit.drainTo with
  | none => s
  | some a =>
    if !s.drained then s else
    let s1 : State := { s with unit := { s.unit with drainTo := none } }
    match a with
    | .hold => s1.goto .hold 9
    | .armed => (allStreams.foldl (fun t p => if t.present p then t.rearm p else t) s1).goto .armed 0

/-! ## The exchange -/

/-- Who owns a timer under a bank (R72, R283). -/
inductive TimerOwner where
  | stream (p : StreamId) | host | control
  deriving DecidableEq, Repr

/-- A range of base and count at an offset of the stream table. -/
def Bank.rangeAt (b : Bank) (o n : Nat) : Bool :=
  decide (readLe b.streamTable o 2 ≤ n ∧ n < readLe b.streamTable o 2 + readLe b.streamTable (o + 2) 2)

def Bank.timerOwner (b : Bank) (n : Nat) : TimerOwner :=
  match allStreams.find? (fun p => b.rangeAt (64 + 1024 * p.toNat + 16) n) with
  | some p => .stream p
  | none => if b.rangeAt 12 n then .host else .control

/-- Step 4 (R339): the word of CARRY and STATE of every Armed timer is read (R346); the timer is carried where CARRY is 1 and its owner
stays, else cancelled. -/
def State.carryTimers (s : State) (new : Bank) : State :=
  s.ledger.armed.foldl (fun s n =>
    if bitOf (s.timerCfg n) 2 && decide (s.image.bank.timerOwner n = new.timerOwner n) then s else s.cancelTimer n)
    (s.readLedger (s.ledger.armed.map (fun n => timerAt n + 12)))

/-- A detector record written by an EXCH entry (R340): LEVEL keeps its value where WORD and BIT are unchanged, and else takes
the present value of the bit it now watches; reserved bits stay 0. -/
def State.exchDetector (s : State) (e : LedgerEntry) : State :=
  if e.offset % 16 ≠ 0 then s.ledgerPut e.write.1 e.write.2 else
  let old := s.ledgerLe e.offset 4
  let new := e.detector % 2 ^ 26
  let moved := decide (new % 2 ^ 24 ≠ old % 2 ^ 24)
  let watched := 8 * (new % 2 ^ 18)
  let level := if moved then bitOf (s.ledgerLe watched 8) (field new 18 6) else bitOf old 26
  (s.readLedger (e.offset :: if moved then [watched] else [])).ledgerPut e.offset
    (leBytes 8 (new + (if level then 2 ^ 26 else 0) + e.detector / 2 ^ 32 * 2 ^ 32))

/-- Step 5 (R337): entries with EXCH 1 in section order. -/
def State.exchEntries (s0 : State) (m : Mem) : State :=
  let s := s0.readRanges .imageStores (imageReads m (fun x => x.type == 10))
  ((ledgerEntries m).filter (fun e => bitOf e.flags 0)).foldl (fun s e =>
    if 0x14000 ≤ e.offset ∧ e.offset < 0x15000 then s.exchDetector e else s.ledgerPut e.write.1 e.write.2) s

/-- In-use flags that survive (R281). -/
def State.keptShares (s : State) (new : Bank) : List Nat :=
  s.tileUse.filter (fun k =>
    let p : StreamId := BitVec.ofNat 4 (k / 256)
    let r := k % 256
    decide (new.cut = s.cut) && bitOf (new.recAt p (160 + r / 8) 1) (r % 8) && bitOf (new.recAt p (96 + r / 8) 1) (r % 8) &&
      s.hasReg p r)

/-- Requests of the image that is replaced (R338). -/
def Port.outdate (q : Port) : Port :=
  let o := fun (r : Req) => match r.from_ with | .stream _ _ => { r with old := true } | _ => r
  { q with reads := q.reads.map o, writes := q.writes.map o, tags := q.tags.map (fun e => { e with req := o e.req })
           shownR := q.shownR.map (fun e => (o e.1, e.2)), shownW := q.shownW.map (fun e => (o e.1, e.2)) }

/-- Old data that had come and not landed is discarded and counted (R338). -/
def State.dropLandings (s : State) : State :=
  let n := s.inflight.countP Pend.isLand + allStreams.foldl (fun n p => (s.stream p).jobs.foldl (fun n j => n + j.defer.length) n) 0
  { s with inflight := s.inflight.filter (fun a => !a.isLand), regs := { s.regs with discard := Nat.repeat sat16 n s.regs.discard } }

/-- A stream under the new image (R89, R103, R337 step 6). That a Start which waits for its frame is dropped is the model's choice
(DESIGN CHOICE, log entry 50). -/
def State.exchStream (s : State) (new : Bank) (p : StreamId) (x : Stream) : Stream :=
  let y := { Stream.idle with stat := x.stat, shown := x.shown, refused := x.refused, noEffect := x.noEffect, startLate := x.startLate, order := x.order }
  if !new.present p then y else
  let c := ({ s with image := { s.image with bank := new } } : State).freshCtx p x.ctx.pairsel
  { y with ctx := { c with state := if bitOf (new.recAt p 0 1) 1 then .running else .armed } }

/-- The exchange (R337). -/
def State.exchangeNow (s : State) (x : Exchange) : State :=
  let new := s.image.staged
  let kept := s.keptShares new
  let s1 := (s.dropLandings.carryTimers new).mapStreams (s.exchStream new)
  let img := s1.image
  let s2 : State := { s1 with
    image := { img with bank := new, staged := .empty, active := img.shadow, shadow := img.active, exchange := none, overlays := [] }
    settings := { s1.settings with valid := s1.settings.staged, staged := [] }
    basin := { wells := [], ptr := [], touched := [], written := [], marks := [] }
    tileUse := kept
    pool := { s1.pool with churn := { Churn.idle with enable := s1.pool.churn.enable, thresh := s1.pool.churn.thresh } }
    ports := s1.ports.map Port.outdate }
  let s3 := (s2.swapWords.keepEcc (fun e => e.1 != .wells && e.1 != .imageCopies)).exchEntries s2.image.active.bytes
  let s4 := if x.frame = s3.clock.frame then s3 else s3.imgLate
  let s5 := s4.coreLog 0x0007 4 x.frame.toNat 0 0
  let s6 := s5.wakeDomains (s5.switchable.filter s5.inDemand)
  match s6.unit.state, s6.anyRunning with
  | .armed, true => s6.goto .running 0
  | .running, false => s6.goto .armed 0
  | _, _ => s6

/-- An exchange is due: at the first committing tick at or after the named frame at which staging is complete (R336,
R337). -/
def State.exchangeDue (s : State) : Option Exchange :=
  s.image.exchange.filter (fun x => x.staged && s.unit.window && s.unit.committing && framePast x.frame s.clock.frame &&
    decide (s.unit.state = .armed ∨ s.unit.state = .running))

def State.exchangeStep (s : State) : State := match s.exchangeDue with | some x => (s.exchangeNow x).evalWaits | none => s

end Sys2Proof.Machine
end

