-- ==== Sys2Proof/Machine/Crossing.lean ====
section
/-! DEFINITION. What the Control crossing releases at a tick (R53 action 4, R67): records, stream commands (R91), image
commands (R327), overlays (R334), the commands of Recovery; and the frame timers of action 5 (R76). -/

namespace Sys2Proof.Machine

/-- A bit of PSI_STRMCTLSTAT (R91, R412); a stream number of k or more has no other trace. -/
def State.cmdRefused (s : State) (p : StreamId) : State := (s.modStream p (fun x => { x with refused := true })).freshBit 0x88 p.toNat
def State.cmdNoEffect (s : State) (p : StreamId) : State :=
  (s.modStream p (fun x => { x with noEffect := true })).freshBit 0x88 (16 + p.toNat)

/-- The state of R91: a stream number of k or more is treated as Idle (R412). -/
def State.commandState (s : State) (p : StreamId) : StreamState :=
  if s.parts ≤ p.toNat then .idle else (s.stream p).ctx.state

/-- Start at its release (R91): the stream runs from the tick that opens F, or from this one. That a second Start replaces one
which waits is the model's choice (DESIGN CHOICE, log entry 50). -/
def State.doStart (s : State) (p : StreamId) (f : Frame) : State :=
  match s.commandState p with
  | .armed | .halted => (s.modStream p (fun x => { x with start := some f, startNow := framePast f s.clock.frame })).startStream p
  | .running => s.cmdNoEffect p
  | .faulted | .idle => s.cmdRefused p

/-- Stop at its release (R91, R92, R93). -/
def State.doStop (s : State) (p : StreamId) : State :=
  match s.commandState p with
  | .running => s.stopStream p
  | .armed | .halted | .faulted => s.cmdNoEffect p
  | .idle => s.cmdRefused p

/-- Clear at its release (R91): the context of R89. -/
def State.doClear (s : State) (p : StreamId) : State :=
  match s.commandState p with
  | .halted | .faulted => s.rearm p
  | .running => s.cmdRefused p
  | .armed => s.cmdNoEffect p
  | .idle => s.cmdRefused p

/-- SXPOS changes; the Store keeps the old form until the re-form is complete (R161). A write of the value in force changes nothing, and no
re-form begins; a change is an action of Recovery after which a failing probe decides no more (R350). -/
def State.doSxpos (s : State) (v : BitVec 5) : State :=
  { s with settings := { s.settings with sxpos := v, reform := if v = s.settings.sxpos then s.settings.reform
                                                                 else some (s.settings.reform.getD s.settings.sxpos) }
           recov := { s.recov with acted := s.recov.acted || v != s.settings.sxpos } }

/-- The value of a word of PSI_LANESPARE that the next tick finds. -/
def State.laneWord (s : State) (w : BitVec 3) : BitVec 32 :=
  match s.repair.lanesNext.reverse.find? (fun e => e.1 == w) with
  | some e => e.2
  | none => s.repair.lanes[w.toNat]'(by have := w.isLt; omega)

/-- A resume request is released: READY is set (R353). -/
def State.doResume (s : State) : State :=
  if s.unit.state ≠ .recovery ∨ s.unit.ready then s else
  ({ s with unit := { s.unit with ready := true, readyTick := s.clock.ticks } } : State).tryResume

/-- A probe command is released (R349). -/
def State.doProbe (s : State) : State :=
  if s.unit.state ≠ .recovery then s else { s with recov := { s.recov with probeDue := true } }

/-- One entry at its release. Records, requests of Recovery and freezes take effect elsewhere in the step. -/
def State.applyEntry (s : State) (e : XEntry) : State :=
  match e.act with
  | .start p f => s.doStart p f
  | .stop p => s.doStop p
  | .clear p => s.doClear p
  | .image c f => s.imageCommand c f
  | .sxpos v => s.doSxpos v
  | .laneSpare w v => { s with repair := { s.repair with lanesNext := s.repair.lanesNext ++ [(w, v)] }
                               recov := { s.recov with acted := s.recov.acted || v != s.laneWord w } }
  | .probe => s.doProbe
  | .resume => s.doResume
  | .record _ => s
  | .recovery => s
  | .freeze => s

/-- Records that a tick releases, in ascending KIND (R311). -/
def recInsert : List LogRec → LogRec → List LogRec
  | [], r => [r]
  | q :: l, r => if r.kind < q.kind then r :: q :: l else q :: recInsert l r

/-- DRAIN and UNLOAD that are due take effect; then every entry that was enqueued at least 16 control cycles before the tick is
released, in the order of writing (R53 action 4, R67, R327). Overlays have been released and installed before (R102). -/
def State.crossingStep (s : State) : State :=
  let now := s.crossing.filter s.released
  let recs := now.foldl (fun l e => match e.act with | .record r => recInsert l r | _ => l) []
  let s1 : State := { s with crossing := s.crossing.filter (fun e => !s.released e) }
  (now.foldl State.applyEntry (recs.foldl State.hwRecord s1).takeDrain).beginProbe

/-- CONTROL_CROSSING_RELEASE: what the tick releases takes effect (R53 action 4, R67). -/
def execControlCrossingRelease (s : State) : Out := .next (if s.unit.window then s.crossingStep.snapshot else s)

/-- ON_LINE_EXCHANGE: the exchange that is due takes place, after what the tick releases (R53, R337). -/
def execOnLineExchange (s : State) : Out :=
  let s1 := s.crossingStep
  .next (if s.unit.window && s1.exchangeDue.isSome then s1.exchangeStep.snapshot else s)

/-- DRAIN_COMPLETE: Draining ends, after what the tick releases (R53, R327). -/
def execDrainComplete (s : State) : Out :=
  let s1 := s.crossingStep.exchangeStep
  .next (if s.unit.window && s1.unit.drainTo.isSome && s1.drained then s1.drainStep.snapshot else s)

/-- The frames of R353 have passed without the one that G names. -/
def State.resumeLate (s : State) : Bool :=
  decide (s.unit.state = .recovery) && s.unit.ready && s.unit.window && decide (s.unit.readyTick + 65536 ≤ s.clock.ticks)

/-- Action 4 of R53, whole: what remains of it at this tick. -/
def State.action4 (s : State) : State :=
  let s1 := s.crossingStep.exchangeStep.drainStep
  if s1.resumeLate then s1.holdRecovery 0x44 else s1

/-- Action 5 of R53 for the timers below `n`: those that are due fire, in ascending number. -/
def State.fireBelow (s : State) (n : Nat) : State :=
  (s.ledger.armed.filter (fun k => decide (k < n) && s.timerDue k)).foldl State.fireTimer s

/-- The step of a tick ends: whatever of actions 4 to 6 no command has yet done is done, before anything reads what it leaves
(R53); the domains follow the demand that action 4 leaves (R381, R382). -/
def State.closeTick (s : State) : State :=
  if !s.unit.window then s else
  let s1 := (s.action4.powerTick.fireBelow 1024).evalWaits.snapshot
  { s1 with unit := { s1.unit with window := false } }

/-- What comes before an instruction of stream p in its cycle: the step of the tick, and the accesses of the Ledger that precede those
of p (R53, R284). -/
def State.turn (s : State) (p : StreamId) : State := s.closeTick.portA p

/-- COMPLETION_WORD_WRITE: the collector's turn, after the step of the tick and the accesses of port A (R54, R94, R284). -/
def execCompletionWordWrite (s : State) : Out := .next s.closeTick.portAEnd.collect

/-- The state in which timer n fires: after action 4, and after the timers of lower number (R53). -/
def State.beforeTimer (s : State) (n : Nat) : State := s.action4.fireBelow n

/-- FRAME_TIMER_FIRE: timer n fires at the tick at which it is due (R53 action 5, R76). -/
def execFrameTimerFire (n : BitVec 10) (s : State) : Out :=
  let s1 := s.beforeTimer n.toNat
  if s.unit.window && s1.timerDue n.toNat then .next (s1.fireTimer n.toNat).evalWaits.snapshot else .next s

end Sys2Proof.Machine
end

