-- ==== Sys2Proof/Machine/Background.lean ====
section
/-! DEFINITION. What runs in the cycles that streams leave free: the Churn's re-key steps (R277) and the patrol (R346). -/

namespace Sys2Proof.Machine

/-- The core regions' machines run: not without power or clocks, and not while Frozen (R392). -/
def State.coresLive (s : State) : Bool :=
  match s.unit.state with | .off | .reset | .frozen => false | _ => true

/-! ## The Churn -/

/-- Physical words (a / 32) of the relative set-rows that step q re-keys, by half and copy: old place and new place. -/
def State.rekeyMoves (s : State) (k : Rekey) : List (Nat × Nat) :=
  let r := k.region.toNat
  let g := s.image.bank.region r
  let next : State := { s with pool := { s.pool with churn := { s.pool.churn with step := some { k with step := k.step + 1 } } } }
  let nb := s.setBanks
  (s.copySets r).flatMap (fun set => (List.range (if g.halved then 2 else 1)).flatMap (fun h =>
    ((List.range g.rows).filter (fun row => row % 8 == k.step)).flatMap (fun row => (List.range nb).map (fun col =>
      let o := 32 * (row * nb + col)
      (s.poolAddr r set h o / 32, next.poolAddr r set h o / 32)))))

/-- The banks whose instruction ports a step takes: a cycle for the read and one for the write of each set-row, so that its set-rows follow
each other (R261, R277). -/
def State.rekeyBanks (s : State) (k : Rekey) : List Nat := (s.rekeyMoves k).flatMap (fun m => [m.1 % s.cfg.banks, m.2 % s.cfg.banks])

/-- Set-rows of a copy that a step re-keys, in both halves. -/
def State.rekeyRows (s : State) (k : Rekey) : Nat :=
  let g := s.image.bank.region k.region.toNat
  (if g.halved then 2 else 1) * ((List.range g.rows).filter (fun row => row % 8 == k.step)).length

/-- A step has the ports it needs: it ends by offset 2,031 (R52), and none of its banks has served in the cycle or drains a word
(R261, R271). -/
def State.rekeyFits (s : State) (k : Rekey) : Bool :=
  decide (s.clock.offset + 2 * s.rekeyRows k ≤ 2032) && (s.rekeyBanks k).all (fun b => !s.drainSets.cycle.banks.contains b)

/-- Where a physical byte lies after the moves. -/
def movedTo (moves : List (Nat × Nat)) (a : Nat) : Nat :=
  match moves.find? (fun m => m.1 == a / 32) with
  | some m => 32 * m.2 + a % 32
  | none => a

/-- Step q of a re-key: the words move with their codes, flipped bits corrected on the way (R277, R346). -/
def State.rekeyStep (s : State) (k : Rekey) : State :=
  let moves := s.rekeyMoves k
  let moved := fun (w : Nat) => moves.any (fun m => m.1 == 8 * w / 32)
  let fixed := (s.eccOne.filter (fun e => e.1 == Store.pool && moved e.2)).map (·.2)
  let s1 := s.readCorrect .pool fixed
  { s1 with
    pool := { s1.pool with
      bytes := writeCells [] (s1.pool.bytes.map (fun c => (movedTo moves c.1, c.2)))
      wbuf := s1.pool.wbuf.map (fun e => { e with cells := e.cells.map (fun c => (movedTo moves c.1, c.2)) })
      churn := { s1.pool.churn with step := some { k with step := k.step + 1 }, stepTick := some s1.clock.ticks } }
    eccBad := s1.eccBad.map (fun e => if e.1 == Store.pool then (e.1, movedTo moves (8 * e.2) / 8) else e)
    eccCover := s1.eccCover.map (fun e => if e.1 == Store.pool then (e.1, movedTo moves e.2) else e)
    eccOne := s1.eccOne.filter (fun e => !(e.1 == Store.pool && moved e.2)) }

/-- The re-key is complete: its key is in force, with a record that names the key's generation, and PSI_CHURNCNT (R277, R312). -/
def State.rekeyEnd (s : State) (k : Rekey) : State :=
  let c := s.pool.churn
  let r := k.region.toNat
  let gen := sparseGet 0 c.gens r + 1
  let s1 : State := { s with pool := { s.pool with churn := { c with
    step := none, keys := sparseInsert (sparseErase c.keys r) r k.key, gens := sparseSet 0 c.gens r gen } } }
  (s1.count .churn 1).coreLog 0x000C r k.frame.toNat gen.toNat 0

/-- The re-key whose step is due, where this frame has had none: the one under way, or the queued region of the lowest number
(R52, R276, R277). -/
def State.rekeyDue (s : State) : Option Rekey :=
  let c := s.pool.churn
  if c.stepTick = some s.clock.ticks then none else
  match c.step with
  | some k => some k
  | none => c.queue.head?.map (fun r =>
      let cur := sparseGet (s.image.bank.region r.toNat).key c.keys r.toNat
      { region := r, key := mix64 (cur ^^^ s.clock.frame.setWidth 64), frame := s.clock.frame, step := 0 })

/-- CHURN_REKEY_STEP: one step in a frame, at offsets 2,000 to 2,031, where frames run (R52, R277, R352), once its banks are free: it takes
them for two cycles a set-row (R261), in which no agent sees how far it is; the first is a demand that wakes the lane arrays (R381, R383). -/
def execChurnRekeyStep (s : State) : Out :=
  if !framesRun s.unit.state ∨ s.clock.offset < 2000 ∨ 2031 < s.clock.offset then .next s else
  match s.rekeyDue with
  | none => .next s
  | some k =>
    if !s.rekeyFits k then .next s else
    let c := s.pool.churn
    let s1 : State := { s with pool := { s.pool with churn := { c with queue := if c.step.isSome then c.queue else c.queue.tail } } }
    let s2 := (if k.step = 0 then (s1.rekeyStep k).wakeDomains (List.range s.cfg.arrays) else s1.rekeyStep k).takeBanks (s.rekeyBanks k)
    .next (if k.step = 7 then s2.rekeyEnd k else s2)

/-! ## The patrol -/

/-- A Pool word holds a pending write. -/
def State.pendingWord (s : State) (w : Nat) : Bool := s.pool.wbuf.any (fun e => e.cells.any (fun c => c.1 / 8 == w))

/-- PATROL: a word read; a flipped bit is corrected, counted and written back, but for a Pool word that holds a pending
write (R346). -/
def execPatrol (store : Store) (word : Nat) (s : State) : Out :=
  if !s.coresLive ∨ !s.eccOne.contains (store, word) ∨ s.uncorrectable store word then .next s else
  let s1 := s.readCorrect store [word]
  if store == Store.pool && s.pendingWord word then .next s1
  else .next (s1.wroteWords store [word])

end Sys2Proof.Machine
end

