-- ==== Sys2Proof/Machine/Registers.lean ====
section
/-! DEFINITION. The PSI_ registers as a read returns them (R399, R400, R404 to R433), the log's slots (R309, R310, R428)
and the context block (R394). -/

namespace Sys2Proof.Machine

/-! ## Layouts -/

/-- The 64 bytes of a record (R309). -/
def LogRec.bytes (r : LogRec) : List Byte :=
  let b := leBytes 8 r.seq.toNat ++ leBytes 8 r.tb.toNat ++ leBytes 6 r.frame.toNat ++ leBytes 2 r.kind.toNat ++ [r.role.setWidth 8, r.agent]
    ++ leBytes 2 0 ++ leBytes 8 r.addr.toNat ++ leBytes 8 r.value.toNat ++ leBytes 8 r.aux.toNat ++ leBytes 8 r.code.toNat
  b ++ leBytes 4 (crc32c b).toNat

/-- Slots of the event log (R309). -/
def logSlots : Nat := 8192

/-- The committed record of a SEQ, where its slot holds one (R310, R428). -/
def Log.committed (l : Log) (seq : BitVec 64) : Option LogRec :=
  let k := seq.toNat % logSlots
  match l.slots.find? (fun e => e.1 == k) with
  | some e => if e.2.seq = seq ∧ sparseGet 0 l.commit k = seq ∧ seq ≠ 0 then some e.2 else none
  | none => none

/-- Highest committed SEQ, 0 where none is. -/
def Log.highest (l : Log) : Nat :=
  l.slots.foldl (fun m e => if sparseGet 0 l.commit e.1 = e.2.seq then max m e.2.seq.toNat else m) 0

/-- The context block of a stream (R394): 256 bytes. -/
def Ctx.bytes (c : Ctx) : List Byte :=
  padTo 256 (leBytes 2 c.pc.toNat ++ [BitVec.ofNat 8 (streamCode c.state), c.fault] ++ c.loop.toList.flatMap (fun v => leBytes 4 v.toNat)
    ++ c.lstart.toList.flatMap (fun v => leBytes 2 v.toNat) ++ leBytes 4 0 ++ leBytes 8 c.faddr.toNat
    ++ c.dpos.toList.flatMap (fun v => leBytes 8 v.toNat) ++ leBytes 32 c.pairsel.toNat ++ leBytes 4 c.effseq.toNat ++ [c.latch.setWidth 8])

/-- The block of R413: 0 for an Idle stream and for a stream number of k or more. -/
def State.snapBlock (s : State) (p : StreamId) : List Byte :=
  let c := (s.stream p).snap
  if s.parts ≤ p.toNat ∨ c.state = .idle then List.replicate 256 0 else c.bytes

/-- The words of PSI_STRMSTAT (R413). -/
def StrmStat.words (x : StrmStat) : List Nat :=
  [x.waitTo.toNat, x.fwLate.toNat, x.setRef.toNat, x.skNan.toNat, x.headroom.toNat, x.anchorMiss.toNat, x.protCause.toNat]

/-- A core holds a function (R292). -/
def State.holdsFunction (s : State) (c : BitVec 2) : Bool :=
  s.cores.assigned && (s.cores.f0 == c || s.cores.f1 == c || s.cores.f2 == c)

def natBit (b : Bool) (i : Nat) : Nat := if b then 2 ^ i else 0

/-- A mask of Booleans. -/
def maskOf (l : List Bool) : Nat := (l.mapIdx (fun i b => natBit b i)).foldl (· + ·) 0

/-! ## Registers by word -/

/-- A word of a wide value. -/
def wordOf (v w : Nat) : Nat := v / 2 ^ (32 * w) % 2 ^ 32

/-- The failures recorded before the present cycle, which its reads show (R16). -/
def State.failsBefore (s : State) : List CFail := s.recov.fails.filter (fun f => decide (f.cycle ≠ s.clock.cycles))

/-- PSI_RECOVSTAT (R422). -/
def State.recovStat (s : State) : Nat :=
  s.recov.cause.toNat + natBit s.unit.ready 8 + 2 ^ 32 * s.unit.resumeG.toNat + match s.failsBefore with
  | f :: _ => 2 ^ 96 * f.slot.toNat + 2 ^ 112 * f.part.toNat + 2 ^ 116 * f.off.toNat + 2 ^ 128 * f.frame.toNat + 2 ^ 191
  | [] => 0

/-- PSI_IMGSTAT (R411). -/
def State.imgStat (s : State) : Nat :=
  let r := s.regs
  r.imgCode.toNat + natBit s.image.loader.isSome 8 + natBit s.image.shadow.admitted 9 + natBit s.image.exchange.isSome 10
    + natBit r.imgLate 11 + natBit r.imgStale 12 + natBit r.imgRefused 13 + natBit r.ovFull 14 + 2 ^ 16 * r.discard.toNat
    + 2 ^ 32 * r.imgDetail.toNat

/-- PSI_SCRUBSTAT (R417). -/
def State.scrubStat (s : State) : Nat :=
  let c := s.scrub
  c.status.toNat + 2 ^ 8 * c.reason.toNat + natBit c.refused 12 + 2 ^ 16 * c.entry.toNat + 2 ^ 32 * c.errData.toNat + 2 ^ 48 * c.errTgt.toNat

/-- PSI_CCMAP (R425). -/
def State.ccMap (s : State) : Nat :=
  let c := s.cores
  c.f0.toNat + 4 * c.f1.toNat + 16 * c.f2.toNat + 64 * c.stby.toNat + natBit c.noStby 8 + 2 ^ 12 * c.failed.toNat

/-- The in-use flags of a stream's shares (R279, R421). -/
def State.tileFlags (s : State) (p : Nat) : Nat :=
  if s.parts ≤ p then 0 else
  (s.tileUse.filter (fun k => k / 256 == p)).foldl (fun v k => v + 2 ^ (k % 256)) 0

/-- The validity bits of a slot (R419). -/
def State.validFlags (s : State) (slot : Nat) : Nat := maskOf ((List.range s.parts).map (fun u => s.settingValid (slot * 16 + u)))

/-- PSI_LOGSTAT and PSI_LOGDATA for a master's selection (R428). -/
def State.logStat (s : State) (id : Nat) : Nat :=
  natBit (s.log.committed (sparseGet 0 s.regs.logIdx id)).isSome 0 + 2 ^ 64 * s.log.highest + 2 ^ 128 * s.ao.truncSeq.toNat
def State.logData (s : State) (id : Nat) : Nat :=
  match s.log.committed (sparseGet 0 s.regs.logIdx id) with | some r => leNat r.bytes | none => 0

/-- The timebase as the Control region reads it: PSI_TB, and the time CSR and rdtime of every core (R70, R291). -/
def State.timeCsr (s : State) : BitVec 64 := s.clock.control

/-- The present value of the word at an offset, as master `id` sees it (R399 to R433). -/
def State.regWord (s : State) (id off : Nat) : Nat :=
  let r := s.regs
  let w := fun (base : Nat) => (off - base) / 4
  let pair := fun (f : Nat → Nat) (base : Nat) => f (2 * w base) % 65536 + 65536 * (f (2 * w base + 1) % 65536)
  if off = 0x0 then s.cfg.arrays + 2 ^ 8 * s.sliceCount + 2 ^ 12 * s.fuses.revision.toNat + 2 ^ 16 * s.cfg.part.toNat
  else if off = 0x4 then unitCode s.unit.state + 2 ^ 8 * s.unit.reason.toNat + 2 ^ 16 * s.unit.attempt.toNat
  else if off < 0x10 then wordOf s.clock.frame.toNat (w 0x8)
  else if off < 0x18 then wordOf s.clock.stamp.toNat (w 0x10)
  else if off < 0x20 then wordOf s.timeCsr.toNat (w 0x18)
  else if off = 0x20 then r.alert.toNat
  else if 0x28 ≤ off ∧ off < 0x30 then wordOf s.repair.bootstat.toNat (w 0x28)
  else if 0x48 ≤ off ∧ off < 0x50 then wordOf r.imgSrc.toNat (w 0x48)
  else if 0x50 ≤ off ∧ off < 0x58 then wordOf s.imgStat (w 0x50)
  else if off = 0x88 then maskOf (s.streams.toList.map (·.refused)) + 2 ^ 16 * maskOf (s.streams.toList.map (·.noEffect))
  else if off = 0x8C then maskOf (s.streams.toList.map (·.startLate))
  else if off = 0x100 then r.partLimit.toNat
  else if off = 0x104 then r.memRead.toNat + 2 ^ 16 * r.memWrite.toNat
  else if off = 0x108 then r.latLocal.toNat + 2 ^ 16 * r.latRemote.toNat
  else if off = 0x10C then r.fastest.toNat + 2 ^ 4 * r.slowest.toNat + natBit r.forceSlow 8 + 2 ^ 16 * r.tmax.toNat
  else if off = 0x110 then natBit r.churnOn 0 + natBit r.churnAllow 1 + 2 ^ 8 * r.thresh.toNat
  else if 0x120 ≤ off ∧ off < 0x140 then pair (fun i => (r.budgets[i]?.getD 0).toNat) 0x120
  else if 0x148 ≤ off ∧ off < 0x150 then wordOf s.scrubStat (w 0x148)
  else if off = 0x150 then s.ao.tenant.toNat
  else if off = 0x154 then s.ao.consent.toNat
  else if off = 0x180 then s.settings.sxpos.toNat
  else if off = 0x184 then
    let sel := (sparseGet 0 r.setSel id).toNat
    sel + 2 ^ 16 * s.validFlags sel
  else if 0x1A0 ≤ off ∧ off < 0x1C0 then (s.repair.lanes[w 0x1A0]?.getD 0).toNat
  else if 0x1C0 ≤ off ∧ off < 0x1E4 then
    let sel := (sparseGet 0 r.tileSel id).toNat
    if off = 0x1C0 then sel else wordOf (s.tileFlags sel) (w 0x1C4)
  else if 0x200 ≤ off ∧ off < 0x218 then wordOf s.recovStat (w 0x200)
  else if off = 0x220 then s.recov.probeFail.toNat + natBit s.recov.probeDone 26
  else if off = 0x224 then s.recov.probeLane.toNat + 2 ^ 16 * s.recov.probePass.toNat
  else if off = 0x240 then s.ccMap
  else if off = 0x244 then 2 ^ 4 * maskOf ([0, 1, 2, 3].map s.holdsFunction)
  else if off = 0x248 then natBit s.cores.remap 0
  else if off = 0x24C then natBit s.cores.testMode 0
  else if off = 0x250 then 2 ^ 16 * s.repair.fwStatus.toNat + natBit s.repair.fwBusy 24
  else if off = 0x258 then 2 ^ 16 * s.repair.fuseStatus.toNat + natBit s.repair.fuseBusy 24
  else if 0x260 ≤ off ∧ off < 0x268 then wordOf (sparseGet 0 r.logIdx id).toNat (w 0x260)
  else if 0x268 ≤ off ∧ off < 0x280 then wordOf (s.logStat id) (w 0x268)
  else if 0x280 ≤ off ∧ off < 0x2C0 then wordOf (s.logData id) (w 0x280)
  else if 0x300 ≤ off ∧ off < 0x320 then (((s.perf.next.getD s.perf.words)[w 0x300]?).getD 0).toNat
  else if 0x320 ≤ off ∧ off < 0x360 then wordOf (s.perf.shown[w 0x320 / 2]?.getD 0).toNat (w 0x320 % 2)
  else if 0x360 ≤ off ∧ off < 0x394 then pair (fun i => (sparseGet 0 s.power.sense i).toNat) 0x360
  else if off = 0x404 then s.sec.status.toNat + natBit s.sec.busy 8 + natBit s.sec.session.isSome 9
  else if 0x800 ≤ off ∧ off < 0x884 then (sparseGet 0 r.countsWas off).toNat
  else if 0x1000 ≤ off ∧ off < 0x2000 then leNat (((s.snapBlock (BitVec.ofNat 4 ((off - 0x1000) / 256))).drop (off % 256)).take 4)
  else if 0x2000 ≤ off ∧ off < 0x2400 then
    ((s.stream (BitVec.ofNat 4 ((off - 0x2000) / 64))).shown.words).getD (off % 64 / 4) 0
  else if 0x3000 ≤ off ∧ off < 0x4000 then readLe s.sec.mailbox (off - 0x3000) 4
  else 0

/-- The register of more than one word that an offset lies in: its base and its words (R404). -/
def wideReg (off : Nat) : Option (Nat × Nat) :=
  let fixed : List (Nat × Nat) := [(0x8, 2), (0x10, 2), (0x18, 2), (0x28, 2), (0x40, 2), (0x48, 2), (0x50, 2), (0x58, 2), (0x80, 2), (0x88, 2),
    (0x120, 8), (0x148, 2), (0x150, 4), (0x1A0, 8), (0x1C0, 9), (0x200, 6), (0x220, 2), (0x258, 2), (0x260, 2), (0x268, 6), (0x280, 16),
    (0x300, 8), (0x320, 16), (0x360, 13)]
  if 0x1000 ≤ off ∧ off < 0x2000 then some (off / 256 * 256, 64)
  else if 0x2000 ≤ off ∧ off < 0x2400 then some (off / 64 * 64, 16)
  else fixed.find? (fun r => decide (r.1 ≤ off ∧ off < r.1 + 4 * r.2))

/-- Registers of one word (R404). -/
def narrowReg (off : Nat) : Bool :=
  [0x0, 0x4, 0x20, 0x100, 0x104, 0x108, 0x10C, 0x110, 0x140, 0x180, 0x184, 0x218, 0x21C, 0x240, 0x244, 0x248, 0x24C, 0x250, 0x400, 0x404].contains off
    || decide (0x800 ≤ off ∧ off < 0x884) || decide (0x3000 ≤ off ∧ off < 0x4000)

/-- A register occupies the offset (R399, R404). -/
def regExists (off : Nat) : Bool := (wideReg off).isSome || narrowReg off

/-- The capture of a master (R400). -/
def Regs.captureOf (r : Regs) (id base : Nat) : Option (List (BitVec 32) × Nat) :=
  (r.capture.find? (fun c => c.1 == id && c.2.1 == base)).map (·.2.2)

/-- A read of word 5 clears the failures that the reading master's capture shows, or without one those of before the present
cycle (R16, R422). -/
def State.clearFails (s : State) (seen : Option Nat) : State :=
  { s with recov := { s.recov with fails := s.recov.fails.filter (fun f => match seen with
      | some n => decide (n < f.no) | none => decide (f.cycle = s.clock.cycles)) } }

/-- Failures counted before the present cycle. -/
def State.failsSeen (s : State) : Nat := s.recov.failNo - s.recov.fails.countP (fun f => decide (f.cycle = s.clock.cycles))

/-- A read of one word (R400, R422): word 0 of a register of more words captures it whole. -/
def State.readReg (s : State) (id off : Nat) : State × Nat :=
  match wideReg off with
  | none => (s, s.regWord id off)
  | some (base, n) =>
    if off = base then
      let ws := (List.range n).map (fun i => BitVec.ofNat 32 (s.regWord id (base + 4 * i)))
      ({ s with regs := { s.regs with capture := s.regs.capture.filter (fun c => c.1 != id) ++ [(id, base, ws, s.failsSeen)] } }, s.regWord id off)
    else
      let cap := s.regs.captureOf id base
      let v := match cap with
        | some (ws, _) => (ws.getD ((off - base) / 4) 0).toNat
        | none => s.regWord id off
      (if off = 0x214 then s.clearFails (cap.map (·.2)) else s, v)

end Sys2Proof.Machine
end

