-- ==== Sys2Proof/Machine/Scrub.lean ====
section
/-! DEFINITION. The scrub engine (R216, R217, R416, R417) and the phases of a tenant switch (R357 to R363). -/

namespace Sys2Proof.Machine

/-- Bytes of working SRAM (R294), and its tenant area (R361). -/
def sramBytes : Nat := 0x400000
def tenantArea : Nat := 0x300000

/-- Bytes of a beat of SEC_REQ_DATA and SEC_RSP_DATA (R46). -/
def beatBytes : Nat := 64

/-- LEN: operand beats that follow the header beat (R364); the operands stand one behind the other (log entry 53). -/
def operandBeats (bs : List Byte) : Nat := ceilDiv bs.length beatBytes

/-- A request's beats: the header with OPCODE and LEN, then its operands, the last beat filled with zeros (R46, R364). -/
def SecReq.beats (r : SecReq) : List (List Byte) :=
  (leBytes beatBytes (r.opcode.toNat + 256 * operandBeats r.operands)) ::
    (List.range (operandBeats r.operands)).map (fun i => padTo beatBytes ((r.operands.drop (beatBytes * i)).take beatBytes))

/-- The most operand beats of a request (R364). A REPAIR_WRITE of a longer copy, for which the spec has no other form, is carried
whole (log entry 53). -/
def maxBeats : Nat := 64

/-- A security request is presented, where none is outstanding (R46, R364, R365). -/
def State.sendSec (s : State) (opcode : BitVec 8) (operands : List Byte) (use : SecUse) : State :=
  if s.sec.req.isSome then s else
  { s with sec := { s.sec with req := some { opcode := opcode, operands := operands, sent := 0, sentTb := none, use := use }, rsp := none } }

/-- SEC_REQ_VALID with SEC_REQ_DATA and SEC_REQ_LAST (R37, R46). -/
def State.secShown (s : State) : Option (List Byte × Bool) :=
  match s.sec.req with
  | some r => (r.beats[r.sent]?).map (fun b => (b, decide (r.sent + 1 = r.beats.length)))
  | none => none

/-- One control cycle of SEC_REQ: the beat that is shown transfers where SEC_REQ_READY is 1; the last one is stamped (R37, R46,
R365). -/
def State.secBeat (s : State) : State :=
  match s.sec.req, s.secShown with
  | some r, some (_, last) =>
    if !s.inputs.secReady then s else
    { s with sec := { s.sec with req := some { r with sent := r.sent + 1, sentTb := if last then some s.clock.control else none } } }
  | _, _ => s

/-! ## Lists -/

/-- Entry i of a list in working SRAM: its fields, its reserved bits, LAST (R216). -/
def State.scrubWord (s : State) (a i : Nat) : Nat × Nat := (readLe s.cores.sram (a + 16 * i) 8, readLe s.cores.sram (a + 16 * i + 8) 8)

/-- The check of a list from entry i on (R216, R417): a reason with the first offending entry, or the entries. Where one entry breaks
several checks, the reason is that of BASE, then of NBLK, of the reserved bits and of the range (DESIGN CHOICE, log entry 70). -/
def State.scrubList (s : State) (a : Nat) : Nat → Nat → List ScrubEntry → (Nat × Nat) ⊕ List ScrubEntry
  | 0, _, _ => .inl (5, 4095)
  | n + 1, i, l =>
    if sramBytes < a + 16 * i + 16 then .inl (6, i) else
    let (base, w) := s.scrubWord a i
    let nblk := field w 0 40
    let e : ScrubEntry := { base := BitVec.ofNat 64 base, nblk := nblk, key := BitVec.ofNat 8 (field w 40 8) }
    if base % 512 ≠ 0 then .inl (1, i)
    else if nblk = 0 then .inl (2, i)
    else if field w 48 15 ≠ 0 then .inl (3, i)
    else if 2 ^ 52 < base % 2 ^ 52 + 512 * nblk then .inl (4, i)
    else if bitOf w 63 then .inr (l ++ [e])
    else s.scrubList a n (i + 1) (l ++ [e])

/-- Entries of a list that its check reads, up to the first that offends (R216). -/
def scrubRead : (Nat × Nat) ⊕ List ScrubEntry → Nat
  | .inl (_, i) => i + 1
  | .inr l => l.length

/-- A command that the engine or the switch does not accept (R416, R417). -/
def State.scrubRefuse (s : State) : State := ({ s with scrub := { s.scrub with refused := true } } : State).freshBit 0x148 12

/-- A switch ends without phase BOUND (R362): its record, and Hold with NO_IMAGE. -/
def State.switchFail (s : State) (code : Nat) : State :=
  match s.scrub.switch with
  | none => s
  | some (_, t) => ((({ s with scrub := { s.scrub with switch := none } } : State)).fwLog s.cores.f0 0x0013 0xF t.toNat 0 code).fwGoto s.cores.f0 .hold 1

/-- F0 ends the switch so, once its records have room (R304, R311). -/
def State.failSwitch (s : State) (code : Nat) : State := s.whenRoom s.cores.f0 (.switchFail code) (s.switchFail code)

/-- Psiuno enters Scrub (R279, R326, R380): an initialisation under way is given up, every in-use flag clears, SL is woken. -/
def State.enterScrub (s : State) : State :=
  let s1 : State := { s with unit := { s.unit with initAt := none, initDone := false, clear := none }, tileUse := [] }
  (s1.goto .scrub 0).wakeDomain domSL

/-- A list that is refused ends the switch whose scrub it was for (R216, R362). -/
def State.endByRefusal (s : State) : State := if s.scrub.switch.isSome then s.failSwitch 5 else s

/-- START is accepted: the list is checked; it is written, or refused (R216, R416). -/
def State.scrubBegin (s0 : State) (role : BitVec 2) (list : Nat) : State :=
  let checked := s0.scrubList (16 * list) 4096 0 []
  let s := s0.readRanges .sram [(16 * list, 16 * scrubRead checked)]
  let c : Scrub := { s.scrub with status := 0, reason := 0, entry := 0, errData := 0, errTgt := 0, list := [], sent := [],
                                  stopped := false, failed := [], role := role }
  match checked with
  | .inl (reason, entry) =>
    ({ s with scrub := { c with status := 5, reason := BitVec.ofNat 4 reason, entry := BitVec.ofNat 12 entry } } : State).endByRefusal
  | .inr l =>
    let s1 : State := { s with scrub := { c with status := 2, list := l
                                                 switch := c.switch.map (fun w => (.scrubbing, w.2)) } }
    if s1.unit.state = .hold then s1.enterScrub else s1

/-- PSI_SCRUBCTL (R416): START from the installer in Hold, or from F0 in phase MAPPED; CANCEL while a scrub runs. The scrub-complete record
of the scrub that F0 starts names ROLE 3, while the register-write record of that START names role 1, on whose command F0 acts (DESIGN
CHOICE, log entry 86: R217, R303 and R306 do not say whom a record of the engine names there). -/
def State.scrubControl (s : State) (m : Master) (v : Nat) : State :=
  let list := field v 4 22
  if v % 16 = 1 then
    if decide (s.unit.state = .hold) && s.scrub.switch.isNone then s.scrubBegin 1 list
    else if s.scrub.switch.any (fun w => decide (w.1 = .mapped)) && (match m with | .core c => c == s.cores.f0 | _ => false) then s.scrubBegin 3 list
    else s.scrubRefuse
  else if s.scrub.status = 1 ∨ s.scrub.status = 2 then
    { s with scrub := { s.scrub with stopped := true } }
  else s.scrubRefuse

/-- Blocks of a list. -/
def scrubBlocks (l : List ScrubEntry) : Nat := l.foldl (fun n e => n + e.nblk) 0

/-- Blocks transferred. -/
def State.scrubSent (s : State) : Nat := (s.scrub.sent.map (·.2)).foldl (· + ·) 0

/-- A write of the engine is presented, or waits for its response (R37, R217). -/
def State.scrubOpen (s : State) : Bool :=
  let mine := fun (r : Req) => !r.old && match r.from_ with | .scrub _ => true | _ => false
  s.ports.toList.any (fun q => q.tags.any (fun e => mine e.req) || q.shownW.any (fun e => mine e.1))

/-- The counts of failed writes as one value: data errors low, target errors high. -/
def State.scrubErrors (s : State) : Nat := s.scrub.errData.toNat + 2 ^ 32 * s.scrub.errTgt.toNat

/-- Phases SCRUBBED and BOUND (R360): TENANT becomes T, TSWCNT increments, the continuity flag becomes 1; Hold with
NO_IMAGE. -/
def State.switchBound (s : State) (t : BitVec 32) : State :=
  let s1 := (s.fwLog s.cores.f0 0x0013 5 t.toNat 0 0).fwLog s.cores.f0 0x0013 6 t.toNat 0 0
  ({ s1 with ao := { (s1.ao.bump 2) with tenant := t, continuity := true, truncated := false }
             scrub := { s1.scrub with switch := none } } : State).fwGoto s.cores.f0 .hold 1

/-- SCRUB_COMPLETE: the last response has come; DONE with its record, or cancelled (R217, R326, R360, R362). -/
def execScrubComplete (s : State) : Out :=
  let c := s.scrub
  if c.status ≠ 2 ∨ s.scrubOpen ∨ s.unit.state ≠ .scrub then .next s
  else if c.stopped then
    let s1 : State := { s with scrub := { c with status := 4 } }
    .next (if c.switch.isSome then s1.failSwitch s1.scrubErrors else s1.goto .hold 1)
  else if s.scrubSent < scrubBlocks c.list then .next s
  else
    let s1 : State := { s with scrub := { c with status := 3 } }
    let s2 := s1.hwRecord (mkRec 0x000A c.role 0xFF c.list.length (scrubBlocks c.list) s.scrubErrors 0)
    .next (match c.switch with
      | none => s2.goto .hold 1
      | some (_, t) => if s.scrubErrors = 0 then s2.whenRoom s2.cores.f0 (.switchBound t) (s2.switchBound t) else s2.failSwitch s.scrubErrors)

/-! ## The tenant switch -/

/-- A session ends: the mailbox window is written to 0 (R368, R432). -/
def State.endSession (s : State) : State := { s with sec := { s.sec with session := none, mailbox := [] } }

/-- A key delivery is in progress (R360, R368): from ATTEST's acceptance to the end of its session. -/
def State.deliveryOpen (s : State) : Bool := s.sec.busy

/-- SWITCH (R360): accepted in Hold with no key delivery in progress; phase BEGIN. An open session and a load in progress end, and the domains whose
stores phase CLEARED writes are woken (R321, R384). -/
def State.switchBegin (s : State) (t : BitVec 32) : State :=
  if s.unit.state ≠ .hold ∨ s.deliveryOpen then s.scrubRefuse else
  let s0 := s.dropLoad
  let s1 := (if s0.sec.session.isSome then s0.endSession else s0).setConsent 0
  let s2 : State := { s1 with ao := { s1.ao with tenant := 0 }, cores := { s1.cores with testMode := false }
                              scrub := { s1.scrub with switch := some (.begin, t) } }
  (s2.enterScrub.wakeDomains s2.switchable).fwLog s2.cores.f0 0x0013 1 t.toNat 0 0

/-- Counters and per-stream status registers at their reset values (R361, R433); the policy pass compares from 0 again (R408). -/
def State.clearCounters (s : State) : State :=
  let s1 := s.mapStreams (fun _ x => { x with stat := .zero, shown := .zero })
  { s1 with regs := { s1.regs with counts := [], countsWas := [], discard := 0 }, power := { s1.power with seenMem := 0, seenLand := 0 }, perf := { s1.perf with counts := Vector.replicate 8 0, shown := Vector.replicate 8 0 } }

/-- Coded stores that phase CLEARED writes whole; of working SRAM it writes the tenant area. What is written holds correct code again
(R345, R361). -/
def clearedStore : Store → Bool
  | .pool => true | .tiles => true | .settings => true | .wells => true | .ledger => true | .imageCopies => true | .imageStores => true
  | .sram => false | .bootRom => false

/-- A port without stream data: nothing queued, no write buffer entry, nothing held for a tag. -/
def Port.clear (q : Port) : Port :=
  { q with reads := [], writes := [], wbuf := [], shownR := none, shownW := none
           tags := q.tags.map (fun e => { e with held := none, req := { e.req with cells := [] } }) }

/-- Phase CLEARED: every store of R361. -/
def State.clearStores (s : State) : State :=
  let s1 := s.clearCounters
  let kept := fun (st : Store) (w : Nat) => !(clearedStore st || (st == Store.sram && decide (tenantArea ≤ 8 * w ∧ 8 * w < tenantArea + 0x100000)))
  { s1 with
    pool := { Pool.zero with churn := { Churn.idle with enable := s1.pool.churn.enable, thresh := s1.pool.churn.thresh } }
    tiles := [], tileUse := [], tileMarks := [], tilesWritten := []
    basin := { wells := [], ptr := [], touched := [], written := [], marks := [] }
    ledger := { bytes := [], armed := [], lateArmed := [], portAt := none }
    settings := { s1.settings with bytes := [], valid := [], staged := [] }
    image := { active := .empty, shadow := .empty, bank := .empty, staged := .empty, loader := none, overlays := [], gen := s1.image.gen,
               waiting := [], exchange := none }
    ports := s1.ports.map Port.clear
    streams := s1.streams.map (fun x => { x with jobs := [], effects := [] })
    inflight := []
    cores := { s1.cores with sram := zeroRange s1.cores.sram tenantArea 0x100000 }
    eccBad := s1.eccBad.filter (fun e => kept e.1 e.2)
    eccOne := s1.eccOne.filter (fun e => kept e.1 e.2)
    eccCover := s1.eccCover.filter (fun e => kept e.1 (e.2 / 8))
    sec := { s1.sec with mailbox := [] } }

/-- The mask of KEY_ERASE: every key id from 1 to 255 (R360, R365). -/
def eraseMask : List Byte := leBytes 32 (2 ^ 256 - 2)

/-- STORES_CLEARED: once every domain is On and no port presents a request, which stands until its transfer (R37), phase CLEARED ends,
and KEY_ERASE goes out (R360, R361, R384). -/
def execStoresCleared (s : State) : Out :=
  match s.scrub.switch with
  | some (.begin, t) =>
    if s.sec.req.isSome ∨ s.unit.state ≠ .scrub ∨ !s.switchable.all (fun d => decide (s.domCur d = 0))
        ∨ s.ports.toList.any (fun q => q.shownR.isSome || q.shownW.isSome) then .next s else
    let s1 := s.clearStores
    let s2 : State := { s1 with scrub := { s1.scrub with switch := some (.cleared, t) } }
    .next ((s2.fwLog s2.cores.f0 0x0013 2 t.toNat 0 0).sendSec 7 eraseMask .switchErase)
  | _ => .next s

/-- KEYS_ERASED (R360): its record, and MEMMAP goes out; a failed command ends the switch. -/
def State.switchErased (s : State) (status : BitVec 8) : State :=
  match s.scrub.switch with
  | some (.cleared, t) =>
    if status ≠ 0 then s.failSwitch status.toNat else
    let s1 : State := { s with scrub := { s.scrub with switch := some (.keysErased, t) } }
    (s1.fwLog s1.cores.f0 0x0013 3 t.toNat 0 0).sendSec 8 [] .switchMap
  | _ => s

/-- The list that F0 writes from the ranges of MEMMAP: KEY 0x00, LAST on the final entry (R360). -/
def mappedList (data : List Byte) : List Byte :=
  let n := data.length / 16
  (List.range n).flatMap (fun i =>
    let e := (data.drop (16 * i)).take 16
    e.take 8 ++ leBytes 8 (leNat (e.drop 8) % 2 ^ 40 + if i + 1 = n then 2 ^ 63 else 0))

/-- MAPPED (R360): F0 writes one entry per range; the list stands at the start of the tenant area (log entry 30). -/
def State.switchMapped (s : State) (status : BitVec 8) (data : List Byte) : State :=
  match s.scrub.switch with
  | some (.keysErased, t) =>
    if status ≠ 0 then s.failSwitch status.toNat else
    let s1 : State := { s with scrub := { s.scrub with switch := some (.mapped, t) }
                               cores := { s.cores with sram := writeBytes s.cores.sram tenantArea (mappedList data) } }
    s1.fwLog s1.cores.f0 0x0013 4 t.toNat 0 0
  | _ => s

end Sys2Proof.Machine
end

