-- ==== Sys2Proof/Machine/Security.lean ====
section
/-! DEFINITION. The security block as Psiuno uses it (R364 to R366): attestation and key delivery (R367 to R369), firmware
and repair sets (R375 to R377, R332, R348), fuses (R427). -/

namespace Sys2Proof.Machine

/-! ## Reports and deliveries -/

/-- SHA-384 of the identity public key (R367), a free value. -/
def identityDigest : List Byte := (List.range 48).map Config.identityByte

/-- DEBUG is in effect (R358, R359); PROFILE. -/
def State.debugOn (s : State) : Bool := bitOf s.ao.consent.toNat 0 && !s.fuses.debugDisable
def State.profileOn (s : State) : Bool := bitOf s.ao.consent.toNat 1

/-- Bytes 0 to 415 of a report with the ephemeral public key `pub` (R367). -/
def State.reportBytes (s : State) (pub : List Byte) : List Byte :=
  let a := s.image.active
  let flags := natBit s.ao.continuity 0 + natBit s.ao.truncated 1 + natBit s.fuses.debugDisable 2 + natBit s.cores.testMode 3
  let fuses := natBit s.fuses.debugDisable 0 + natBit s.fuses.makerLock 1 + 2 ^ 8 * s.fuses.lifeCycle.toNat
  let b := imageBank a.bytes
  let streams := maskOf (allStreams.map (fun p => a.present && b.present p))
  padTo 416 (leBytes 2 1 ++ leBytes 2 flags ++ leBytes 4 s.ao.tenant.toNat ++ leBytes 4 s.ao.consent.toNat ++ leBytes 4 0
    ++ readBytes s.sec.mailbox 0 48 ++ identityDigest ++ padTo 48 (s.cores.fwDigest.take 48) ++ leBytes 8 s.cores.fwVersion.toNat
    ++ (if a.present then readBytes a.bytes 80 48 else List.replicate 48 0) ++ leBytes 4 fuses
    ++ leBytes 1 (if a.present then b.cut else 0xFF) ++ leBytes 1 s.regs.partLimit.toNat ++ leBytes 2 streams
    ++ leBytes 8 (s.ao.value 2).toNat ++ leBytes 8 s.log.highest ++ leBytes 8 s.ao.truncSeq.toNat ++ leBytes 8 s.clock.control.toNat
    ++ padTo 97 (pub.take 97))

/-- A security command ends with its final status in PSI_SECSTAT (R431). -/
def State.secEnd (s : State) (status : BitVec 8) : State := { s with sec := { s.sec with status := status, busy := false } }

/-- The record of a delivery (R368). -/
def State.deliveryRecord (s : State) (cmd : Nat) (status : BitVec 8) : State :=
  s.fwRecord (mkRec 0x0005 0 s.cores.f2.toNat 0x0400 cmd 0 status.toNat)

/-- A delivery ends in step 1 to 5 with a status. -/
def State.deliveryEnd (s : State) (cmd : Nat) (status : BitVec 8) : State := (s.secEnd status).deliveryRecord cmd status

/-- ATTEST (R368): NO_TENANT, BUSY, or ECDH_GEN goes out. -/
def State.attestStart (s : State) : State :=
  if s.ao.tenant = 0 then s.deliveryEnd 1 0x10
  else if s.sec.req.isSome ∨ s.sec.session.isSome then s.deliveryEnd 1 0x13
  else ({ s with sec := { s.sec with busy := true } } : State).sendSec 4 [] .attestGen

/-- Record i of the mailbox (R368, R369). -/
def State.keyRecord (s : State) (i : Nat) : List Byte := readBytes s.sec.mailbox (128 + 64 * i) 64
def State.recordCount (s : State) : Nat := readLe s.sec.mailbox 104 2

/-- KEYID and USE of a record. -/
def keyId (r : List Byte) : Nat := (r.getD 0 0).toNat
def keyUse (r : List Byte) : Nat := (r.getD 1 0).toNat

/-- A record's form breaks R369, given the records before it and whether it is the last. -/
def badRecord (before : List (List Byte)) (last : Bool) (r : List Byte) : Bool :=
  decide (keyUse r = 0 ∨ 3 < keyUse r) || before.any (fun q => keyId q == keyId r) || (decide (keyUse r = 3) && !last)

/-- The status with which DELIVER ends before step 4, or none (R368, R369). -/
def State.deliverRefusal (s : State) : Option (BitVec 8) :=
  let n := s.recordCount
  if s.sec.session.isNone then some 0x12
  else if s.sec.req.isSome then some 0x13
  else if n < 1 ∨ 17 < n then some 0x0A
  else
    let rs := (List.range n).map s.keyRecord
    if (List.range n).any (fun i => badRecord (rs.take i) (i + 1 == n) (rs.getD i [])) then some 0x0A
    else if decide (s.unit.state = .armed ∨ s.unit.state = .running) &&
        rs.any (fun r => (List.range 4096).any (fun g =>
          let x := s.image.bank.memRegion g
          x.valid && x.key.toNat == keyId r)) then some 0x11
    else none

/-- A point of 97 bytes as it is carried: behind prefix 0x00, the point at infinity, nothing is carried (R364). -/
def pointBytes (b : List Byte) : List Byte := padTo 97 (if b.head? = some 0 then [0] else b.take 97)

/-- D of the open session. -/
def Security.digest (q : Security) : List Byte := match q.session with | some (_, d) => d | none => []

/-- DELIVER (R368): ECDH goes out with the tenant's point and scalar source 0; D and the records are what KEY_INSTALL will
carry. -/
def State.deliverStart (s : State) : State :=
  match s.deliverRefusal with
  | some st => s.deliveryEnd 2 st
  | none =>
    ({ s with sec := { s.sec with busy := true, offer := s.sec.digest ++ (List.range s.recordCount).flatMap s.keyRecord } } : State).sendSec 5
      (pointBytes (readBytes s.sec.mailbox 0 97) ++ [0]) .deliverEcdh

/-- The records that a delivery offers. -/
def Security.offered (q : Security) : List (List Byte) :=
  let bs := q.offer.drop 48
  (List.range (bs.length / 64)).map (fun i => (bs.drop (64 * i)).take 64)

/-- ECDH_GEN has ended: the report, and SIGN over its digest (R368). -/
def State.attestGenDone (s : State) (status : BitVec 8) (data : List Byte) : State :=
  if status ≠ 0 then s.deliveryEnd 1 status else
  let b := s.reportBytes data
  ({ s with sec := { s.sec with draft := b } } : State).sendSec 2 (sha384 b) .attestSign

/-- SIGN has ended: the report stands in the mailbox, and the session opens (R368). -/
def State.attestSignDone (s : State) (status : BitVec 8) (data : List Byte) : State :=
  if status ≠ 0 then s.deliveryEnd 1 status else
  let b := s.sec.draft
  let s1 := s.secEnd 0
  { s1 with sec := { s1.sec with mailbox := writeBytes s1.sec.mailbox 0 (b ++ padTo 96 (data.take 96))
                                 session := some (s.clock.control, sha384 b), draft := [] } }

/-- ECDH has ended: KEY_INSTALL with D and every record (R368). Where the session's time ran out meanwhile the delivery ends with
EXPIRED (DESIGN CHOICE, log entry 53). -/
def State.ecdhDone (s : State) (status : BitVec 8) : State :=
  if status ≠ 0 then s.deliveryEnd 2 status
  else if s.sec.session.isNone then s.deliveryEnd 2 0x12
  else s.sendSec 6 s.sec.offer .deliverInstall

/-- KEY_INSTALL has ended: the session ends, and a consent record takes effect (R358, R359, R368, R369). -/
def State.installDone (s : State) (status : BitVec 8) : State :=
  let consent := s.sec.offered.any (fun r => keyUse r == 3)
  let s1 := s.endSession.deliveryEnd 2 status
  if status = 0 ∧ consent then
    ({ s1 with clock := { s1.clock with drawn := s1.clock.drawn + 1 } } : State).setConsent ((Config.consentFlags s1.clock.drawn).setWidth 32)
  else s1

/-! ## The maker's actions -/

/-- PSI_FWCTL or PSI_FUSECTL ends an action (R427). -/
def State.fwEnd (s : State) (status : BitVec 8) : State := { s with repair := { s.repair with fwStatus := status, fwBusy := false } }
def State.fuseEnd (s : State) (status : BitVec 8) : State := { s with repair := { s.repair with fuseStatus := status, fuseBusy := false } }

/-- STATUS of an action that the state did not accept (R427). -/
def notAccepted : BitVec 8 := 0x0B

/-- A copy's header fields: GEN and LEN (R331). -/
def copyGen (b : List Byte) : Nat := leNat (b.take 4)
def copyBody (b : List Byte) : List Byte := (b.drop 16).take (leNat ((b.drop 4).take 4))

/-- A copy with its header (R331). -/
def makeCopy (gen : Nat) (body : List Byte) : List Byte :=
  let h := leBytes 4 gen ++ leBytes 4 body.length
  h ++ leBytes 4 (crc32c (h ++ body)).toNat ++ leBytes 4 0 ++ body

/-- A copy is intact (R331). -/
def copyIntact (b : List Byte) : Bool :=
  let len := leNat ((b.drop 4).take 4)
  decide (len ≤ 65520 ∧ 16 + len ≤ b.length) && crc32c (b.take 8 ++ copyBody b) == BitVec.ofNat 32 (leNat ((b.drop 8).take 4))

/-- The copies of a set: false the repair map, true the trim records. -/
def Repair.copies (r : Repair) (set : Bool) : List (List Byte) := if set then r.trims else r.maps
def Repair.setCopies (r : Repair) (set : Bool) (l : List (List Byte)) : Repair := if set then { r with trims := l } else { r with maps := l }

/-- The operands of REPAIR_WRITE (R365). -/
def repairOperands (set : Bool) (copy : Nat) (b : List Byte) : List Byte := leBytes 1 (if set then 1 else 0) ++ leBytes 1 copy ++ b

/-- What an action writes into every copy: the resolved copy's body (R332), or the supplied body (R377). -/
def State.resolvedCopy (s : State) (set : Bool) (chosen : Nat) : List Byte :=
  let b := (s.repair.copies set).getD chosen []
  makeCopy (copyGen b + 1) (copyBody b)
def State.suppliedCopy (s : State) (set : Bool) : List Byte :=
  makeCopy (((s.repair.copies set).map copyGen).foldl max 0 + 1) s.sec.draft

/-- The repair map with an entry for every spare in use (R347, R348). -/
def State.spareEntries (s : State) : List Byte :=
  (List.range s.cfg.arrays).flatMap (fun a =>
    let v := (s.repair.lanes[a / 2]?.getD 0).toNat / 2 ^ (16 * (a % 2)) % 65536
    let entry := fun (cell spare : Nat) => leBytes 4 (2 + 4 * a + 64 * cell + 8192 * spare)
    (if bitOf v 7 then entry (v % 128) 0 else []) ++ (if bitOf v 15 then entry (field v 8 7) 1 else []))

/-- The entries of the adopted map that are not lane cells: these the register gives. -/
def keptEntries (body : List Byte) : List Byte :=
  (List.range (body.length / 4)).flatMap (fun i => let e := (body.drop (4 * i)).take 4
                                                   if leNat e % 4 = 2 then [] else e)

/-- The copy adopted in Boot, by PSI_BOOTSTAT (R409). -/
def State.adoptedMap (s : State) : List Byte := s.repair.maps.getD (field s.repair.bootstat.toNat 5 2) []
/-- PERMSPARE's copy: one generation above the map in force, since a copy that is not intact plays no part (R331, R348). -/
def State.permCopy (s : State) : List Byte :=
  makeCopy (copyGen s.adoptedMap + 1) (keptEntries (copyBody s.adoptedMap) ++ s.spareEntries)

/-- The operands of VERIFY: the maker's public key, the digest, r and s (R365); key and signature are free values. -/
def verifyOperands (b : List Byte) : List Byte :=
  (List.range 97).map Config.makerKeyByte ++ sha384 b ++ (List.range 96).map (Config.signatureByte b)

/-- UPDATE (R376): FW_FETCH of the bundle. -/
def State.updateStart (s : State) (slot : BitVec 8) : State :=
  if s.sec.req.isSome then s.fwEnd notAccepted else
  ({ s with repair := { s.repair with fwBusy := true } } : State).sendSec 0x0D [slot] (.updateFetch slot)

/-- The record and end of an UPDATE (R376). -/
def State.updateEnd (s : State) (status : BitVec 8) : State :=
  let b := s.sec.draft
  let v := Config.bundleVersion b
  let d := sha384 b
  let ok := decide (status = 0) && decide (s.ao.value 3 ≤ v)
  let final := if status = 0 ∧ !ok then notAccepted else status
  let s1 := (s.fwEnd final).fwLog s.cores.f0 0x0015 v.toNat (leNat (d.take 8)) final.toNat 0
  { s1 with sec := { s1.sec with draft := [] }, cores := if ok then { s1.cores with fwStaged := some (v, d) } else s1.cores }

/-- REPAIR (R377): in Hold with REPAIR_LOST. -/
def State.repairStart (s : State) (set : Bool) (slot : BitVec 8) : State :=
  if s.unit.state ≠ .hold ∨ s.unit.reason ≠ 6 ∨ s.sec.req.isSome then s.fwEnd notAccepted else
  ({ s with repair := { s.repair with fwBusy := true } } : State).sendSec 0x0D [slot] (.repairFetch set slot)

/-- A REPAIR that failed: nothing is written; its record carries the STATUS (R377). -/
def State.repairFail (s : State) (status : BitVec 8) : State :=
  ({ (s.fwEnd status) with sec := { s.sec with draft := [] } } : State).fwLog s.cores.f0 0x0016 0 0 0 status.toNat

/-- Step 3 of Boot begins with REPAIR_READ of the first copy of the repair map (R330, R365). -/
def State.readSets (s : State) : State :=
  ({ s with repair := { s.repair with setsRead := false } } : State).sendSec 0x0B [0, 0] (.bootRead false 0)

/-- Boot continues from step 3, by F0's act, with every domain woken (R326, R332, R377, R380). -/
def State.bootAgain (s : State) : State := ((s.fwGoto s.cores.f0 .boot 0).wakeDomains s.switchable).readSets

/-- F0 does so once its record has room (R304, R311). -/
def State.againFromBoot (s : State) : State := s.whenRoom s.cores.f0 .bootAgain s.bootAgain

/-- One of the three REPAIR_WRITEs of a REPAIR has ended (R377). -/
def State.repairWritten (s : State) (set : Bool) (copy : Nat) (status : BitVec 8) : State :=
  if status ≠ 0 then s.repairFail status
  else if copy < 2 then s.sendSec 0x0C (repairOperands set (copy + 1) (s.suppliedCopy set)) (.repairWrite set (copy + 1))
  else
    let b := s.suppliedCopy set
    let s1 : State := { (s.fwEnd 0) with repair := (s.fwEnd 0).repair.setCopies set [b, b, b], sec := { s.sec with draft := [] } }
    (s1.fwLog s1.cores.f0 0x0016 0 (copyGen b) 0 0).againFromBoot

/-- RESOLVE (R332): in Hold with REPAIR_DISAGREE; a copy that is not intact has no effect but its record. -/
def State.resolveStart (s : State) (set : Bool) (copy : Nat) : State :=
  if s.unit.state ≠ .hold ∨ s.unit.reason ≠ 5 ∨ s.sec.req.isSome then s.fuseEnd notAccepted
  else if !copyIntact ((s.repair.copies set).getD copy []) then (s.fuseEnd 0).fwLog s.cores.f0 0x0016 copy 0 0 1
  else ({ s with repair := { s.repair with fuseBusy := true } } : State).sendSec 0x0C (repairOperands set 0 (s.resolvedCopy set copy))
    (.resolveWrite set copy 0)

def State.resolveWritten (s : State) (set : Bool) (chosen copy : Nat) (status : BitVec 8) : State :=
  if status ≠ 0 then (s.fuseEnd status).fwLog s.cores.f0 0x0016 chosen 0 0 status.toNat
  else if copy < 2 then s.sendSec 0x0C (repairOperands set (copy + 1) (s.resolvedCopy set chosen)) (.resolveWrite set chosen (copy + 1))
  else
    let b := s.resolvedCopy set chosen
    let s1 : State := { (s.fuseEnd 0) with repair := (s.fuseEnd 0).repair.setCopies set [b, b, b] }
    (s1.fwLog s1.cores.f0 0x0016 chosen (copyGen b) 0 0).againFromBoot

/-- PERMSPARE (R348, R427). -/
def State.permStart (s : State) : State :=
  if s.sec.req.isSome then s.fuseEnd notAccepted else
  ({ s with repair := { s.repair with fuseBusy := true } } : State).sendSec 0x0C (repairOperands false 0 s.permCopy) (.permWrite 0)

/-- A REPAIR_WRITE of PERMSPARE has ended (R348). Its fuse-program record has ADDR 0, since it programs no fuse word, and the new map's
generation in VALUE (DESIGN CHOICE, log entry 85: R312 gives a fuse word and a value). -/
def State.permWritten (s : State) (copy : Nat) (status : BitVec 8) : State :=
  if status ≠ 0 then (s.fuseEnd status).fwLog s.cores.f0 0x0014 0 0 0 status.toNat
  else if copy < 2 then s.sendSec 0x0C (repairOperands false (copy + 1) s.permCopy) (.permWrite (copy + 1))
  else
    let b := s.permCopy
    let s1 : State := { (s.fuseEnd 0) with repair := { (s.fuseEnd 0).repair with maps := [b, b, b] } }
    s1.fwLog s1.cores.f0 0x0014 0 (copyGen b) 0 0

/-- FUSEWRITE (R365, R427). -/
def State.fuseStart (s : State) (word : BitVec 8) (value : BitVec 32) : State :=
  if s.sec.req.isSome then s.fuseEnd notAccepted else
  ({ s with repair := { s.repair with fuseBusy := true } } : State).sendSec 0x0A ([word] ++ leBytes 4 value.toNat) (.fuseWrite word value)

/-- A fuse word is programmed; what it makes of the fuses the spec names is free (R359, R367, R395). -/
def State.fuseWritten (s : State) (word : BitVec 8) (value : BitVec 32) (status : BitVec 8) : State :=
  let s1 := (s.fuseEnd status).fwLog s.cores.f0 0x0014 word.toNat value.toNat 0 status.toNat
  if status ≠ 0 then s1 else
  let f := s1.fuses
  { s1 with fuses := { f with words := sparseSet 0 f.words word.toNat value
                              debugDisable := f.debugDisable || Config.fuseDebug word value
                              makerLock := f.makerLock || Config.fuseMaker word value
                              lifeCycle := f.lifeCycle ||| Config.fuseLife word value } }

/-! ## Boot's requests -/

/-- Step 2 of Boot: the verified firmware runs, CC1 to CC3 are released from reset, the cores are assigned, REMAP is set (R292, R330).
A staged bundle's first Boot raises FWMIN and makes a record (R376). -/
def State.bootFirmware (s : State) (version : BitVec 64) (digest : List Byte) : State :=
  let s1 : State := { s with cores := { s.cores with
    remap := true, verified := true, assigned := true, f0 := 0, f1 := 1, f2 := 2, stby := 3, noStby := false
    ctx := s.cores.ctx.mapIdx (fun i c => if s.cores.failed.getLsbD i then c else .start)
    kicked := Vector.replicate 4 s.clock.control, fwVersion := version, fwDigest := digest } }
  if s.cores.fwStaged = some (version, digest) then
    ({ s1 with cores := { s1.cores with fwStaged := none }, ao := s1.ao.write 3 version } : State).fwLog 0 0x0015 version.toNat
      (leNat (digest.take 8)) 0 0
  else s1

/-- The boot ROM has no firmware to run: Hold with FW_VERIFY, an act of CC0 (R326, R330 step 1). -/
def State.bootRefused (s : State) : State := ({ s with sec := { s.sec with draft := [] } } : State).fwGoto 0 .hold 8

/-- It does so once its record has room (R304, R311). -/
def State.refuseBoot (s : State) : State := s.whenRoom 0 .bootRefused s.bootRefused

/-- FW_FETCH of Boot has ended: the bundle goes to VERIFY (R330 step 1). -/
def State.bootFetched (s : State) (status : BitVec 8) (data : List Byte) : State :=
  if s.unit.state ≠ .boot then s
  else if status ≠ 0 then s.refuseBoot
  else ({ s with sec := { s.sec with draft := data } } : State).sendSec 3 (verifyOperands data) .bootVerify

/-- VERIFY of Boot has ended: a bundle that fails, or whose version is below FWMIN, is refused; another runs (R330, R375). -/
def State.bootVerified (s : State) (status : BitVec 8) : State :=
  let b := s.sec.draft
  let v := Config.bundleVersion b
  if s.unit.state ≠ .boot then s
  else if status ≠ 0 ∨ v < s.ao.value 3 then s.refuseBoot
  else (({ s with sec := { s.sec with draft := [] } } : State).bootFirmware v (sha384 b)).readSets

/-- REPAIR_READ of a copy has ended; one that fails gives no intact copy. The six copies are read one after the other, the repair map's
first (R330 step 3, R365; DEDUCED, log entry 23). -/
def State.bootCopyRead (s : State) (set : Bool) (copy : Nat) (status : BitVec 8) (data : List Byte) : State :=
  let old := s.repair.copies set
  let new := (List.range 3).map (fun i => if i = copy then (if status = 0 then data else []) else old.getD i [])
  let s1 : State := { s with repair := s.repair.setCopies set new }
  if s.unit.state ≠ .boot then s
  else if copy < 2 then s1.sendSec 0x0B [BitVec.ofNat 8 (natBit set 0), BitVec.ofNat 8 (copy + 1)] (.bootRead set (copy + 1))
  else if !set then s1.sendSec 0x0B [1, 0] (.bootRead true 0)
  else { s1 with repair := { s1.repair with setsRead := true } }

/-! ## Requests and responses -/

/-- The fixed time of a command in tb (R365); FW_FETCH has none. -/
def fixedTime (opcode : BitVec 8) : Nat :=
  match opcode.toNat with
  | 1 => 60000 | 2 => 480000 | 3 => 520000 | 4 => 400000 | 5 => 410000 | 6 => 120000 | 7 => 150000 | 8 => 60000 | 9 => 60000
  | 0x0A => 2000000 | 0x0B => 60000 | 0x0C => 2000000 | _ => 0

/-- SECURITY_RESPONSE: the response to the outstanding request arrives, its header and operand beats as one (R46, R364, log entry
53); without a request whose last beat has transferred nothing is taken. -/
def execSecurityResponse (status : BitVec 8) (data : List Byte) (s : State) : Out :=
  if !s.sec.req.any (·.sentTb.isSome) ∨ s.sec.rsp.isSome ∨ s.unit.state = .off ∨ s.unit.state = .reset then .next s
  else .next { s with sec := { s.sec with rsp := some (status, data, s.clock.control) } }

/-- What an outcome does for the use its request had. -/
def State.secOutcome (s : State) (use : SecUse) (status : BitVec 8) (data : List Byte) : State :=
  match use with
  | .attestGen => s.attestGenDone status data
  | .attestSign => s.attestSignDone status data
  | .deliverEcdh => s.ecdhDone status
  | .deliverInstall => s.installDone status
  | .switchErase => s.switchErased status
  | .switchMap => s.switchMapped status data
  | .updateFetch _ =>
    if status ≠ 0 then s.updateEnd status
    else ({ s with sec := { s.sec with draft := data } } : State).sendSec 3 (verifyOperands data) .updateVerify
  | .updateVerify => s.updateEnd status
  | .repairFetch set _ =>
    if status ≠ 0 then s.repairFail status
    else ({ s with sec := { s.sec with draft := data } } : State).sendSec 3 (verifyOperands data) (.repairVerify set)
  | .repairVerify set =>
    if status ≠ 0 then s.repairFail status
    else s.sendSec 0x0C (repairOperands set 0 (s.suppliedCopy set)) (.repairWrite set 0)
  | .repairWrite set copy => s.repairWritten set copy status
  | .resolveWrite set chosen copy => s.resolveWritten set chosen copy status
  | .permWrite copy => s.permWritten copy status
  | .fuseWrite word value => s.fuseWritten word value status
  | .bootFetch => s.bootFetched status data
  | .bootVerify => s.bootVerified status
  | .bootRead set copy => s.bootCopyRead set copy status data

/-- SECURITY_FIXED_TIME: the outcome becomes visible at the stamp of the request plus the fixed time, or on a later arrival,
which is counted (R365). -/
def execSecurityFixedTime (s : State) : Out :=
  match s.sec.req, s.sec.rsp with
  | some r, some (status, data, at_) =>
    let due := (r.sentTb.getD 0).toNat + fixedTime r.opcode
    if s.clock.control.toNat < due ∨ s.unit.state = .frozen ∨ s.unit.state = .off ∨ s.unit.state = .reset then .next s else
    let s1 : State := { s with sec := { s.sec with req := none, rsp := none } }
    let late := decide (due < at_.toNat) && decide (fixedTime r.opcode ≠ 0)
    .next ((if late then s1.count .secLate 1 else s1).secOutcome r.use status data)
  | _, _ => .next s

/-- SESSION_EXPIRY: an open session ends 10,000,000,000 tb after its opening (R368); a KEY_INSTALL that the block has runs on. -/
def execSessionExpiry (s : State) : Out :=
  match s.sec.session with
  | some (t, _) => if t.toNat + 10000000000 ≤ s.clock.control.toNat ∧ s.unit.state ≠ .frozen then .next s.endSession else .next s
  | none => .next s

end Sys2Proof.Machine
end

