-- ==== Sys2Proof/Machine/Reset.lean ====
section
/-! DEFINITION. Reset and power: POR_N and WARM_REQ (R47), the reset sequence (R329), Off (R326), the loss of retention and the
checkpoint of the timebase (R370, R373, R374), and the log service (R310). -/

namespace Sys2Proof.Machine

/-! ## Reset -/

/-- Stores whose uncorrectable words survive Reset: the boot ROM (R329). -/
def keptStore : Store → Bool
  | .bootRom => true | _ => false

/-- What Reset does (R329): every domain is requested On, one whose two fields disagree in the first cycle in which they agree
(R45, R383), memories are cleared and registers take their reset values. The
always-on block with the log's slots, the timebase, the fuses and what stands outside stay. -/
def State.clearAll (s : State) : State :=
  let z := State.reset
  { z with
    cfg := s.cfg
    slices := s.slices
    inputs := s.inputs
    clock := { s.clock with frame := 0, stamp := 0 }
    unit := { z.unit with state := s.unit.state, porN := s.unit.porN, warmReq := s.unit.warmReq, resetAt := s.clock.ctl }
    log := { z.log with slots := s.log.slots, commit := s.log.commit, nextAt := s.log.nextAt }
    ao := s.ao
    fuses := s.fuses
    cores := { z.cores with fwStaged := s.cores.fwStaged }
    power := { z.power with cur := s.power.cur, req := s.power.req.filter (fun e => s.domReq e.1 != s.domCur e.1)
                            wake := (List.range 24).filter (fun d => decide (s.domReq d ≠ s.domCur d ∧ s.domReq d ≠ 0)), passAt := BitVec.ofNat 64 ((s.clock.control.toNat / 1000000 + 1) * 1000000) }
    dbg := { s.dbg with frozen := false, frame := 0 }
    defects := s.defects
    eccBad := s.eccBad.filter (fun e => keptStore e.1)
    eccOne := s.eccOne.filter (fun e => keptStore e.1)
    eccCover := s.eccCover.filter (fun e => keptStore e.1)
    pending := s.pending }

/-- Reset is entered (R326); every domain is requested On, and a wake from Retain or Off makes its record as it is requested (R329,
R382). -/
def State.enterReset (s : State) : State :=
  (s.switchable.filter (fun d => decide (2 ≤ (s.domReq d).toNat ∧ s.domReq d = s.domCur d))).foldl
    (fun t d => t.hwLog 0x000E d 0 (s.domReq d).toNat 0) (s.clearAll.goto .reset 0)

/-- POR_N: at 0 it places Psiuno in Reset regardless of any other input, and as it becomes 1 the 50,000 cycles begin (R47, R329). -/
def execPorN (level : Bool) (s : State) : Out :=
  let s1 : State := { s with unit := { s.unit with porN := level } }
  if level then .next (if s1.unit.state = .reset ∧ !s.unit.porN then { s1 with unit := { s1.unit with resetAt := s1.clock.ctl } } else s1)
  else if s1.unit.state = .reset then .next s1
  else .next s1.enterReset

/-- WARM_REQ: its level is followed always, and requests nothing while POR_N is 0; in Off and Reset it begins no reset of its own,
and in Reset its end restarts the count (R47, R326, R329). -/
def execWarmReq (level : Bool) (s : State) : Out :=
  let s1 : State := { s with unit := { s.unit with warmReq := level } }
  if !s.unit.porN then .next s1 else
  match s1.unit.state with
  | .off => .next s1
  | .reset => .next (if level ∨ !s.unit.warmReq then s1 else { s1 with unit := { s1.unit with resetAt := s1.clock.ctl } })
  | _ => .next (if level then s1.enterReset else s1)

/-- RESET_COMPLETE: 50,000 control cycles after POR_N is 1 and no WARM_REQ is pending, Boot begins on CC0, which clears working SRAM
and fetches the control firmware bundle (R329, R330 step 1). -/
def execResetComplete (s : State) : Out :=
  if s.unit.state = .reset ∧ s.unit.porN ∧ !s.unit.warmReq ∧ s.unit.resetAt + 50000 ≤ s.clock.ctl then
    .next ((({ s with cores := { s.cores with sram := [], ctx := s.cores.ctx.set 0 .start } } : State).goto .boot 0).sendSec 0x0D
      [Config.bootSlot] .bootFetch)
  else .next s

/-- Test-Logic-Reset selects IDCODE (R395). -/
def State.testLogicReset (s : State) : State := { s with dbg := { s.dbg with ir := 0x01 } }

/-- POWER_REMOVED: power is removed from domain CC, and Psiuno enters Off (R326); the debug port, without power, is in Test-Logic-Reset as
power returns (PRESUMED from IEEE 1149.1, log entry 21). -/
def execPowerRemoved (s : State) : Out :=
  if s.unit.state = .off then .next s else .next (s.clearAll.testLogicReset.goto .off 0)

/-! ## The always-on block -/

/-- Cell A of a counter is its newest: the higher intact one. -/
def AlwaysOn.newestA (a : AlwaysOn) (i : Fin 4) : Bool :=
  a.cellA[i].intact && (!a.cellB[i].intact || decide (a.cellB[i].value ≤ a.cellA[i].value))

/-- The cells that a loss of retention leaves intact: of each counter the newest one, with or without the other, or none, since no counter
resumes from a value that it has left behind (R372, R374). -/
def AlwaysOn.lose (a : AlwaysOn) (draw : Nat) : AlwaysOn :=
  let keeps := fun (i : Fin 4) (newest : Bool) => Config.keepsCell draw i && (newest || Config.keepsCell draw (4 + i))
  { a with retLost := true
           cellA := Vector.ofFn (fun i => { a.cellA[i] with intact := a.cellA[i].intact && keeps i (a.newestA i) })
           cellB := Vector.ofFn (fun i => { a.cellB[i] with intact := a.cellB[i].intact && keeps i (!a.newestA i) }) }

/-- Every counter has an intact cell (R373). -/
def AlwaysOn.whole (a : AlwaysOn) : Bool := (List.finRange 4).all (fun i => a.cellA[i].intact || a.cellB[i].intact)

/-- RETENTION_LOSS: RETLOST is set (R370); the timebase resumes at (counter 1 + 1)·2^30 tb, and the regions read it (R70, R374);
which counters and slots stay intact is free. Once a counter has lost both cells, reports show CONTINUITY 0 (R373, R374). -/
def execRetentionLoss (s : State) : Out :=
  let d := s.clock.drawn
  let ao := s.ao.lose d
  let tb := BitVec.ofNat 64 (((ao.value 1).toNat + 1) * 2 ^ 30)
  .next { s with ao := { ao with continuity := ao.continuity && ao.whole }
                 clock := { s.clock with tb := tb, centre := regionTime tb s.clock.centre (d + 1)
                                         control := regionTime tb s.clock.control (d + 2), drawn := d + 3 }
                 log := { s.log with commit := s.log.commit.filter (fun e => Config.keepsSlot d e.1) } }

/-- TIMEBASE_CHECKPOINT: counter 1 follows the timebase divided by 2^30 (R374). -/
def execTimebaseCheckpoint (s : State) : Out :=
  if (s.ao.value 1).toNat < s.clock.tb.toNat / 2 ^ 30 then .next { s with ao := s.ao.bump 1 } else .next s

/-! ## The log service -/

/-- A record written in both phases: its slot, then its commit word (R310). -/
def Log.store (l : Log) (r : LogRec) : Log :=
  let k := r.seq.toNat % logSlots
  { l with slots := sparseInsert (sparseErase l.slots k) k r, commit := sparseSet 0 l.commit k r.seq }

/-- Space has returned: the records lost since are reported (R311). -/
def State.logOverflow (s : State) : State :=
  if s.log.lost = 0 then s else
  let n := s.log.lost
  (({ s with log := { s.log with lost := 0 } } : State)).enterLog (mkRec 0x0001 3 0xFF 0 n.toNat 0 0)

/-- The log service writes a record: it runs while the cores have a clock, one record every 16 control cycles (R310, R311). -/
def State.logServes (s : State) : Bool :=
  (match s.unit.state with | .off | .reset | .frozen => false | _ => true) && decide (s.log.nextAt ≤ s.clock.ctl)

/-- The oldest queued record goes to its slot, and the records lost are reported (R310, R311). -/
def State.logService (s : State) (r : LogRec) (rest : List LogRec) : State :=
  ({ s with log := { (s.log.store r) with queue := rest, nextAt := s.clock.ctl + 16 } } : State).logOverflow

end Sys2Proof.Machine
end

