-- ==== Sys2Proof/Machine/Boot.lean ====
section
/-! DEFINITION. Boot (R330): the control firmware (R375, R376), the repair map and the trim records (R331, R347, R390), the
continuity check (R371), and what follows. -/

namespace Sys2Proof.Machine

/-! ## Selection of a set -/

/-- The outcome of the selection among three copies (R331): REPOUT and the copy adopted, 3 for none. -/
def selectCopy (copies : List (List Byte)) : Nat × Nat :=
  let intact := ((List.range 3).filter (fun i => copyIntact (copies.getD i [])))
  match intact with
  | [] => (3, 3)
  | _ =>
    let top := (intact.map (fun i => copyGen (copies.getD i []))).foldl max 0
    let best := intact.filter (fun i => copyGen (copies.getD i []) == top)
    match best with
    | [i] => (0, i)
    | i :: is =>
      let body := fun (j : Nat) => ((copies.getD j []).take 16, copyBody (copies.getD j []))
      if is.all (fun j => body j == body i) then (1, i) else (2, 3)
    | [] => (3, 3)

/-- Intact copies as a mask. -/
def intactMask (copies : List (List Byte)) : Nat := maskOf ((List.range 3).map (fun i => copyIntact (copies.getD i [])))

/-- The body of the adopted copy. -/
def adoptedBody (copies : List (List Byte)) : List Byte := copyBody (copies.getD (selectCopy copies).2 [])

/-! ## The repair map -/

/-- What the entries have repaired so far, and how many were ignored. -/
structure Applied where
  columns : List (Nat × Nat × Nat)
  /-- (array, cell, spare). -/
  cells   : List (Nat × Nat × Nat)
  ignored : Nat
  deriving DecidableEq, Repr

/-- One entry of the repair map (R347). -/
def Applied.entry (c : Configuration) (q : Applied) (e : Nat) : Applied :=
  if e % 4 = 1 then
    let (bank, col, spare) := (field e 2 10, field e 12 9, field e 21 2)
    if c.banks ≤ bank ∨ 287 < col ∨ field e 23 9 ≠ 0 ∨
       q.columns.any (fun x => x.1 == bank && (x.2.1 == col || x.2.2 == spare)) then { q with ignored := q.ignored + 1 }
    else { q with columns := q.columns ++ [(bank, col, spare)] }
  else if e % 4 = 2 then
    let (array, cell, spare) := (field e 2 4, field e 6 7, field e 13 1)
    if c.arrays ≤ array ∨ field e 14 18 ≠ 0 ∨ q.cells.any (fun x => x.1 == array && (x.2.1 == cell || x.2.2 == spare))
    then { q with ignored := q.ignored + 1 }
    else { q with cells := q.cells ++ [(array, cell, spare)] }
  else { q with ignored := q.ignored + 1 }

/-- The entries in list order (R347). -/
def applyMap (c : Configuration) (body : List Byte) : Applied :=
  (List.range (body.length / 4)).foldl (fun q i => q.entry c (leNat ((body.drop (4 * i)).take 4))) { columns := [], cells := [], ignored := 0 }

/-- PSI_LANESPARE as the repair map fills it (R420). -/
def lanesOf (q : Applied) : Vector (BitVec 32) 8 :=
  Vector.ofFn (fun w : Fin 8 => BitVec.ofNat 32 ((q.cells.filter (fun x => x.1 / 2 == w.val)).foldl (fun v x =>
    v + (x.2.1 + 128) * 2 ^ (16 * (x.1 % 2) + 8 * x.2.2)) 0))

/-! ## The trim records -/

/-- Offset and limit trims, and entries ignored. -/
structure Trims where
  offsets : Sparse (BitVec 16)
  limits  : Sparse (BitVec 16)
  ignored : Nat
  deriving DecidableEq, Repr

/-- One entry of the trim records (R390). -/
def Trims.entry (t : Trims) (e : List Byte) : Trims :=
  let kind := (e.getD 0 0).toNat
  let at_ := (e.getD 1 0).toNat
  let v := BitVec.ofNat 16 (leNat ((e.drop 2).take 2))
  let zero := leNat (e.drop 4) == 0
  if kind = 1 ∧ at_ ≤ 0x11 ∧ zero then { t with offsets := sparseSet 0 t.offsets at_ v }
  else if kind = 2 ∧ at_ ≤ 7 ∧ zero then { t with limits := sparseInsert (sparseErase t.limits at_) at_ v }
  else { t with ignored := t.ignored + 1 }

/-- The entries in list order; a short final entry is ignored (R390). -/
def applyTrims (body : List Byte) : Trims :=
  (List.range (body.length / 8)).foldl (fun t i => t.entry ((body.drop (8 * i)).take 8)) { offsets := [], limits := [], ignored := 0 }

/-! ## The steps -/

/-- PSI_BOOTSTAT (R409). -/
def bootStat (maps trims : List (List Byte)) (mapIgn trimIgn : Nat) : BitVec 64 :=
  BitVec.ofNat 64 (intactMask maps + 2 ^ 3 * (selectCopy maps).1 + 2 ^ 5 * (selectCopy maps).2 + 2 ^ 8 * intactMask trims
    + 2 ^ 11 * (selectCopy trims).1 + 2 ^ 13 * (selectCopy trims).2 + 2 ^ 32 * min 65535 mapIgn + 2 ^ 48 * min 65535 trimIgn)

/-- The Hold that a selection leads to, 0 for none (R331). -/
def selectReason (copies : List (List Byte)) : Nat :=
  match (selectCopy copies).1 with
  | 2 => 5 | 3 => 6 | _ => 0

/-- Step 3: selection and application of both sets (R331, R347, R390). -/
def State.bootRepair (s : State) (maps trims : List (List Byte)) : State :=
  let q := applyMap s.cfg (adoptedBody maps)
  let t := applyTrims (adoptedBody trims)
  { s with repair := { s.repair with
      columns := q.columns, lanes := lanesOf q, lanesNext := [], offsets := t.offsets, limits := t.limits
      bootstat := bootStat maps trims q.ignored t.ignored } }

/-- A counter resumes after a loss of retention (R373, R374). -/
def AlwaysOn.resume (a : AlwaysOn) : AlwaysOn :=
  [0, 1, 2, 3].foldl (fun a (i : Fin 4) => a.write i (a.value i)) a

/-- The log after a loss of retention: committed slots stay, the others are written to 0 (R371). -/
def Log.keepCommitted (l : Log) : Log :=
  let ok := l.slots.filter (fun e => (l.committed e.2.seq).isSome)
  { l with slots := ok, commit := l.commit.filter (fun e => ok.any (fun x => x.1 == e.1)) }

/-- Step 4 (R371). -/
def State.bootContinuity (s : State) : State :=
  if !s.ao.retLost then s.fwLog s.cores.f2 0x0017 1 0 0 0 else
  let l := s.log.keepCommitted
  let n := l.highest
  let a : AlwaysOn := { s.ao.resume with continuity := false, tenant := 0, truncSeq := BitVec.ofNat 64 n, truncated := true }
  let s1 := (({ s with log := l, ao := a } : State).setConsent 0).fwLog s.cores.f2 0x0017 0 n 0 0
  { s1 with ao := { s1.ao with retLost := false } }

/-- Steps 3 to 5; a set that is not selectable leads to Hold (R326, R330). -/
def State.bootRest (s : State) (maps trims : List (List Byte)) : State :=
  let r := if selectReason maps ≠ 0 then selectReason maps else selectReason trims
  if r ≠ 0 then
    ({ s with repair := { s.repair with bootstat := bootStat maps trims 0 0 } } : State).fwGoto s.cores.f2 .hold (BitVec.ofNat 8 r)
  else (s.bootRepair maps trims).bootContinuity.fwGoto s.cores.f0 .hold 1

/-- BOOT_COMPLETE: the firmware runs and has obtained the copies of both sets; the rest of steps 3 to 5, from Boot's beginning or once a
set has been resolved or supplied (R326, R330, R332, R377). The table's row has no operand, and those of the constructor decide
nothing: bundle and copies are what the security block's responses gave (R365). -/
def execBootComplete (_fw : BundleIn) (_repairs _trims : List (List Byte)) (s : State) : Out :=
  .next (if s.unit.state = .boot ∧ s.cores.verified ∧ s.repair.setsRead then
    s.whenRoom s.cores.f0 .bootRest (s.bootRest s.repair.maps s.repair.trims) else s)

end Sys2Proof.Machine
end

