-- ==== Sys2Proof/Machine/RegWrite.lean ====
section
/-! DEFINITION. Writes of the PSI_ registers: who may write what (R303 to R306, R404), what is discarded (R18, R401, R403),
what an accepted write does, and its record (R304, R312). -/

namespace Sys2Proof.Machine

/-! ## Who may act -/

/-- What becomes of a request of a master before its target sees it: it runs, the master is not there to make it, or it is
answered with a status (R42, R293, R296, R300, R392). -/
inductive Gate where
  | run | ignore | deny (stat : BitVec 2)
  deriving DecidableEq, Repr

/-- A core can act: powered, clocked, not failed and released from reset (R293, R330); once the fast matrix has faulted the fallback matrix connects CC0 alone
(R293, R300, R326, R392). In Off and Frozen every request of the host is answered 0b11, one with role 0b11 too (R42, R299, R393; DEDUCED, log
entry 18). -/
def State.gate (s : State) (m : Master) : Gate :=
  match m with
  | .core c =>
    (match s.unit.state with
     | .off | .reset | .frozen => .ignore
     | _ => if s.cores.failed.getLsbD c.toNat || (s.cores.ctx[c.toNat]'(by have := c.isLt; omega)).inReset || (s.unit.matrixOff && c != 0)
            then .ignore else .run)
  | .host role _ =>
    (match s.unit.state with
     | .off | .frozen => .deny 3
     | .reset => .ignore
     | _ => if role = 3 then .deny 1 else .run)
  | .debug => .ignore

/-- Some byte of an access lies in the Setting Store window (R150, R152). -/
def inSettings (addr size : Nat) : Bool := decide (addr < 0x02340000 ∧ 0x02000000 < addr + size)

/-- A write to any byte of the Setting Store window is discarded, recorded and answered 0b01, whatever its form and whoever
sends it (R152, R299). That it waits, as a privileged act does, until the log has room for its record is the model's choice (DESIGN
CHOICE, log entry 17). -/
def State.settingWrite (addr : Nat) (data : List Byte) (m : Master) (s : State) : Out :=
  if !s.logRoom then .next (s.holdWrite m addr data) else .next ((s.actLog m 0x0004 addr (leNat (data.take 8)) 0 0).respond m 1 [])

/-- An address of the Pool window (R278). -/
def inPool (addr : Nat) : Bool := decide (0x10000000 ≤ addr ∧ addr < 0x14000000)

/-- An address of a weak range (R295): the zero window, the alias of working SRAM, the Pool window. -/
def weakAddr (addr : Nat) : Bool := decide (addr < 0x400000) || decide (0x01000000 ≤ addr ∧ addr < 0x01400000) || inPool addr

/-- A core's load passes an earlier store to other bytes, unless both ranges are strong (R291, R295). -/
def loadPasses (write : Bool) (addr size : Nat) (stored : Bool) (at_ n : Nat) : Bool :=
  !write && stored && (weakAddr addr || weakAddr at_) && !rangesMeet addr size at_ n

/-- A held act is an access that one of a master waits behind: an earlier one of its source that it does not pass (R42, R291). -/
def HeldAct.before (a : HeldAct) (m : Master) (write : Bool) (addr size : Nat) : Bool :=
  match a with
  | .access n w at_ k _ _ => sameSource m n && !(!isHost m && loadPasses write addr size w at_ k)
  | _ => false

/-- A store of a master waits. -/
def HeldAct.isStore (a : HeldAct) (m : Master) : Bool := match a with | .access n w _ _ _ _ => w && sameSource m n | _ => false

/-- An access waits behind earlier ones of its source: those that it does not pass, and, a load of a core, more stores than the core's
store buffer holds (R42, R291). -/
def blockedBy (l : List HeldAct) (m : Master) (write : Bool) (addr size : Nat) : Bool :=
  l.any (fun a => a.before m write addr size) || decide (8 < l.countP (·.isStore m))

/-- A request waits: for an earlier one of its source, or for HC_READY (R37, R42). -/
def State.behind (s : State) (m : Master) (write : Bool) (addr size : Nat) : Bool :=
  (isHost m && !s.hcReady) || blockedBy s.held m write addr size

/-- Nothing of a master's source waits, and HC_READY is 1: what every request of it needs is there. -/
def State.unblocked (s : State) (m : Master) : Bool :=
  (!isHost m || s.hcReady) && !s.held.any (fun a => match a with | .access n _ _ _ _ _ => sameSource m n | _ => false)

/-- An address of the Ledger's port B (R282, R299). -/
def inPortB (addr : Nat) : Bool := decide (0x03000000 ≤ addr ∧ addr < 0x03440000)

/-- Port B has served its one access of this cycle (R284). -/
def State.portBusy (s : State) (addr : Nat) : Bool := inPortB addr && s.ledger.portAt == some s.clock.cycles

/-- What goes before an access: for one of port B, the accesses of port A of the cycle and the collector's word, and it takes the
port (R284). -/
def State.takePort (s : State) (addr : Nat) : State :=
  if !inPortB addr then s else
  let s1 := s.portAEnd.collect
  { s1 with ledger := { s1.ledger with portAt := some s1.clock.cycles } }

/-- A request whose turn it is: it runs, or has its answer. -/
def State.serve (s : State) (m : Master) (write : Bool) (addr size : Nat) (data : List Byte) (k : State → Out) : Out :=
  match s.gate m with
  | .run => k (s.takePort addr)
  | .ignore => .next s
  | .deny stat =>
    if write ∧ stat = 1 ∧ inSettings addr size then s.settingWrite addr data m else .next (s.respond m stat [])

/-- A request of the host waits. -/
def HeldAct.ofHost : HeldAct → Bool | .access m _ _ _ _ _ => isHost m | _ => false

/-- Responses of the host that are outstanding (R42). -/
def State.hostResp (s : State) : Nat := s.pins.resp.countP (fun r => isHost r.to_)

/-- What waits and is there already: HC_READY has let in the first `room` requests of the host, and holds back the others (R37, R42). -/
def acceptedOf : Nat → List HeldAct → List HeldAct
  | _, [] => []
  | room, a :: l => if !a.ofHost then a :: acceptedOf room l else match room with
    | 0 => acceptedOf 0 l
    | n + 1 => a :: acceptedOf n l

/-- An act that waits is there already: it is no request that HC_READY holds back, nor one that waits for a record for which the log has
no room (R37, R42, R304). -/
def State.waiting (s : State) (want : Master → Nat → Bool) : Bool :=
  (acceptedOf (32 - s.hostResp) s.held).any (fun a => match a with
    | .access n _ addr _ _ log => (!log || s.logRoom) && want n addr
    | _ => false)

/-- The master of an access of the Pool window that stands in the queue. -/
def poolMaster : Instr → Option Master
  | .poolWindowAccess m _ _ _ _ => some m
  | .hostControlRequest m _ addr _ _ => if inPool addr.toNat then some m else none
  | _ => none

/-- A request waits for port B, where it runs at all: while another has the cycle, while accesses of port A may still come in it, and
behind those that came earlier (R284). -/
def State.portWaits (s : State) (m : Master) (addr : Nat) : Bool :=
  decide (s.gate m = .run) && inPortB addr && (s.portBusy addr || s.portAOpen || s.waiting (fun _ a => inPortB a))

/-- A request for the Pool waits behind those of lower cores, and one of the host behind all, those that come in the same cycle among
them: what the queue holds comes in this cycle (R275; log entry 1). -/
def State.poolWaits (s : State) (m : Master) (addr : Nat) : Bool :=
  decide (s.gate m = .run) && inPool addr &&
    (s.waiting (fun n a => inPool a && decide (masterId n ≤ masterId m)) ||
     s.pending.any (fun i => (poolMaster i).any (fun n => decide (masterId n < masterId m ∧ s.gate n = .run))))

/-- A request: the step of the tick ends before it (R53). It waits for HC_READY and behind an earlier one of its source, whatever
its answer (R37, R42); it is ignored, waits for port B or for the Pool, or is served. -/
def State.gated (s0 : State) (m : Master) (write : Bool) (addr size : Nat) (data : List Byte) (k : State → Out) : Out :=
  let s := s0.closeTick
  if s.gate m ≠ .ignore ∧ (s.behind m write addr size || s.portWaits m addr || s.poolWaits m addr) then .next (s.hold (.access m write addr size data false))
  else s.serve m write addr size data k

/-- An access that breaks the table of R295 or falls on no target. -/
def State.noTarget (s : State) (m : Master) : Out := .next (s.respond m 2 [])

/-- The address of a register offset (R399). -/
def bridgeAt : Nat := 0x20000000

/-- A refused write: one record of kind role-refused, or consent-refused for want of consent, and HS_STAT 0b01 or an access
fault (R305, R306). It waits for room in the log (R304, R311). -/
def State.refuseWrite (s : State) (m : Master) (addr : Nat) (data : List Byte) (consent : Bool) : Out :=
  if !s.logRoom then .next (s.holdWrite m addr data) else
  .next ((if consent then s.actLog m 0x0012 addr 0 0 0 else s.actLog m 0x0002 addr (leNat (data.take 8)) 1 0).respond m 1 [])

/-- A write discarded under R18, R401 or R403, or at an offset that no register occupies (R302). -/
def State.discardWrite (s : State) (m : Master) : Out := .next ((s.count .badWr 1).respond m 0 [])

/-- Selection fields (R402). -/
def isSelection (off : Nat) : Bool := off == 0x184 || decide (0x1C0 ≤ off ∧ off < 0x1E4) || off == 0x260 || off == 0x264

/-- The right to write a register at an offset (R306, R404), consent and the tenant apart. -/
def mayWrite (m : Master) (off : Nat) : Bool :=
  let inR := fun (a b : Nat) => decide (a ≤ off ∧ off < b)
  match m with
  | .host role _ =>
    if role = 0 then off == 0x20 || inR 0x40 0x60 || inR 0x80 0x90 || off == 0x184 || inR 0x1C0 0x1E4 || inR 0x300 0x320 || off == 0x400 || inR 0x3000 0x4000
    else if role = 1 then off == 0x20 || inR 0x100 0x114 || inR 0x120 0x140 || off == 0x140 || inR 0x148 0x160 || off == 0x184 || inR 0x1C0 0x1E4 || inR 0x260 0x268
    else if role = 2 then off == 0x184 || inR 0x1C0 0x1E4 || off == 0x24C || off == 0x250 || inR 0x258 0x268 || inR 0x300 0x320
    else false
  | .core c =>
    off == 0x20 || inR 0x40 0x50 || inR 0x58 0x60 || inR 0x80 0x90 || off == 0x110 || off == 0x140 || inR 0x150 0x160 || off == 0x180
      || off == 0x184 || inR 0x1A0 0x1E4 || off == 0x218 || off == 0x21C || off == 0x240 || off == 0x244 || (off == 0x248 && c == 0)
      || off == 0x250 || inR 0x260 0x268 || inR 0x3000 0x4000
  | .debug => false

/-- Rights that the state decides: PSI_FUSECTL and PSI_TESTCTL with a tenant bound (R359), a core's ENABLE with ALLOW 0
(R415). -/
def State.stateRight (s : State) (m : Master) (off v : Nat) : Bool :=
  if off = 0x24C then decide (s.ao.tenant = 0)
  else if off = 0x258 ∨ off = 0x25C then decide (s.ao.tenant = 0) || (off == 0x258 && v % 16 == 1)
  else match m with
    | .core _ => !(off == 0x110 && bitOf v 0 && !s.regs.churnAllow)
    | _ => true

/-! ## Legal values -/

/-- SXPOS values of the configuration (R159). -/
def sxLegal (c : Configuration) (v : Nat) : Bool := v == 0 || decide (4 ≤ v ∧ v ≤ 2 * c.laneBits - 6)

/-- A half of PSI_LANESPARE may replace what stands there (R420). -/
def spareLegal (old new : Nat) : Bool :=
  let keeps := fun (lo : Nat) => !bitOf old (lo + 7) || field new lo 8 == field old lo 8
  keeps 0 && keeps 8 && !(bitOf new 7 && bitOf new 15 && new % 128 == field new 8 7)

/-- EVENT and FILTER of a counter's control half (R397, R429). -/
def controlLegal (h : Nat) : Bool := decide (h % 256 ≤ 0x10) && !decide (16 ≤ field h 8 5 ∧ field h 8 5 ≤ 30)

/-- A value written to a word that R18 and R403 do not discard. -/
def State.legalWord (s : State) (off v : Nat) : Bool :=
  let recovery := decide (s.unit.state = .recovery)
  if off = 0x100 then decide (v % 8 ≤ 4)
  else if off = 0x104 then decide (v % 65536 ≤ 2000 * s.cfg.ports ∧ v / 65536 ≤ 2000 * s.cfg.ports)
  else if off = 0x108 then decide (1 ≤ v % 65536 ∧ 1 ≤ v / 65536)
  else if off = 0x10C then decide (v % 8 ≤ field v 4 3)
  else if off = 0x140 then decide (v % 16 = 1 ∨ v % 16 = 2)
  else if off = 0x158 then decide (v ≠ 0)
  else if off = 0x180 then recovery && sxLegal s.cfg (v % 32)
  else if 0x1A0 ≤ off ∧ off < 0x1C0 then
    let old := (s.repair.lanes[(off - 0x1A0) / 4]?.getD 0).toNat
    recovery && spareLegal (old % 65536) (v % 65536) && spareLegal (old / 65536) (v / 65536)
  else if off = 0x218 then
    (v % 16 == 1 && recovery) ||
    (v % 16 == 2 && match s.unit.state with | .armed | .running | .replay | .draining => true | _ => false)
  else if off = 0x21C then !bitOf v 0 || recovery
  else if off = 0x240 then [field v 0 2, field v 2 2, field v 4 2, field v 6 2].all (fun c => !s.cores.failed.getLsbD c)
  else if off = 0x250 then decide (v % 16 = 1 ∨ v % 16 = 2) && !s.repair.fwBusy
  else if 0x300 ≤ off ∧ off < 0x310 then controlLegal (v % 65536) && controlLegal (v / 65536)
  else if off = 0x400 then decide (v % 16 = 1 ∨ v % 16 = 2) && !s.sec.busy
  else if 0x3000 ≤ off ∧ off < 0x4000 then !s.sec.busy
  else true

/-! ## Effects -/

/-- One half of a 64-bit value replaced. -/
def putHalf (old : BitVec 64) (high : Bool) (v : Nat) : BitVec 64 :=
  if high then BitVec.ofNat 64 (old.toNat % 2 ^ 32 + 2 ^ 32 * v) else BitVec.ofNat 64 (old.toNat / 2 ^ 32 * 2 ^ 32 + v)

/-- An entry goes into the Control crossing (R67). -/
def State.enqueue (s : State) (c : Crossing) : State := { s with crossing := s.crossing ++ [⟨s.clock.ctl, c⟩] }

/-- A core's watchdog restarts (R293, R426). -/
def State.kick (s : State) (m : Master) (v : Nat) : State :=
  match m with
  | .core c => if bitOf v c.toNat then { s with cores := { s.cores with kicked := s.cores.kicked.set c.toNat s.clock.control (by have := c.isLt; omega) } } else s
  | _ => s

/-- The bits of a word of PSI_PERFCTL that are not reserved (R429). -/
def perfMask (w : Nat) : BitVec 32 := if w < 4 then 0x1FFF1FFF else if w % 2 = 0 then 0xFFFFFFFF else 0xFFFF

/-- PSI_PERFCTL (R17, R429): every counter clears, and the new contents take effect at the next tick. -/
def State.perfWrite (s : State) (w v : Nat) : State :=
  let now := s.perf.next.getD s.perf.words
  { s with perf := { s.perf with counts := Vector.replicate 8 0, next := some (now.mapIdx (fun i x => if i = w then BitVec.ofNat 32 v &&& perfMask w else x)) } }

/-- W1C bits of PSI_STRMCTLSTAT (R16, R412). -/
def State.clearStrm (s : State) (high : Bool) (v : Nat) : State :=
  s.mapStreams (fun p x =>
    if high then { x with startLate := x.startLate && !s.regs.clears 0x8C v p.toNat }
    else { x with refused := x.refused && !s.regs.clears 0x88 v p.toNat, noEffect := x.noEffect && !s.regs.clears 0x88 v (16 + p.toNat) })

/-- In Hold with FW_VERIFY no firmware runs, and the boot ROM serves PSI_FWCTL alone (R330 step 1). -/
def State.romOnly (s : State) : Bool := decide (s.unit.state = .hold ∧ s.unit.reason = 8)

/-- A command that the boot ROM does not serve changes nothing (log entry 48). -/
def State.served (s : State) (f : State → State) : State := if s.romOnly then s else f s

/-- What an accepted write of one word does. The RWL fields keep their values while locked (R15); W1C bits that hardware sets
in the same cycle stay set (R16). A core that comes to hold a function by PSI_CCMAP has its watchdog time counted from its last kick or its
release: no write but its own restarts it (DESIGN CHOICE, log entry 24: R293 does not say from when). -/
def State.applyWord (s : State) (m : Master) (off v : Nat) : State :=
  let r := s.regs
  let id := masterId m
  let set := fun (q : Regs) => ({ s with regs := q } : State)
  if off = 0x20 then set { r with alert := r.alert &&& ~~~(BitVec.ofNat 8 (maskOf ((List.range 8).map (r.clears 0x20 v)))) }
  else if off = 0x48 ∨ off = 0x4C then
    set { r with imgSrc := putHalf r.imgSrc (off == 0x4C) (if off = 0x48 ∧ bitOf v 8 then v - 256 else v) }
  else if off = 0x50 then
    set { r with imgLate := r.imgLate && !r.clears 0x50 v 11, imgStale := r.imgStale && !r.clears 0x50 v 12
                 imgRefused := r.imgRefused && !r.clears 0x50 v 13, ovFull := r.ovFull && !r.clears 0x50 v 14 }
  else if off = 0x88 then s.clearStrm false v
  else if off = 0x8C then s.clearStrm true v
  else if off = 0x100 then if s.unit.locked then s else set { r with partLimit := BitVec.ofNat 3 v }
  else if off = 0x104 then if s.unit.locked then s else set { r with memRead := BitVec.ofNat 16 v, memWrite := BitVec.ofNat 16 (v / 65536) }
  else if off = 0x108 then if s.unit.locked then s else set { r with latLocal := BitVec.ofNat 16 v, latRemote := BitVec.ofNat 16 (v / 65536) }
  else if off = 0x10C then
    set { r with fastest := BitVec.ofNat 3 v, slowest := BitVec.ofNat 3 (v / 16), forceSlow := bitOf v 8, tmax := BitVec.ofNat 16 (v / 65536) }
  else if off = 0x110 then
    (match m with
     | .core _ => set { r with churnOn := bitOf v 0 }
     | _ => set { r with churnOn := bitOf v 0, churnAllow := bitOf v 1, thresh := BitVec.ofNat 8 (v / 256) })
  else if 0x120 ≤ off ∧ off < 0x140 then
    let w := (off - 0x120) / 4
    set { r with budgets := r.budgets.mapIdx (fun i b => if i = 2 * w then BitVec.ofNat 16 v else if i = 2 * w + 1 then BitVec.ofNat 16 (v / 65536) else b) }
  else if off = 0x140 then if s.romOnly then s.scrubRefuse else s.scrubControl m v
  else if off = 0x148 then { s with scrub := { s.scrub with refused := s.scrub.refused && !r.clears 0x148 v 12 } }
  else if off = 0x158 then if s.romOnly then s.scrubRefuse else s.switchBegin (BitVec.ofNat 32 v)
  else if off = 0x180 then s.enqueue (.sxpos (BitVec.ofNat 5 v))
  else if off = 0x184 then set { r with setSel := sparseSet 0 r.setSel id (BitVec.ofNat 8 v) }
  else if 0x1A0 ≤ off ∧ off < 0x1C0 then s.enqueue (.laneSpare (BitVec.ofNat 3 ((off - 0x1A0) / 4)) (BitVec.ofNat 32 v))
  else if off = 0x1C0 then set { r with tileSel := sparseSet 0 r.tileSel id (BitVec.ofNat 4 v) }
  else if off = 0x218 then s.enqueue (if v % 16 = 1 then .resume else .recovery)
  else if off = 0x21C then if bitOf v 0 then s.enqueue .probe else s
  else if off = 0x240 then
    { s with cores := { s.cores with f0 := BitVec.ofNat 2 v, f1 := BitVec.ofNat 2 (v / 4), f2 := BitVec.ofNat 2 (v / 16),
                                     stby := BitVec.ofNat 2 (v / 64), noStby := bitOf v 8 } }
  else if off = 0x244 then s.kick m v
  else if off = 0x248 then if bitOf v 0 ∧ s.unit.state = .boot ∧ s.cores.verified then { s with cores := { s.cores with remap := true } } else s
  else if off = 0x24C then { s with cores := { s.cores with testMode := bitOf v 0 } }
  else if off = 0x250 then
    let slot := BitVec.ofNat 8 (v / 256)
    if v % 16 = 1 then s.updateStart slot else s.repairStart (bitOf v 4) slot
  else if off = 0x260 ∨ off = 0x264 then
    set { r with logIdx := sparseSet 0 r.logIdx id (putHalf (sparseGet 0 r.logIdx id) (off == 0x264) v) }
  else if 0x300 ≤ off ∧ off < 0x320 then s.perfWrite ((off - 0x300) / 4) v
  else if off = 0x400 then s.served (if v % 16 = 1 then State.attestStart else State.deliverStart)
  else if 0x3000 ≤ off ∧ off < 0x4000 then { s with sec := { s.sec with mailbox := writeBytes s.sec.mailbox (off - 0x3000) (leBytes 4 v) } }
  else s

/-! ## Command registers -/

/-- Registers on which only an 8-byte write acts (R401, R427). -/
def isWideCommand (off : Nat) : Bool := [0x40, 0x44, 0x58, 0x5C, 0x80, 0x84, 0x258, 0x25C].contains off

/-- Image commands by their code (R410). -/
def imgCmdOf (v : Nat) : Option ImgCmd :=
  match v % 16 with
  | 1 => some .load | 2 => some .arm | 3 => some .release | 4 => some .exchange | 5 => some .drain | 6 => some .unload | 7 => some .abort
  | _ => none

/-- A legal value of a command register. -/
def State.legalWide (s : State) (off v : Nat) : Bool :=
  if off = 0x40 then (imgCmdOf v).isSome
  else if off = 0x58 then (s.overlayKept (BitVec.ofNat 8 v)).isSome
  else if off = 0x80 then decide (1 ≤ v % 16 ∧ v % 16 ≤ 3)
  else decide (1 ≤ v % 16 ∧ v % 16 ≤ 3) && !(v % 16 == 1 && field v 5 2 == 3) && !s.repair.fuseBusy

/-- An overlay command (R334): the seventeenth queued is discarded. -/
def State.pageIn (s : State) (overlay : BitVec 8) (f : Frame) : State :=
  if 16 ≤ s.image.overlays.length then (({ s with regs := { s.regs with ovFull := true } } : State)).freshBit 0x50 14 else
  let g := s.image.gen + 1
  let c : OverlayCmd := { gen := g, overlay := overlay, frame := f, at_ := s.clock.ctl, ready := false, asked := [], got := [], bytes := [],
                          checked := false, bad := none }
  ({ s with image := { s.image with overlays := s.image.overlays ++ [c], gen := g } } : State).wakeDomain domSL

/-- What an accepted write of a command register does. A Start's enqueue wakes the stream's domains (R383). -/
def State.applyWide (s : State) (off v : Nat) : State :=
  let f : Frame := BitVec.ofNat 48 (v / 65536)
  if off = 0x40 then (match imgCmdOf v with | some c => s.enqueue (.image c f) | none => s)
  else if off = 0x58 then s.pageIn (BitVec.ofNat 8 v) f
  else if off = 0x80 then
    let p : StreamId := BitVec.ofNat 4 (v / 16)
    if v % 16 = 1 then (s.enqueue (.start p f)).wakeDomains (s.switchable.filter (s.usesDomain p))
    else if v % 16 = 2 then s.enqueue (.stop p) else s.enqueue (.clear p)
  else if s.romOnly then s.fuseEnd notAccepted
  else if v % 16 = 1 then s.resolveStart (bitOf v 4) (field v 5 2)
  else if v % 16 = 2 then s.permStart
  else s.fuseStart (BitVec.ofNat 8 (v / 256)) (BitVec.ofNat 32 (v / 2 ^ 32))

/-! ## Records of accepted writes -/

/-- The RWL bits of a word (R414). -/
def rwlMask (off : Nat) : Nat := if off = 0x100 then 7 else if off = 0x104 ∨ off = 0x108 then 0xFFFFFFFF else 0

/-- The record that an accepted write makes: kind, role, ADDR, VALUE, AUX (R15, R304, R308, R312, R348). `was` is the value
before it. A core's act on a host command names the role that holds the right (R306). -/
def writeRecord (m : Master) (off value mask was : Nat) : Option LogRec :=
  let id := masterId m
  let mk := fun (kind : Nat) (role : BitVec 2) (a v x : Nat) => some (mkRec kind role id a v x 0)
  match m with
  | .host role _ =>
    if role = 0 then
      if off = 0x40 then mk 0x0007 0 (value % 16) (value / 65536) 0
      else if off = 0x80 then mk 0x0008 0 (field value 4 4) (value % 16) (value / 65536)
      else none
    else if mask ≠ 0 then mk 0x0003 role off value mask
    else mk 0x0005 role off value was
  | .core _ =>
    if off = 0x40 then mk 0x0007 0 (value % 16) (value / 65536) 0
    else if off = 0x180 then mk 0x0010 3 (value % 32) (was % 32) 0
    else if off = 0x240 ∨ (0x1A0 ≤ off ∧ off < 0x1C0) then mk 0x0005 3 off value was
    else if off = 0x140 ∨ (0x150 ≤ off ∧ off < 0x160) then mk 0x0005 1 off value was
    else if off = 0x250 then mk 0x0005 2 off value was
    else none
  | .debug => none

/-! ## The write -/

/-- The words of a write: offset and value. -/
def wordsOfWrite (off : Nat) (wide : Bool) (data : BitVec 64) : List (Nat × Nat) :=
  if wide then [(off, data.toNat % 2 ^ 32), (off + 4, data.toNat / 2 ^ 32)] else [(off, data.toNat % 2 ^ 32)]

/-- The value written, and the value before. -/
def State.wasValue (s : State) (m : Master) (off : Nat) (wide : Bool) : Nat :=
  s.regWord (masterId m) off + if wide then 2 ^ 32 * s.regWord (masterId m) (off + 4) else 0

/-- A write whose rights and values hold: its record, where it makes one, and its effect (R304). A write of PSI_RECOVCTL, which changes
the unit state at a tick with a record of its own, waits for room too. -/
def State.performWrite (s : State) (m : Master) (off : Nat) (wide : Bool) (data : BitVec 64) : Out :=
  let ws := (wordsOfWrite off wide data).filter (fun w => regExists w.1)
  let value := if wide then data.toNat else data.toNat % 2 ^ 32
  let mask := if s.unit.locked then rwlMask off + (if wide then 2 ^ 32 * rwlMask (off + 4) else 0) else 0
  let selects := ws.all (fun w => isSelection w.1)
  let effect := fun (t : State) => if isWideCommand off then t.applyWide off data.toNat else
    (ws.foldl (fun t w => t.applyWord m w.1 w.2) t).count .badWr ((if wide then 2 else 1) - ws.length)
  let waits := s.holdWrite m (bridgeAt + off) (leBytes (if wide then 8 else 4) data.toNat)
  match (if selects then none else writeRecord m off value mask (s.wasValue m off wide)) with
  | none => if off = 0x218 && !s.logRoom then .next waits else .next ((effect s).respond m 0 [])
  | some r =>
    if !s.logRoom then .next waits
    else .next ((effect (s.enterLog r)).respond m 0 [])

/-- A write through the bridge (R302): malformed, refused, discarded, or performed. A selection without right is refused as a
read (R402). A reserved or out-of-range value for a locked RWL field is discarded under R18 and makes no locked-write record;
that R18 goes before R15 is the model's choice (DESIGN CHOICE, log entry 49). -/
def State.bridgeWrite (m : Master) (off : Nat) (wide : Bool) (data : BitVec 64) (s : State) : Out :=
  let ws := wordsOfWrite off wide data
  let bytes := leBytes (if wide then 8 else 4) data.toNat
  let judged := (if wide && off == 0x258 then ws.take 1 else ws).filter (fun w => regExists w.1)
  if off % (if wide then 8 else 4) ≠ 0 then s.noTarget m
  else if ws.all (fun w => !regExists w.1) then s.discardWrite m
  else if ws.all (fun w => isSelection w.1) && ws.any (fun w => !mayWrite m w.1) then .next ((s.count .roleRef 1).respond m 1 [])
  else if judged.any (fun w => !(mayWrite m w.1 && s.stateRight m w.1 w.2)) then s.refuseWrite m (bridgeAt + off) bytes false
  else if ws.any (fun w => decide (0x300 ≤ w.1 ∧ w.1 < 0x320)) && !s.profileOn then s.refuseWrite m (bridgeAt + off) bytes true
  else if isWideCommand off then (if wide && s.legalWide off data.toNat then s.performWrite m off wide data else s.discardWrite m)
  else if ws.all (fun w => s.legalWord w.1 w.2) then s.performWrite m off wide data
  else s.discardWrite m

/-- A write of a register by a master (R42, R302). -/
def State.registerWrite (s : State) (m : Master) (off : Nat) (wide : Bool) (data : Nat) : Out :=
  let n := if wide then 8 else 4
  s.gated m true (bridgeAt + off) n (leBytes n data) (fun s => s.bridgeWrite m off wide (BitVec.ofNat 64 data))

end Sys2Proof.Machine
end

