-- ==== Sys2Proof/Machine/Commands.lean ====
section
/-! DEFINITION. The commands that are writes of one register each: image, streams, scrub and tenant, security, Recovery, the
maker's actions, cores (R91, R216, R326, R327, R334, R348, R349, R353, R360, R368, R376, R377, R426, R427). -/

namespace Sys2Proof.Machine

/-- A write of a command register with CMD, a field above it and a frame (R401). -/
def State.commandWrite (s : State) (m : Master) (off low : Nat) (f : Frame) : Out := s.registerWrite m off true (low + 65536 * f.toNat)

def execLoad (m : Master) (s : State) : Out := s.commandWrite m 0x40 1 0
def execArm (m : Master) (s : State) : Out := s.commandWrite m 0x40 2 0
def execRelease (m : Master) (s : State) : Out := s.commandWrite m 0x40 3 0
def execExchange (m : Master) (frame : Frame) (s : State) : Out := s.commandWrite m 0x40 4 frame
def execImageDrain (m : Master) (frame : Frame) (s : State) : Out := s.commandWrite m 0x40 5 frame
def execUnload (m : Master) (frame : Frame) (s : State) : Out := s.commandWrite m 0x40 6 frame
def execAbort (m : Master) (s : State) : Out := s.commandWrite m 0x40 7 0
def execOverlayPageIn (m : Master) (overlay : BitVec 8) (frame : Frame) (s : State) : Out := s.commandWrite m 0x58 overlay.toNat frame
def execStart (m : Master) (p : StreamId) (frame : Frame) (s : State) : Out := s.commandWrite m 0x80 (1 + 16 * p.toNat) frame
def execStop (m : Master) (p : StreamId) (s : State) : Out := s.commandWrite m 0x80 (2 + 16 * p.toNat) 0
def execClear (m : Master) (p : StreamId) (s : State) : Out := s.commandWrite m 0x80 (3 + 16 * p.toNat) 0

def execScrubStart (m : Master) (list : BitVec 22) (s : State) : Out := s.registerWrite m 0x140 false (1 + 16 * list.toNat)
def execScrubCancel (m : Master) (s : State) : Out := s.registerWrite m 0x140 false 2
def execSwitch (m : Master) (tenant : BitVec 32) (s : State) : Out := s.registerWrite m 0x158 false tenant.toNat
def execAttest (m : Master) (s : State) : Out := s.registerWrite m 0x400 false 1
def execDeliver (m : Master) (s : State) : Out := s.registerWrite m 0x400 false 2

def execResume (m : Master) (s : State) : Out := s.registerWrite m 0x218 false 1
def execRecoveryRequest (m : Master) (s : State) : Out := s.registerWrite m 0x218 false 2
def execProbeRun (m : Master) (s : State) : Out := s.registerWrite m 0x21C false 1
def execSxposWrite (m : Master) (value : BitVec 32) (s : State) : Out := s.registerWrite m 0x180 false value.toNat
def execLaneSpareAssign (m : Master) (word : BitVec 3) (value : BitVec 32) (s : State) : Out :=
  s.registerWrite m (0x1A0 + 4 * word.toNat) false value.toNat

def execUpdate (m : Master) (slot : BitVec 8) (s : State) : Out := s.registerWrite m 0x250 false (1 + 256 * slot.toNat)
def execRepair (m : Master) (set : Bool) (slot : BitVec 8) (s : State) : Out :=
  s.registerWrite m 0x250 false (2 + natBit set 4 + 256 * slot.toNat)
def execResolve (m : Master) (set : Bool) (copy : BitVec 2) (s : State) : Out :=
  s.registerWrite m 0x258 true (1 + natBit set 4 + 32 * copy.toNat)
def execPermspare (m : Master) (s : State) : Out := s.registerWrite m 0x258 true 2
def execFusewrite (m : Master) (word : BitVec 8) (value : BitVec 32) (s : State) : Out :=
  s.registerWrite m 0x258 true (3 + 256 * word.toNat + 2 ^ 32 * value.toNat)

def execKick (m : Master) (mask : BitVec 4) (s : State) : Out := s.registerWrite m 0x244 false mask.toNat
def execRemap (m : Master) (s : State) : Out := s.registerWrite m 0x248 false 1
def execPerfctlWrite (m : Master) (word : BitVec 3) (wide : Bool) (data : BitVec 64) (s : State) : Out :=
  s.registerWrite m (0x300 + 4 * word.toNat) wide data.toNat
def execRegisterWrite (m : Master) (offset : BitVec 16) (wide : Bool) (data : BitVec 64) (s : State) : Out :=
  s.registerWrite m offset.toNat wide data.toNat

/-- A read through the bridge (R302, R306, R400): an event-log register by the operator is refused and counted. -/
def State.bridgeRead (m : Master) (off : Nat) (wide : Bool) (s : State) : Out :=
  let id := masterId m
  let offs := if wide then [off, off + 4] else [off]
  let operator := match m with | .host r _ => r == 0 | _ => false
  if off % (if wide then 8 else 4) ≠ 0 then s.noTarget m
  else if operator && offs.any (fun o => decide (0x260 ≤ o ∧ o < 0x2C0)) then .next ((s.count .roleRef 1).respond m 1 [])
  else
    let (s1, v) := s.readReg id off
    if !wide then .next (s1.respond m 0 (leBytes 4 v)) else
    let (s2, w) := s1.readReg id (off + 4)
    .next (s2.respond m 0 (leBytes 4 v ++ leBytes 4 w))

/-- REGISTER_CAPTURE_READ (R400). -/
def execRegisterCaptureRead (m : Master) (offset : BitVec 16) (wide : Bool) (s : State) : Out :=
  s.gated m false (bridgeAt + offset.toNat) (if wide then 8 else 4) [] (State.bridgeRead m offset.toNat wide)

end Sys2Proof.Machine
end

