-- ==== Sys2Proof/Machine/Windows.lean ====
section
/-! DEFINITION. Accesses of the control side outside the registers (R294 to R299, R306): the Setting Store window (R152), the
Pool window (R278), the Ledger's port B with its aliases (R79, R282 to R288), working SRAM, image stores, and the Freeze
read-out window (R394). -/

namespace Sys2Proof.Machine

/-! ## Answers -/

/-- The low 8 bytes of written data. -/
def low8 (data : List Byte) : Nat := leNat (data.take 8)

/-- An accepted write outside the registers: the installer's and the maker's make a record, which they wait for (R304). -/
def State.acceptWrite (s : State) (m : Master) (addr : Nat) (data : List Byte) (effect : State → State) : Out :=
  match m with
  | .host r _ =>
    if r = 0 then .next ((effect s).respond m 0 [])
    else if !s.logRoom then .next (s.holdWrite m addr data)
    else .next ((effect (s.actLog m 0x0005 addr (low8 data) 0 0)).respond m 0 [])
  | _ => .next ((effect s).respond m 0 [])

/-- A refused read makes no record (R306). -/
def State.refuseRead (s : State) (m : Master) : Out := .next ((s.count .roleRef 1).respond m 1 [])

/-- A read of coded words that meets an uncorrectable one answers 0b10 with zero data; flipped bits are corrected (R345,
R346). -/
def State.codedRead (s : State) (m : Master) (st : Store) (words : List Nat) (data : List Byte) : Out :=
  if words.any (s.uncorrectable st) then .next (s.respond m 2 (List.replicate data.length 0))
  else .next ((s.readCorrect st words).respond m 0 data)

/-- Words of 8 bytes that a range touches. -/
def wordsOf (a n : Nat) : List Nat := (List.range ((a + n + 7) / 8 - a / 8)).map (· + a / 8)

/-- A size and alignment that R295 allows: a power of two from 1 to 64, naturally aligned. -/
def wellSized (addr size : Nat) : Bool := [1, 2, 4, 8, 16, 32, 64].contains size && addr % size == 0

/-- The host's maker, and the cores: masters with rights to working SRAM and the zero window (R306). -/
def sramRight : Master → Bool
  | .host r _ => r == 2 | .core _ => true | .debug => false

/-! ## Working SRAM, boot ROM, image stores, Setting Store -/

/-- An access of working SRAM at a byte (R294). -/
def State.sramAccess (s : State) (m : Master) (write : Bool) (addr at_ size : Nat) (data : List Byte) : Out :=
  if !sramRight m then (if write then s.refuseWrite m addr data false else s.refuseRead m)
  else if write then s.acceptWrite m addr data (fun s =>
    State.coverWords { s with cores := { s.cores with sram := writeBytes s.cores.sram at_ data } } .sram (lanesFrom at_ data))
  else s.codedRead m .sram (wordsOf at_ size) (readBytes s.cores.sram at_ size)

/-- The zero window (R294): the boot ROM until REMAP is 1, working SRAM after it. -/
def State.zeroWindow (s : State) (m : Master) (write : Bool) (addr size : Nat) (data : List Byte) : Out :=
  if s.cores.remap then s.sramAccess m write addr addr size data
  else if write || decide (0x40000 ≤ addr) then s.noTarget m
  else if !sramRight m then s.refuseRead m
  else s.codedRead m .bootRom (wordsOf addr size) ((List.range size).map (fun i => Config.bootRom (addr + i)))

/-- A read of an image store; `base` is the store's first word among those of `eccBad` (R319, R345). -/
def State.imageRead (s : State) (m : Master) (img : ImageStore) (base at_ size : Nat) : Out :=
  s.codedRead m .imageStores ((wordsOf at_ size).map (· + base)) (readBytes img.bytes at_ size)

/-! ## The Pool window -/

/-- Where a physical byte lies: region, half, offset (R260, R262 to R266); none in no valid region. -/
def State.poolWhere (s : State) (a : Nat) : Option (Nat × Nat × Nat) :=
  let nb := s.setBanks
  let row := a / (32 * s.cfg.banks)
  let bank := a / 32 % s.cfg.banks
  let set : StreamId := BitVec.ofNat 4 (bank % s.parts)
  (List.range 1024).findSome? (fun r =>
    let g := s.image.bank.region r
    if !g.valid || decide (row < g.row ∨ g.row + g.nrow ≤ row) || !(s.copySets r).contains set then none else
    let rel := row - g.row
    let half := if g.halved then rel / g.rows else 0
    let rrow := if g.halved then rel % g.rows else rel
    ((List.range nb).find? (fun c => s.bankOf r g rrow c == bank / s.parts)).map (fun c => (r, half, 32 * (rrow * nb + c) + a % 32)))

/-- The bytes of a write at the same offset of every copy (R278). -/
def State.poolCopies (s : State) (a : Nat) (b : Byte) : Mem :=
  match s.poolWhere a with
  | none => []
  | some (r, half, o) => (s.copySets r).map (fun set => (s.poolAddr r set half o, b))

/-- The banks that an access of the window needs: a read those of its bytes, a write those of every copy (R260, R264, R278). -/
def State.dmaBanks (s : State) (write : Bool) (w size : Nat) : List Nat :=
  ((List.range size).flatMap (fun i => match s.poolWhere (w + i) with
    | none => []
    | some (r, half, o) =>
      if write then (s.copySets r).map (fun set => s.bankAt (s.poolAddr r set half o)) else [s.bankAt (w + i)])).eraseDups

/-- The clear engine takes every bank in this cycle: it has set-rows to clear, and the lane arrays are On (R275, R328, R380). -/
def State.clearing (s : State) : Bool :=
  s.unit.clear.isSome && s.unit.initAt.isSome && (List.range s.cfg.arrays).all (fun d => decide (s.domCur d = 0 ∧ s.domReq d = 0))

/-- A bank is left for a window access: it serves no read of its set's stream in this cycle, no word drains there, and the clear engine
does not take it (R271, R275). -/
def State.bankIdle (s : State) (b : Nat) : Bool :=
  !s.drainSets.cycle.banks.contains b && !(s.nextReads (BitVec.ofNat 4 (b % s.parts))).contains b && !s.clearing

/-- DMA has what an access needs: the lane arrays serve, and its banks are idle (R271, R275, R384). -/
def State.dmaReady (s : State) (write : Bool) (w size : Nat) : Bool := s.arraysServe && (s.dmaBanks write w size).all s.bankIdle

/-- An access of the window waits for its ports; in Hold one of the host's wakes the lane arrays (R275, R384). -/
def State.dmaWait (s : State) (m : Master) (write : Bool) (w size : Nat) (data : List Byte) : State :=
  (if isHost m ∧ s.unit.state = .hold then s.wakeDomains (List.range s.cfg.arrays) else s).hold
    (.access m write (0x10000000 + w) size data false)

/-- POOL_WINDOW_ACCESS at physical byte W (R278); its banks have no other cycle for DMA after it (R275). -/
def State.poolWindow (write : Bool) (w size : Nat) (data : List Byte) (m : Master) (s : State) : Out :=
  let taken := fun (t : State) => t.takeBanks (s.dmaBanks write w size)
  let host := isHost m
  let places := (List.range size).map (fun i => s.poolWhere (w + i))
  let lacks := fun (p : Option (Nat × Nat × Nat)) => match p with
    | none => false
    | some (r, _, _) => let g := s.image.bank.region r; if write then !g.hostW else !g.hostR
  if !wellSized w size || (write && data.length != size) then s.noTarget m
  else if host && places.any lacks then .next (s.respond m 1 [])
  else if !s.dmaReady write w size then .next (s.dmaWait m write w size data)
  else if write then s.acceptWrite m (0x10000000 + w) data (fun s =>
    taken (s.poolStore ((data.take size).mapIdx (fun i b => s.poolCopies (w + i) b)).flatten))
  else
    let inside := places.any (·.isSome)
    (taken s).codedRead m .pool (if inside then wordsOf w size else [])
      (places.mapIdx (fun i p => if p.isSome then s.poolByte none s.clock.offset (w + i) else 0))

/-- POOL_WRITE_DRAIN: the oldest word of a set's write buffer goes to its bank (R272), ahead of the drains with which the cycle ends. The
read of the set's stream goes first: a bank that it may yet read in the cycle takes no word (R271). -/
def execPoolWriteDrain (set : StreamId) (s0 : State) : Out :=
  let s := s0.closeTick
  .next (if !s.coresLive ∨ (s.drainBank set).any (s.nextReads set).contains then s else s.drainWord set)

/-! ## Port B of the Ledger -/

/-- Owner of an object under the image (R72, R283): `host` and `rec` are its range's offsets in the stream table's global bytes
and in a stream's record. -/
def State.ownerOf (s : State) (host rec n : Nat) : TimerOwner :=
  match allStreams.find? (fun p => s.image.bank.rangeAt (64 + 1024 * p.toNat + rec) n) with
  | some p => .stream p
  | none => if s.image.bank.rangeAt host n then .host else .control

/-- The owner that a master acts as. -/
def agentOf : Master → TimerOwner
  | .host _ _ => .host | _ => .control

/-- A refused write of port B (R283). -/
def State.ledgerRefuse (s : State) (m : Master) : Out := .next ((s.count .ledgerRef 1).respond m 1 [])

/-- A performed write of port B: the waits see it (R284). -/
def State.ledgerAccept (s : State) (m : Master) (addr : Nat) (data : List Byte) (effect : State → State) : Out :=
  s.acceptWrite m addr data (fun s => (effect s).evalWaits)

/-- TALLY_ADD (R282, R283). -/
def State.portTally (n : Nat) (v : BitVec 32) (m : Master) (s : State) : Out :=
  let ok := match s.ownerOf 4 8 n, agentOf m with
    | .host, _ => true
    | .control, .control => true
    | _, _ => false
  if !ok then s.ledgerRefuse m else s.ledgerAccept m (0x03200000 + 4 * n) (leBytes 4 v.toNat) (fun s => s.tallyInc n v.toNat)

/-- SEND_ALIAS_WRITE (R282, R286): 8 to 64 bytes in multiples of 8; a full peer discards the message. -/
def State.portSend (e : Nat) (data : List Byte) (m : Master) (s : State) : Out :=
  if data.length % 8 ≠ 0 ∨ data.isEmpty ∨ 64 < data.length then s.noTarget m
  else if s.ownerOf 8 12 e ≠ agentOf m then s.ledgerRefuse m
  else if (s.ledgerBad (s.sendWords e)).isSome then .next (s.respond m 2 [])
  else if !s.endpointOpen e then State.ledgerRefuse (s.readLedger (s.sendWords e)) m
  else s.ledgerAccept m (0x03300000 + 64 * e) data (fun s => ((s.readLedger (s.sendWords e)).send e data).1)

/-- A read of a receive alias (R287). One by an agent that does not own the endpoint is answered as a refused write is (R283; DESIGN
CHOICE, log entry 73). -/
def State.portReceive (e : Nat) (m : Master) (s : State) : Out :=
  if s.ownerOf 8 12 e ≠ agentOf m then s.ledgerRefuse m
  else if (s.ledgerBad [endpointAt e, endpointAt e + 8]).isSome then .next (s.respond m 2 (List.replicate 64 0))
  else if s.queued e = 0 then .next ((s.readLedger [endpointAt e, endpointAt e + 8]).respond m 0 (List.replicate 64 0))
  else if (s.ledgerBad (s.messageWords e)).isSome then .next (s.respond m 2 (List.replicate 64 0))
  else .next ((((s.readLedger (s.messageWords e)).receive e).evalWaits).respond m 0 (padTo 64 (s.headMessage e)))

/-- Bytes of a timer that a write covers put into it, the reserved bit of byte 12 left 0 (R17, R72). -/
def State.timerPut (s : State) (n o : Nat) (bs : List Byte) : State :=
  let bs := if o = 12 then leBytes 4 (leNat bs - natBit (bitOf (leNat bs) 3) 3) else bs
  s.ledgerPut (timerAt n + o) bs

/-- The STATE request of a write (R74, R78, R79). -/
def State.timerRequest (s : State) (n req : Nat) : State :=
  let s := s.readLedger (s.timerReads n req)
  if req = 1 then s.armTimer n
  else if req = 5 then s.cancelTimer n
  else if req = 0 then
    if s.timerArmed n then s else let v := s.timerMid n; s.ledgerPut (timerAt n + 8) (leBytes 4 (v - v % 16))
  else s.count .badWr 1

/-- TIMER_WRITE (R79); a STATE request that reads an uncorrectable word changes nothing (R345): words of 4 bytes at offset `o` of the timer. -/
def State.portTimer (n o : Nat) (data : List Byte) (m : Master) (s : State) : Out :=
  let fields := fun (w : Nat) => w ≠ 8
  let words := (List.range (data.length / 4)).map (fun i => (o + 4 * i, (data.drop (4 * i)).take 4))
  if (data.length ≠ 4 ∧ data.length ≠ 8) ∨ o % data.length ≠ 0 ∨ 16 < o + data.length then s.noTarget m
  else if s.ownerOf 12 16 n ≠ agentOf m then s.ledgerRefuse m
  else if s.timerArmed n && words.any (fun w => decide (fields w.1)) then s.ledgerRefuse m
  else if words.any (fun w => w.1 == 8 && (s.ledgerBad (s.timerReads n (leNat w.2 % 16))).isSome) then .next (s.respond m 2 [])
  else s.ledgerAccept m (0x03000000 + timerAt n + o) data (fun s =>
    let s1 := (words.filter (fun w => decide (fields w.1))).foldl (fun s w => s.timerPut n w.1 w.2) s
    match words.find? (fun w => w.1 == 8) with
    | some w => s1.timerRequest n (leNat w.2 % 16)
    | none => s1)

/-- ENDPOINT_RECORD_WRITE (R283): only 4 bytes at record byte 0, of which bytes 0 and 1 take OPEN and PEER. -/
def State.portEndpoint (e o : Nat) (data : List Byte) (m : Master) (s : State) : Out :=
  if (data.length ≠ 4 ∧ data.length ≠ 8) ∨ o % data.length ≠ 0 then s.noTarget m
  else if s.ownerOf 8 12 e ≠ agentOf m ∨ o ≠ 0 ∨ data.length ≠ 4 then s.ledgerRefuse m
  else
    let v := leNat data
    s.ledgerAccept m (0x03000000 + endpointAt e) data (fun s => s.setOpen e (bitOf v 0) (field v 1 12))

/-- DETECTOR_RECORD_WRITE: by a control core (R283, R288). -/
def State.portDetector (n o : Nat) (data : List Byte) (m : Master) (s : State) : Out :=
  let words := (List.range (data.length / 4)).map (fun i => leBytes 4 (leNat ((data.drop (4 * i)).take 4) % detectorMask (o + 4 * i)))
  if (data.length ≠ 4 ∧ data.length ≠ 8) ∨ o % data.length ≠ 0 ∨ 16 < o + data.length then s.noTarget m
  else if agentOf m ≠ .control then s.ledgerRefuse m
  else s.ledgerAccept m (0x03000000 + detectorAt n + o) data (fun s => s.ledgerPut (detectorAt n + o) words.flatten)

/-- LEDGER_WORD_WRITE and every other write of port B by its offset (R282, R283). -/
def State.portWord (x : Nat) (data : List Byte) (m : Master) (s : State) : Out :=
  if (data.length ≠ 4 ∧ data.length ≠ 8) ∨ x % data.length ≠ 0 then s.noTarget m
  else if 0x10000 ≤ x ∧ x < 0x14000 then s.portTimer ((x - 0x10000) / 16) (x % 16) data m
  else if 0x14000 ≤ x ∧ x < 0x15000 then s.portDetector ((x - 0x14000) / 16) (x % 16) data m
  else if 0x20000 ≤ x ∧ x < 0x40000 then s.portEndpoint ((x - 0x20000) / 32) (x % 32) data m
  else if 0x40000 ≤ x ∧ x < 0x100000 then s.ledgerAccept m (0x03000000 + x) data (fun s => s.ledgerPut x data)
  else s.ledgerRefuse m

/-- A read of port B (R283): 4 or 8 bytes at any offset. -/
def State.portRead (s : State) (m : Master) (x size : Nat) : Out :=
  if (size ≠ 4 ∧ size ≠ 8) ∨ x % size ≠ 0 then s.noTarget m
  else s.codedRead m .ledger [x / 8] (readBytes s.ledger.bytes x size)

/-! ## The Freeze read-out window -/

/-- Byte q of a core's registers in the window (R394): the pc of a core that is held in reset is the address at which it will begin
(R291); what the firmware's code has left is free (log entry 20). -/
def State.coreByte (s : State) (c q : Nat) : Byte :=
  let x := s.cores.ctx[c % 4]'(Nat.mod_lt _ (by decide))
  if q < 8 ∨ 0x288 ≤ q then 0
  else if x.inReset ∧ 0x200 ≤ q ∧ q < 0x208 then (leBytes 8 x.pc.toNat).getD (q - 0x200) 0
  else Config.coreByte s.clock.ticks (0x1000 * c + q)

/-- A byte of the window (R394); `page` is PAGE. -/
def State.freezeByte (s : State) (page o : Nat) : Byte :=
  if o < 0x200000 then
    let lane := o % 0x2000
    if s.tileUse.contains (shareKey (BitVec.ofNat 4 (lane % s.parts)) (BitVec.ofNat 8 (o / 0x2000))) then memGet s.tiles o else 0
  else if o < 0x380000 then
    let w := sparseGet Well.clear s.basin.wells ((o - 0x200000) / 24)
    BitVec.ofNat 8 ((w.acc.toNat + 2 ^ 182 * w.anchor.toNat) / 256 ^ ((o - 0x200000) % 24))
  else if o < 0x381000 then ((s.stream (BitVec.ofNat 4 ((o - 0x380000) / 256))).ctx.bytes).getD (o % 256) 0
  else if o < 0x385000 then s.coreByte ((o - 0x381000) / 0x1000) (o % 0x1000)
  else if 0x390000 ≤ o ∧ o < 0x3A0000 then
    let x := o - 0x390000
    BitVec.ofNat 8 (s.regWord 7 (x / 4 * 4) / 256 ^ (x % 4))
  else if 0x400000 ≤ o ∧ o < 0x740000 then memGet s.settings.bytes (o - 0x400000)
  else if 0x800000 ≤ o ∧ o < 0xA00000 then memGet s.ledger.bytes (o - 0x800000)
  else if 0xC00000 ≤ o ∧ o < 0x1000000 then
    let a := 0x400000 * page + (o - 0xC00000)
    if a < 65536 * s.cfg.banks then s.poolByte none (2 ^ 20) a else 0
  else 0

/-- What a read of the window returns: the captured state to the debug port while Frozen with DEBUG in effect, else zeros
(R394). -/
def State.freezeRead (s : State) (m : Master) (page o size : Nat) : List Byte :=
  if s.unit.state = .frozen ∧ s.debugOn ∧ m = .debug then (List.range size).map (fun i => s.freezeByte page (o + i))
  else List.replicate size 0

/-- An access of the window (R295, R306, R394): only the debug port and the maker read it. -/
def State.freezeWindow (o size : Nat) (m : Master) (s : State) : Out :=
  let right := match m with | .host r _ => r == 2 | .core _ => false | .debug => true
  if !wellSized o size then s.noTarget m
  else if !right then s.refuseRead m
  else .next (s.respond m 0 (s.freezeRead m 0 o size))

/-! ## The control-side address map -/

/-- An access of a master at an address (R295, R299); once the fast matrix has faulted the fallback matrix reaches the zero
window, the SRAM alias and the bridge alone (R300, R326). -/
def State.access (write : Bool) (addr size : Nat) (data : List Byte) (m : Master) (s : State) : Out :=
  let inR := fun (a n : Nat) => decide (a ≤ addr ∧ addr + size ≤ a + n)
  let limp := s.unit.matrixOff
  if write && inSettings addr size then s.settingWrite addr data m
  else if write && (data.length != size) then s.noTarget m
  else if inR 0x20000000 0x10000 then
    if size ≠ 4 ∧ size ≠ 8 then s.noTarget m
    else if write then s.bridgeWrite m (addr - 0x20000000) (size == 8) (BitVec.ofNat 64 (low8 data))
    else s.bridgeRead m (addr - 0x20000000) (size == 8)
  else if inR 0x03300000 0x40000 && !limp then
    if write ∧ addr % 64 = 0 then s.portSend ((addr - 0x03300000) / 64) data m else s.noTarget m
  else if !wellSized addr size then s.noTarget m
  else if inR 0 0x400000 then s.zeroWindow m write addr size data
  else if inR 0x01000000 0x400000 then s.sramAccess m write addr (addr - 0x01000000) size data
  else if limp then s.noTarget m
  else if inR 0x02000000 0x340000 then
    .next ((s.readRanges .settings [(addr - 0x02000000, size)]).respond m 0 (readBytes s.settings.bytes (addr - 0x02000000) size))
  else if inR 0x03000000 0x200000 then
    if write then s.portWord (addr - 0x03000000) data m else s.portRead m (addr - 0x03000000) size
  else if inR 0x03200000 0x10000 then
    if write ∧ size = 4 then s.portTally ((addr - 0x03200000) / 4) (BitVec.ofNat 32 (leNat data)) m else s.noTarget m
  else if inR 0x03400000 0x40000 then
    if !write ∧ size = 64 then s.portReceive ((addr - 0x03400000) / 64) m else s.noTarget m
  else if write ∧ !inR 0x10000000 0x4000000 then s.noTarget m
  else if inR 0x04000000 0x1000000 then s.imageRead m s.image.active 0 (addr - 0x04000000) size
  else if inR 0x05000000 0x1000000 then s.imageRead m s.image.shadow 0x200000 (addr - 0x05000000) size
  else if inR 0x10000000 0x4000000 then s.poolWindow write (addr - 0x10000000) size data m
  else if inR 0x30000000 0x1000000 then s.freezeWindow (addr - 0x30000000) size m
  else s.noTarget m

/-- A master's access of a target that the fallback matrix does not reach (R300, R326). -/
def State.beyondLimp (s : State) (m : Master) (write : Bool) (addr size : Nat) (data : List Byte) (k : Master → State → Out) : Out :=
  s.gated m write addr size data (fun s => if s.unit.matrixOff then s.noTarget m else k m s)

/-! ## The rows -/

/-- SETTING_STORE_WRITE (R152). -/
def execSettingStoreWrite (m : Master) (addr : BitVec 32) (data : List Byte) (s : State) : Out :=
  s.gated m true addr.toNat data.length data (State.settingWrite addr.toNat data m)

/-- POOL_WINDOW_ACCESS (R278). -/
def execPoolWindowAccess (m : Master) (write : Bool) (addr : BitVec 26) (size : BitVec 7) (data : List Byte) (s : State) : Out :=
  s.beyondLimp m write (0x10000000 + addr.toNat) size.toNat data (State.poolWindow write addr.toNat size.toNat data)

/-- TALLY_ADD (R282). -/
def execTallyAdd (m : Master) (n : BitVec 14) (v : BitVec 32) (s : State) : Out :=
  s.beyondLimp m true (0x03200000 + 4 * n.toNat) 4 (leBytes 4 v.toNat) (State.portTally n.toNat v)

/-- SEND_ALIAS_WRITE (R286). -/
def execSendAliasWrite (m : Master) (e : BitVec 12) (data : List Byte) (s : State) : Out :=
  s.beyondLimp m true (0x03300000 + 64 * e.toNat) data.length data (State.portSend e.toNat data)

/-- RECEIVE_ALIAS_READ (R287). -/
def execReceiveAliasRead (m : Master) (e : BitVec 12) (s : State) : Out :=
  s.beyondLimp m false (0x03400000 + 64 * e.toNat) 64 [] (State.portReceive e.toNat)

/-- TIMER_WRITE (R79). -/
def execTimerWrite (m : Master) (n : BitVec 10) (at8 : BitVec 4) (data : List Byte) (s : State) : Out :=
  s.beyondLimp m true (0x03000000 + timerAt n.toNat + at8.toNat) data.length data (State.portTimer n.toNat at8.toNat data)

/-- ENDPOINT_RECORD_WRITE (R283). -/
def execEndpointRecordWrite (m : Master) (e : BitVec 12) (at5 : BitVec 5) (data : List Byte) (s : State) : Out :=
  s.beyondLimp m true (0x03000000 + endpointAt e.toNat + at5.toNat) data.length data (State.portEndpoint e.toNat at5.toNat data)

/-- DETECTOR_RECORD_WRITE (R288). -/
def execDetectorRecordWrite (m : Master) (n : BitVec 8) (at4 : BitVec 4) (data : List Byte) (s : State) : Out :=
  s.beyondLimp m true (0x03000000 + detectorAt n.toNat + at4.toNat) data.length data (State.portDetector n.toNat at4.toNat data)

/-- LEDGER_WORD_WRITE (R284). -/
def execLedgerWordWrite (m : Master) (offset : BitVec 21) (data : List Byte) (s : State) : Out :=
  s.beyondLimp m true (0x03000000 + offset.toNat) data.length data (State.portWord offset.toNat data)

/-- HOST_CONTROL_REQUEST: a request at the host control port, or an access of a core, by its address (R42, R295, R299). -/
def execHostControlRequest (m : Master) (write : Bool) (addr : BitVec 32) (size : BitVec 7) (data : List Byte) (s : State) : Out :=
  s.gated m write addr.toNat size.toNat data (State.access write addr.toNat size.toNat data m)

/-- FREEZE_READOUT (R394): the debug port reads while the cores' and the host's ports are held. -/
def execFreezeReadout (m : Master) (addr : BitVec 24) (size : BitVec 7) (s : State) : Out :=
  match m with
  | .debug => if s.unit.state = .off ∨ s.unit.state = .reset ∨ s.unit.matrixOff then .next s else s.freezeWindow addr.toNat size.toNat m
  | _ => s.beyondLimp m false (0x30000000 + addr.toNat) size.toNat [] (State.freezeWindow addr.toNat size.toNat)

end Sys2Proof.Machine
end

