-- ==== Sys2Proof/Machine/Held.lean ====
section
/-! DEFINITION. Acts that wait: for room in the log (R304, R311), for HC_READY (R42), for port B (R284), for a Pool port that R271
leaves idle and for the lane arrays (R275, R384); and the log service, which makes the room (R310, R311). -/

namespace Sys2Proof.Machine

/-- The state of a command that answers one; the meanings used here answer no fault. -/
def Out.stateOr (o : Out) (s : State) : State := match o with | .next t => t | _ => s

/-- An access of port B. -/
def HeldAct.isPortB : HeldAct → Bool | .access _ _ addr _ _ _ => inPortB addr | _ => false

/-- HC_READY has let in a request of the host that waits: fewer than 32 of those before it are outstanding (R42). -/
def State.hostRoom (s : State) (before : List HeldAct) : Bool := decide (s.hostResp + before.countP HeldAct.ofHost < 32)

/-- A held act can go on: no earlier one of its source waits, and what it needs is there, room in the log where it makes a record. -/
def State.heldReady (s : State) (before : List HeldAct) (a : HeldAct) : Bool :=
  match a with
  | .access m write addr size _ log =>
    (!log || s.logRoom)
      && !blockedBy before m write addr size
      && (!isHost m || s.hostRoom before)
      && !s.portBusy addr
      && (!a.isPool || s.dmaReady write (addr - 0x10000000) size)
  | .firmware _ a => s.actRoom a
  | _ => s.logRoom

/-- Among the acts that can go on, an act's place: of accesses and records by master id, those of the cores first (R275, R311). -/
def HeldAct.rank : HeldAct → Nat
  | .access m _ _ _ _ _ => masterId m
  | .record r => r.agent.toNat
  | .firmware core _ => core.toNat
  | _ => 0

/-- The store buffer of a core (R291): its stores that have not completed, at most 8; what it issues behind them waits in it or for it
(log entry 20). -/
def State.storeBuffer (s : State) (c : BitVec 2) : List HeldAct :=
  (s.held.filter (fun a => match a with | .access m write _ _ _ _ => write && sameSource m (.core c) | _ => false)).take 8

/-- The act that goes on next: of port B's the one that came first (R284), of the others the first of the lowest rank. -/
def State.heldNext (s : State) : Option HeldAct :=
  let ready := (List.range s.held.length).filterMap (fun i => match s.held[i]? with
    | some a => if s.heldReady (s.held.take i) a then some a else none
    | none => none)
  match ready.find? HeldAct.isPortB, ready with
  | some a, _ => some a
  | none, a :: l => some (l.foldl (fun b c => if c.rank < b.rank then c else b) a)
  | none, [] => none

/-- An access that turns out to need a record keeps its place, and waits for room in the log (R304, R311). -/
def HeldAct.forLog (a : HeldAct) : HeldAct := match a with | .access m write addr size data _ => .access m write addr size data true | _ => a

/-- A decision of the firmware that has waited, where the machine still is as it was taken for. -/
def State.fwAct (s : State) (a : FwAct) : State :=
  match a with
  | .bootRest => if s.unit.state = .boot ∧ s.repair.setsRead then s.bootRest s.repair.maps s.repair.trims else s
  | .bootRefused => if s.unit.state = .boot then s.bootRefused else s
  | .bootAgain => if s.unit.state = .hold then s.bootAgain else s
  | .switchBound t => if s.unit.state = .scrub then s.switchBound t else s
  | .switchFail code => if s.unit.state = .scrub ∨ s.unit.state = .hold then s.switchFail code else s

/-- A held act goes on, as if it came now (R304). An access does so before the later ones of its source, and a request of F1
where F1 would still make it (R380 to R384, R386). -/
def State.goOn (s : State) (a : HeldAct) : State :=
  let s1 : State := { s with held := s.held.erase a }
  match a with
  | .access m write addr size data _ =>
    let t := (s1.serve m write addr size data (State.access write addr size data m)).stateOr s1
    if s.held.length ≤ t.held.length then { s with held := s.held.replace a a.forLog } else t
  | .domain d v => if s1.policyWish d = some v then s1.requestDomain s1.cores.f1.toNat d v else s1
  | .point p => if s1.inRange p.toNat then s1.requestPoint p else s1
  | .record r => s1.enterLog r
  | .firmware _ a => s1.fwAct a

/-- One held act goes on, where one can. In Off and Frozen the host's requests alone do, to be answered 0b11 (R393; DEDUCED, log
entry 64). -/
def State.resumeOne (s : State) : State :=
  match s.unit.state with
  | .reset => s
  | .off | .frozen => (match s.held.find? HeldAct.ofHost with
    | some a => if s.hostRoom [] then s.goOn a else s
    | none => s)
  | _ => match s.heldNext with | some a => s.goOn a | none => s

/-- The clear engine's cycle: one set-row of every set is 0, with correct code (R275, R345). -/
def State.clearRow (s : State) (r : Nat) : State :=
  let n := 32 * s.cfg.banks
  let s1 := s.keepEcc (fun e => !(e.1 == Store.pool && decide (n * r ≤ 8 * e.2 ∧ 8 * e.2 < n * (r + 1))))
  State.takeBanks { s1 with pool := { s1.pool with bytes := zeroRange s1.pool.bytes (n * r) n }
                            unit := { s1.unit with clear := if r + 1 < 2048 then some (r + 1) else none } } (List.range s.cfg.banks)

/-- The clear engine clears its next set-row in a cycle in which every bank is free (R275, R328). -/
def State.clearStep (s : State) : State :=
  match s.unit.clear with
  | some r => if s.clearing && s.cycle.banks.isEmpty then s.clearRow r else s
  | none => s

/-- The Pool's part of a cycle's end: its reads are made, its drains follow, and the clear engine takes what they leave (R271, R272,
R275). -/
def State.poolEnd (s : State) : State := if s.coresLive then s.drainSets.clearStep else s

/-- A cycle's last part: its issues are over; every held act that can goes on, those of port B after the cycle's accesses of port A
(R275, R284, R304). -/
def State.resumeHeld (s : State) : State :=
  if s.held.isEmpty then s else
  Nat.repeat State.resumeOne (2 * s.held.length) s.closeIssue

/-- LOG_RECORD_WRITE: the oldest queued record goes to its slot (R310, R311); what waits for the room goes on as the cycle ends (R304). -/
def execLogRecordWrite (s : State) : Out :=
  if !s.logServes then .next s else
  match s.log.queue with
  | [] => .next s
  | r :: rest => .next (s.logService r rest)

end Sys2Proof.Machine
end

