-- ==== Sys2Proof/Machine/Clock.lean ====
section
/-! DEFINITION. A core cycle that passes without a command (DESIGN CHOICE, log entry 1): the timebase and the control
clock run (R11, R70), results arrive (R26, R113), and the sequencers reach their waiting instructions (R135, R139). -/

namespace Sys2Proof.Machine

/-- The clocks over one core cycle: 1,000 / MHz tb and 1,600 / MHz control cycles (R11, R69, R385). -/
def Clock.run (c : Clock) : Clock :=
  let mhz := coreMHz c.point
  let tb := c.tb + BitVec.ofNat 64 ((c.tbRem + 1000) / mhz)
  { c with cycles := c.cycles + 1, tb := tb, tbRem := (c.tbRem + 1000) % mhz
           ctl := c.ctl + (c.ctlRem + 1600) / mhz, ctlRem := (c.ctlRem + 1600) % mhz
           centre := regionTime tb c.centre c.drawn, control := regionTime tb c.control (c.drawn + 1)
           drawn := c.drawn + 2 }

/-- PROT with FADDR 8,192 in the cycle after the last issue of a stream that ran past its program (R112). -/
def State.endOfProgram (s : State) (p : StreamId) : State :=
  if (s.stream p).pastEnd then
    (s.modStream p (fun x => { x with pastEnd := false })).raise p faultPROT 8192 3 (s.pc p)
  else s

/-- An event in a cycle in which a condition holds. -/
def State.eventIf (s : State) (holds : Bool) (code : Nat) (p : StreamId) : State := if holds then s.event code p.toNat 1 else s

/-- The events that the cycle which ends counts (R397): streams Running at offsets 0 to 1,983, Setter slice cycles, occupancy of the
Separator and of the Skimmer. -/
def State.cycleEvents (s : State) : State :=
  if !s.perf.on then s else
  allStreams.foldl (fun t p =>
    let x := s.stream p
    let o := s.clock.offset
    (((t.eventIf (decide (x.ctx.state = .running ∧ o ≤ 1983)) 0x01 p).eventIf (s.setterWorks p o) 0x05 p).eventIf
      (decide (o < x.sepEnd)) 0x0A p).eventIf (decide (o < x.skimEnd)) 0x0B p) s

/-- A cycle begins: what counted in the last one shows, and its W1C bits are no longer fresh (R16, R433). The cycle of R16 is the core
cycle, for the registers on the control clock too (DESIGN CHOICE, log entry 82: R16 does not say which clock's). -/
def State.newCycle (s : State) : State :=
  let s1 := s.idlePins
  { s1 with regs := { s1.regs with countsWas := s1.regs.counts, fresh := [] }, cycle := s1.cycle.carry }

/-- The control cycles that a core cycle brings: responses and security beats transfer (R37, R42, R46). -/
def State.controlRun (s : State) (before : Nat) : State :=
  Nat.repeat (fun t => t.drainResp.secBeat) (s.clock.ctl - before) s

/-- A core cycle of a machine whose clocks run: offset, arrivals, ends of programs, the instructions that the sequencers reach, the
Sluice's request passes and the memory ports. The accesses of the Ledger's port A, the passes of a defective Cascade, the Pool's drains and what waits for the cycle's end close the cycle
before it (R83, R271, R272, R284); that those of a cycle in which a tick comes follow the tick's step is the model's choice (DESIGN CHOICE, log
entry 54). -/
def State.coreRun (s : State) : State :=
  let s0 := s.passAll.portAEnd.poolEnd.resumeHeld.cycleEvents.countReleases.newCycle
  let s1 := { s0 with clock := { s0.clock.run with offset := s0.clock.offset + 1 } }
  let s2 := s1.freeEntries.arriveDue (2 * s1.inflight.length + 16)
  let s3 := allStreams.foldl State.endOfProgram s2
  (allStreams.foldl State.come s3).formRun.presentAll.controlRun s.clock.ctl

/-- A core cycle, in which the step of a tick is over (R53). While Psiuno is Frozen only the timebase and the control side go on
(R392). -/
def State.coreCycle (s : State) : State :=
  let s0 := s.closeTick
  if s0.unit.state = .frozen then ({ s0.resumeHeld.newCycle with clock := s0.clock.run } : State).controlRun s0.clock.ctl else s0.coreRun

end Sys2Proof.Machine
end

