-- ==== Sys2Proof/Machine/Control.lean ====
section
/-! DEFINITION. The stream instructions NOP, HALT, FWAIT, TWAIT, CHK and LFEN, and the timeout of a wait (R119, R134,
R135, R139, R141, R142). -/

namespace Sys2Proof.Machine

/-- NOP: the sequencer issues nothing in CYC further cycles; with LB it opens loop level LLVL (R110, R119). -/
def State.nopEffect (s : State) (p : StreamId) (f : NopF) : State :=
  s.modStream p (fun x =>
    let x1 := { x with next := x.next + f.cyc.toNat }
    if f.lb then { x1 with ctx := { x1.ctx with
      lstart := x1.ctx.lstart.set f.llvl.toNat (x1.ctx.pc + 1) (by have := f.llvl.isLt; omega)
      loop := setLoop x1.ctx.loop f.llvl (if f.count = 0 then 0xFFFFFF else f.count) } } else x1)

def execNop (p : StreamId) (e : LoopEnd) (f : NopF) (s : State) : Out :=
  .next ((s.turn p).issue p e (.nop f) (fun s => s.nopEffect p f))

/-- HALT: the stream completes as Halted in its issue cycle, with PC at the next index modulo 8,192 (R87, R92, R119). -/
def State.haltEffect (s : State) (p : StreamId) : State :=
  (s.modCtx p (fun c => { c with pc := c.pc + 1 })).complete p false false

def execHalt (p : StreamId) (e : LoopEnd) (s : State) : Out := .next ((s.turn p).issue p e .halt (fun s => s.haltEffect p))

/-- FWAIT: it issues at its offset; where the offset had passed when it was reached, it counts as late (R139). -/
def execFwait (p : StreamId) (e : LoopEnd) (f : FwaitF) (s : State) : Out :=
  let late := ((s.turn p).reach p).fwaitLate p f
  .next ((s.turn p).issue p e (.fwait f) (fun s =>
    if late then s.modStream p (fun x => { x with stat := { x.stat with fwLate := x.stat.fwLate + 1 } }) else s))

/-- TWAIT: it issues in the cycle in which its condition holds (R134, R135); a tally that reads uncorrectable raises
ECC_UNCORR (R345). -/
def execTwait (p : StreamId) (e : LoopEnd) (f : TwaitF) (s0 : State) : Out :=
  let s := s0.turn p
  if s.sequencerFree p && (decodeWord (s.wordAt p) == some (e, .twait f)) && (s.foreign p (.twait f)).isNone &&
      !s.copyBad (s.fetchWords p) && (s.ledgerBad [tallyAt f.tally.toNat]).isSome then
    .next (s.raise p faultECC (8 * (tallyAt f.tally.toNat / 8)) 0 (s.pc p))
  else .next (s.issue p e (.twait f) (fun s => s.readLedger [tallyAt f.tally.toNat]))

/-- What a timeout leaves: the wait-timeout count, and the stream completed as Halted with TOACT 1 (R135). -/
def State.timedOut (s : State) (p : StreamId) (e : LoopEnd) (halt : Bool) : State :=
  let s1 := (s.modStream p (fun x => { x with stat := { x.stat with waitTo := x.stat.waitTo + 1 } })).advance p e
  if halt then s1.complete p false false else s1

/-- A wait times out: the Ledger's timebase is past the deadline and no arrival in time exists (R80). -/
def State.deadlinePassed (s : State) (p : StreamId) : Bool :=
  match (s.stream p).waitDl with
  | none => false
  | some dl => (s.stream p).waitOk == some false && decide (dl < s.clock.centre)

/-- The 8-byte status word of a CRECV (R138). -/
def recvStatus (n : Nat) : List Byte := leBytes 4 (if n = 0 then 0 else 1) ++ leBytes 4 n

/-- The Ledger words that a wait reads where it issues: its tally, or its endpoint's record (R134, R138). -/
def waitWords : Op → List Nat
  | .twait f => [tallyAt f.tally.toNat]
  | .crecv f => [endpointAt f.ep.toNat]
  | _ => []

/-- WAIT_TIMEOUT: the TWAIT or CRECV at the PC issues on its timeout (R80, R135, R138). It reads its tally or its endpoint's record there
(R346), and one that reads uncorrectable raises ECC_UNCORR in place of the timeout (R345). -/
def execWaitTimeout (p : StreamId) (s : State) : Out :=
  let s0 := (s.turn p).reach p
  if !(s0.sequencerFree p && s0.deadlinePassed p) then .next s0 else
  if s0.copyBad (s0.fetchWords p) then .next (s0.copyFault p) else
  match decodeWord (s0.wordAt p) with
  | some (e, .twait f) =>
    match s0.ledgerBad (waitWords (.twait f)) with
    | some x => .next (s0.raise p faultECC (8 * (x / 8)) 0 (s0.pc p))
    | none => .next (((s0.accept p).readLedger (waitWords (.twait f))).timedOut p e f.toact)
  | some (e, .crecv f) =>
    if !s0.operandsReady p (.crecv f) ∨ (s0.done? p).isSome then .next s0 else
    let s1 := s0.accept p
    match s1.foreign p (.crecv f) with
    | some n => .next ((s1.takeEffect p).raise p faultPROT n 2 (s1.pc p))
    | none =>
    match s0.ledgerBad (waitWords (.crecv f)) with
    | some x => .next ((s0.takeEffect p).raise p faultECC (8 * (x / 8)) 0 (s0.pc p))
    | none =>
      let s2 := (s1.readLedger (waitWords (.crecv f))).takeEffect p
      let s3 := if f.sen then s2.result p 4 f.sreg (lanesFrom 0 (recvStatus 0)) none else s2
      .next (s3.timedOut p e f.toact)
  | _ => .next s0

/-- The conservation word of a share, over the element form where PLANE is 1 (R141, R157). -/
def State.shareWord (s : State) (p : StreamId) (r : BitVec 8) : BitVec 32 := consWord (s.elementForm p (s.share p r))

/-- CHK: the words are compared, and CONSERVE is raised at t + 6 where they differ (R141). -/
def State.chkEffect (s : State) (p : StreamId) (f : ChkF) : State :=
  match s.slabBad p (.chk f) with
  | some (_, r) => s.raise p faultECC r 0 (s.pc p)
  | none =>
    let a := s.shareWord p f.a
    let b := if f.mode = 1 then f.exp else s.shareWord p f.b
    let s1 := (slabSources (.chk f) 0).foldl (fun s r => s.readTile p r) s
    if a = b then s1 else s1.later p 6 (.fault faultCONSERVE (b ++ a) 0 (s.pc p))

def execChk (p : StreamId) (e : LoopEnd) (f : ChkF) (s : State) : Out :=
  .next ((s.turn p).issue p e (.chk f) (fun s => s.chkEffect p f))

/-- LFEN: it issues when the accesses in its scope are performed (R142). -/
def execLfen (p : StreamId) (e : LoopEnd) (scope : BitVec 3) (s : State) : Out := .next ((s.turn p).issue p e (.lfen scope) id)

end Sys2Proof.Machine
end

