-- ==== Sys2Proof/Machine/Channel.lean ====
section
/-! DEFINITION. The stream instructions TSIG, TADD, CSEND, CRECV, COPEN, CCLOS and ALARM (R134 to R140), under the
exactly-once rule (R64, R117). -/

namespace Sys2Proof.Machine

/-- A Ledger write under the exactly-once rule: it takes the next effect number; one that an earlier attempt performed
is skipped, another is performed after its latency (R64, R113, R117). -/
def State.ledgerEffect (s : State) (p : StreamId) (lat : Nat) (op : LedgerOp) : State :=
  let no := (s.stream p).ctx.effseq
  let s1 := s.takeEffect p
  if ((s.stream p).performed no).isSome then s1 else s1.later p lat (.ledger op no (s.pc p))

def execTsig (p : StreamId) (e : LoopEnd) (f : TsigF) (s : State) : Out :=
  .next ((s.turn p).issue p e (.tsig f) (fun s => s.ledgerEffect p 2 (.tsig f.tally f.cnt)))

def execTadd (p : StreamId) (e : LoopEnd) (f : TaddF) (s : State) : Out :=
  .next ((s.turn p).issue p e (.tadd f) (fun s => s.ledgerEffect p 2 (.tadd f.tally f.value)))

/-- CSEND: NW + 1 words from LOFF; with a poisoned source the send is suppressed (R61, R137, R138). -/
def State.csendEffect (s : State) (p : StreamId) (f : CsendF) : State :=
  match s.slabBad p (.csend f) with
  | some (_, r) => (s.takeEffect p).raise p faultECC r 0 (s.pc p)
  | none =>
    let msg := ((s.share p f.src).drop f.loff.toNat).take (8 * (f.nw.toNat + 1))
    let s1 := s.readTile p f.src
    if ((s.stream p).performed (s.stream p).ctx.effseq).isNone && (s.tileMark p f.src).isSome then
      (s1.takeEffect p).suppress p 1
    else s1.ledgerEffect p 3 (.csend f.ep msg)

def execCsend (p : StreamId) (e : LoopEnd) (f : CsendF) (s : State) : Out :=
  .next ((s.turn p).issue p e (.csend f) (fun s => s.csendEffect p f))

/-- What a CRECV writes: the message from LOFF in DST and, with SEN, the status word in SREG (R138). -/
def State.recvResult (s : State) (p : StreamId) (f : CrecvF) (msg status : List Byte) : State :=
  let s1 := s.result p 4 f.dst (lanesFrom f.loff.toNat msg) none
  if f.sen then s1.result p 4 f.sreg (lanesFrom 0 status) none else s1

/-- CRECV: the oldest message is taken and recorded; a replay that skips it writes the recorded message (R117, R138). -/
def State.crecvEffect (s : State) (p : StreamId) (f : CrecvF) : State :=
  let no := (s.stream p).ctx.effseq
  let ep := f.ep.toNat
  match (s.stream p).performed no with
  | some x => (s.takeEffect p).recvResult p f x.recv x.status
  | none =>
    match s.ledgerBad (s.messageWords ep) with
    | some x => (s.takeEffect p).raise p faultECC (8 * (x / 8)) 0 (s.pc p)
    | none =>
      let msg := s.headMessage ep
      let status := recvStatus msg.length
      (((((s.takeEffect p).readLedger (s.messageWords ep)).receive ep).perform p no msg status).evalWaits).recvResult p f msg status

/-- A CRECV that waits reads its endpoint's record, and meets a word of it that reads uncorrectable (R138, R345). -/
def State.pollBad (s : State) (p : StreamId) (e : LoopEnd) (f : CrecvF) : Option Nat :=
  if s.sequencerFree p && (decodeWord (s.wordAt p) == some (e, .crecv f)) && s.operandsReady p (.crecv f) && (s.done? p).isNone
      && (s.foreign p (.crecv f)).isNone && !s.copyBad (s.fetchWords p)
  then s.ledgerBad [endpointAt f.ep.toNat] else none

/-- CRECV: it issues in the cycle in which its endpoint holds a message (R138); a record that reads uncorrectable raises ECC_UNCORR
(R345). -/
def execCrecv (p : StreamId) (e : LoopEnd) (f : CrecvF) (s0 : State) : Out :=
  let s := s0.turn p
  match s.pollBad p e f with
  | some x => .next (((s.reach p).takeEffect p).raise p faultECC (8 * (x / 8)) 0 (s.pc p))
  | none => .next (s.issue p e (.crecv f) (fun s => s.crecvEffect p f))

def execCopen (p : StreamId) (e : LoopEnd) (f : CopenF) (s : State) : Out :=
  .next ((s.turn p).issue p e (.copen f) (fun s => s.ledgerEffect p 2 (.copen f.ep f.peer)))

def execCclos (p : StreamId) (e : LoopEnd) (ep : BitVec 12) (s : State) : Out :=
  .next ((s.turn p).issue p e (.cclos ep) (fun s => s.ledgerEffect p 2 (.cclos ep)))

/-- The target that ALARM writes: with REL relative to the frame number, or to the frame's stamp (R140). -/
def State.alarmTarget (s : State) (f : AlarmF) : BitVec 64 :=
  if !f.rel then f.target
  else if f.kind = 1 then s.clock.stamp + f.target
  else (s.clock.frame + f.target.setWidth 48).setWidth 64

def execAlarm (p : StreamId) (e : LoopEnd) (f : AlarmF) (s : State) : Out :=
  .next ((s.turn p).issue p e (.alarm f) (fun s =>
    s.ledgerEffect p 2 (.alarm f.timer f.kind f.carry f.tally f.period (s.alarmTarget f))))

end Sys2Proof.Machine
end

