-- ==== Sys2Proof/Machine/Debug.lean ====
section
/-! DEFINITION. The FREEZE line (R391) and the IEEE 1149.1 port (R395, R396). A command selects its instruction and passes
once through Capture-DR and Update-DR. -/

namespace Sys2Proof.Machine

/-- FREEZE: a rising edge is admitted where DEBUG is in effect and Psiuno is not in Reset, and else makes one record (R391); in Off
nothing runs that could make it, and Frozen ignores the line (R392). -/
def execFreeze (s : State) : Out :=
  match s.unit.state with
  | .off | .frozen => .next s
  | .reset => .next (s.hwLog 0x0012 1 0 0 0)
  | _ => if s.debugOn then .next (s.enqueue .freeze) else .next (s.hwLog 0x0012 1 0 0 0)

/-- The instructions of the IEEE 1149.1 port (R395). -/
inductive DebugIr where
  | idcode | extest | sample | bypass | fzstat | fzaddr | fzdata
  deriving DecidableEq, Repr

/-- The instruction that a code of the instruction register selects: a reserved code acts as BYPASS (R395). -/
def debugIr (code : BitVec 8) : DebugIr :=
  match code.toNat with
  | 0x00 => .extest
  | 0x01 => .idcode
  | 0x02 => .sample
  | 0x20 => .fzstat
  | 0x21 => .fzaddr
  | 0x22 => .fzdata
  | _ => .bypass

/-- The code of an instruction (R395); of those that act as BYPASS, the one of that name. -/
def DebugIr.code : DebugIr → BitVec 8
  | .extest => 0x00 | .idcode => 0x01 | .sample => 0x02 | .fzstat => 0x20 | .fzaddr => 0x21 | .fzdata => 0x22 | .bypass => 0xFF

/-- An instruction is selected, and its data register captures (R395). -/
def State.selectDr (s : State) (ir : DebugIr) (dr : List Byte) : State := { s with dbg := { s.dbg with ir := ir.code, dr := dr } }

/-- The identification register (R395): revision, part, manufacturer, 1. -/
def State.idWord (s : State) : Nat :=
  1 + 2 * s.fuses.manufacturer.toNat + 2 ^ 12 * s.cfg.part.toNat + 2 ^ 28 * s.fuses.revision.toNat

/-- IDCODE. -/
def execIdcode (s : State) : Out := .next (s.selectDr .idcode (leBytes 4 s.idWord))

/-- EXTEST captures 0 (R395). -/
def execExtest (s : State) : Out := .next (s.selectDr .extest [0])

/-- SAMPLE/PRELOAD, as EXTEST (R395). -/
def execSamplePreload (s : State) : Out := .next (s.selectDr .sample [0])

/-- BYPASS, and every reserved code: the 1-bit register, which captures 0 as EXTEST's does (R395). -/
def execBypass (s : State) : Out := .next (s.selectDr .bypass [0])

/-- FZSTAT (R395), after the step of a tick (R53): state, FROZEN, DEBUG, RDMISS, the frame at the freeze tick; zeros while DEBUG is not in effect (R396). -/
def execFzstat (s0 : State) : Out :=
  let s := s0.closeTick
  if !s.debugOn then .next (s.selectDr .fzstat (List.replicate 8 0)) else
  .next (s.selectDr .fzstat (leBytes 8 (unitCode s.unit.state + natBit s.dbg.frozen 4 + natBit s.debugOn 5 + natBit s.dbg.rdmiss 6
    + 2 ^ 16 * s.dbg.frame.toNat)))

/-- Bytes of the window. -/
def windowBytes : Nat := 0x1000000

/-- A 64-byte read of the window through master 7 at the address held (R396). A freeze that found Psiuno in Limp leaves that
master disconnected (R300), and the read never completes. -/
def State.issueRead (s : State) : State :=
  let data := if s.unit.matrixOff then []
              else s.freezeRead .debug s.dbg.page.toNat (s.dbg.addr.toNat / 64 * 64) 64
  { s with dbg := { s.dbg with read := data, readAt := some s.clock.ctl } }

/-- FZADDR: Update-DR loads the offset and PAGE, and issues a read while DEBUG is in effect (R395, R396). What Capture-DR puts out the
spec does not say: the data register keeps the value shifted in (DESIGN CHOICE, log entry 65). -/
def execFzaddr (value : BitVec 32) (s : State) : Out :=
  let v := value.toNat
  let s1 := (s.selectDr .fzaddr (leBytes 4 v))
  let s2 : State := { s1 with dbg := { s1.dbg with addr := BitVec.ofNat 24 (v % 2 ^ 24 / 64 * 64), page := BitVec.ofNat 4 (v / 2 ^ 24) } }
  .next (if s2.debugOn then s2.issueRead else s2)

/-- The last read has completed: within 16 control cycles (R396). -/
def State.debugReadDone (s : State) : Bool :=
  match s.dbg.readAt with
  | none => true
  | some t => decide (t + 16 ≤ s.clock.ctl) && !s.dbg.read.isEmpty

/-- FZDATA: Capture-DR takes the last read's data, all ones where it has not completed; Update-DR advances the offset and issues
the next read. While DEBUG is not in effect it captures zeros, and RDMISS keeps its value (R396). -/
def execFzdata (s : State) : Out :=
  let data := if !s.debugOn then List.replicate 64 0 else if !s.debugReadDone then List.replicate 64 0xFF else padTo 64 s.dbg.read
  let s1 := s.selectDr .fzdata data
  let s2 : State := { s1 with dbg := { s1.dbg with rdmiss := if s.debugOn then !s.debugReadDone else s.dbg.rdmiss, addr := BitVec.ofNat 24 ((s.dbg.addr.toNat + 64) % windowBytes) } }
  .next s2.issueRead

end Sys2Proof.Machine
end

