-- ==== Sys2Proof/Machine/Gather.lean ====
section
/-! DEFINITION. The stream instructions GATH, SCAT and BCST (R124 to R129). -/

namespace Sys2Proof.Machine

def execGath (p : StreamId) (e : LoopEnd) (f : SluiceF) (s : State) : Out :=
  .next ((s.turn p).issue p e (.gath f) (fun s => s.sluiceEffect p (.gath f) f))

def execScat (p : StreamId) (e : LoopEnd) (f : SluiceF) (s : State) : Out :=
  .next ((s.turn p).issue p e (.scat f) (fun s => s.sluiceEffect p (.scat f) f))

def execBcst (p : StreamId) (e : LoopEnd) (f : SluiceF) (s : State) : Out :=
  .next ((s.turn p).issue p e (.bcst f) (fun s => s.sluiceEffect p (.bcst f) f))

end Sys2Proof.Machine
end

