-- ==== Sys2Proof/Machine/Admission.lean ====
section
/-! DEFINITION. Admission's checks of an image as it stands (R322, R323): every check that needs no issue offset. Each gives
the breaches it finds; the verdict is the first in the order of R322. The checks read the image through the internal stores
that it would fill: `s.image.bank` is the bank of the judged image `m`. -/

namespace Sys2Proof.Machine

/-- A breach: its stream, section entry, and instruction index or table entry number (R322). -/
structure Breach where
  stream : Nat
  entry  : Nat
  number : Nat
  deriving DecidableEq, Repr

/-- The order of R322. -/
def Breach.before (a b : Breach) : Bool :=
  decide (a.stream < b.stream ∨ (a.stream = b.stream ∧ (a.entry < b.entry ∨ (a.entry = b.entry ∧ a.number < b.number))))

/-- The first of some breaches. -/
def firstBreach : List Breach → Option Breach
  | [] => none
  | a :: l => match firstBreach l with
    | none => some a
    | some b => if b.before a then some b else some a

/-- The directory entry of a section, 0 where the image has none. -/
def entryOf (m : Mem) (type index : Nat) : Nat := ((findSection m type index).map (·.entry)).getD 0

/-- The streams that exist under the cut (R86). -/
def State.cutStreams (s : State) : List StreamId := allStreams.filter (fun p => decide (p.toNat < s.parts))

/-- A breach where a condition holds. -/
def breachIf (c : Bool) (stream entry number : Nat) : List Breach := if c then [⟨stream, entry, number⟩] else []

/-! ## ADMIT_PARTITION -/

/-- Bits that a record field reserves: bytes at an offset and a mask of the reserved bits (R316). -/
def recordReserved : List (Nat × Nat × Nat) :=
  [(0, 2, 0xFFFC), (2, 2, 0xE000), (4, 2, 0xFC00), (6, 2, 0xFFF0), (28, 4, 0xFFFFFFFE), (72, 24, 2 ^ 192 - 1)]
  ++ (List.range 32).map (fun q => (224 + 4 * q, 4, 0xFFFE0000))
  ++ (List.range 64).map (fun q => (352 + 2 * q, 2, 0x7C00))
  ++ [(544, 480, 2 ^ 3840 - 1)]

/-- A reserved bit of a stream record, or of the global bytes, is 1 (R316). -/
def Bank.recordDirty (b : Bank) (p : StreamId) : Bool :=
  recordReserved.any (fun r => b.recAt p r.1 r.2.1 &&& r.2.2 != 0)
def Bank.tableDirty (b : Bank) : Bool :=
  decide (8 ≤ readLe b.streamTable 0 1) || (readLe b.streamTable 1 3 != 0) || (readLe b.streamTable 16 48 != 0)

/-- The record gives the stream a program or a resource (R86). -/
def Bank.givesAny (b : Bank) (p : StreamId) : Bool :=
  (b.recAt p 0 1 != 0) || (b.recAt p 10 2 != 0) || (b.recAt p 14 2 != 0) || (b.recAt p 18 2 != 0) || (b.recAt p 24 4 != 0)
    || (b.recAt p 32 40 % 2 ^ 256 != 0) || (b.recAt p 96 128 != 0)
    || (List.range 32).any (fun q => bitOf (b.recAt p (224 + 4 * q) 4) 16) || !(b.regionList p).isEmpty

/-- R81, R84 to R86, R316. -/
def State.partitionBreaches (s : State) (m : Mem) : List Breach :=
  let b := s.image.bank
  let e := entryOf m 1 0
  let code := readLe b.streamTable 0 1 % 8
  breachIf (decide (4 < code) || decide (s.regs.partLimit.toNat < code) || b.tableDirty) 0 e 0
    ++ allStreams.flatMap (fun p =>
      let n := p.toNat
      let w := b.recAt p 6 1
      let tag := fun q => b.recAt q 4 2
      let on := fun (q : StreamId) => bitOf (b.recAt q 0 1) 0
      breachIf (b.recordDirty p
        || (if n < s.parts then
              (!bitOf w 3 && decide (3 < w % 8))
                || (on p && s.cutStreams.any (fun q => decide (q.toNat < n) && on q && tag q == tag p))
            else b.givesAny p || [2, 8, 9].any (fun t => (findSection m t n).isSome))) n e 0)

/-! ## ADMIT_PROGRAM -/

/-- An instruction word of the image: its stream, the section entry and its index there. -/
structure Placed where
  stream : StreamId
  entry  : Nat
  index  : Nat
  word   : BitVec 128
  deriving DecidableEq, Repr

/-- Every instruction of every program section, and of every overlay section (R106). -/
def State.programPlaced (s : State) (m : Mem) : List Placed :=
  s.cutStreams.flatMap (fun p => (programWords (sectionBytes m 2 p.toNat)).mapIdx (fun i w => ⟨p, entryOf m 2 p.toNat, i, w⟩))
def overlayPlaced (m : Mem) (l : List OverlayInfo) : List Placed :=
  l.flatMap (fun o => o.words.mapIdx (fun i w => ⟨o.stream, entryOf m 3 o.index.toNat, i, w⟩))
def State.placed (s : State) (m : Mem) (l : List OverlayInfo) : List Placed := s.programPlaced m ++ overlayPlaced m l

/-- The operation of a word. -/
def Placed.op (x : Placed) : Option Op := (decodeWord x.word).map (·.2)

/-- Entries 0 to n − 1 of a map permute 0 to n − 1, and the others are 0 (R123). -/
def pbpcFits (n : Nat) (map : BitVec 65) : Bool :=
  let e := (List.range 13).map (fun i => field map.toNat (5 * i) 5)
  (List.range n).all (fun b => ((e.take n).map (· % 16)).contains b) && (e.drop n).all (· == 0)

/-- Dimension k of a descriptor moves the address with its coordinate (R177). -/
def Desc.depends (d : Desc) (k : Nat) (x : Dim) : Bool :=
  decide (x.str ≠ 0) || (d.grpv && k == d.gdim && decide (d.gstr ≠ 0)) || (d.esz == 4 && k == 0)
    || (d.ownen && k == d.odim && d.olog == 0)

/-- R126, R177, R225 for a descriptor of the stream; `write` for SCAT and BCST. A descriptor that names a region entry with VALID 0 is
refused here, whatever the entry's RD and WR hold, before R176 would refuse it (DESIGN CHOICE, log entry 28). -/
def State.sluiceFits (s : State) (p : StreamId) (f : SluiceF) (write : Bool) : Bool :=
  let d := s.image.bank.desc f.desc.toNat
  let g := s.image.bank.memRegion d.region
  s.hasRegion p f.region.toNat && d.valid && d.strm == p.toNat && (!f.idxen || d.idxv)
    && g.valid && (if write then g.wr else g.rd)
    && (!write || (d.dims.mapIdx (fun k x => decide (x.edge ≠ 1) &&
          (decide (x.ext ≤ 1) || d.depends k x || (f.idxen && k == d.idim)))).all id)
    && (f.cvt == 0 || (decide (d.esz < 4) && d.elem == fmtBytes (if write then cvtDst f.cvt else cvtSrc f.cvt)))

/-- R238: the key range and the output area in their regions, apart from each other. -/
def State.seprFits (s : State) (f : SeprF) : Bool :=
  let size := fun (r : BitVec 10) => s.regionSize (s.image.bank.region r.toNat)
  let a := 32 * f.koff.toNat
  let b := 32 * f.ooff.toNat
  decide (a + 2 * seprN f ≤ size f.kreg) && decide (b + seprArea f ≤ size f.oreg)
    && !(f.kreg == f.oreg && rangesMeet a (2 * seprN f) b (seprArea f))

/-- The legal ranges of the encoding tables that rest on the image: its cut and its allocations (R106). -/
def State.fieldsFit (s : State) (p : StreamId) (op : Op) : Bool :=
  let l := s.lanes
  let tally := fun (t : BitVec 14) (n : Nat) => (List.range n).all (fun i => s.hasTally p (t.toNat + i))
  match op with
  | .perm f => decide (f.sub.toNat < s.parts) && s.hasSlot p f.slot.toNat
  | .pbpc f => pbpcFits s.laneBits f.map
  | .ldt f => s.hasRegion p f.region.toNat
  | .stt f => s.hasRegion p f.region.toNat
  | .gath f => s.sluiceFits p f false
  | .scat f => s.sluiceFits p f true
  | .bcst f => s.sluiceFits p f true
  | .conv f => !mxCode f.cvt || decide (32 * max (fmtBytes (cvtSrc f.cvt)) (fmtBytes (cvtDst f.cvt)) ≤ l) || (f.rpt.toNat % 2 == 1)
  | .sepr f => s.hasRegion p f.kreg.toNat && s.hasRegion p f.oreg.toNat && s.seprFits f
  | .skim f => s.hasRegion p f.region.toNat && decide (f.dst.toNat + skimRegs l ≤ 256)
  | .skp f => decide ((f.n.toNat + 1) * fmtE f.fmt ≤ l)
  | .comb f => decide ((f.n.toNat + 1) * fmtE f.fmt ≤ l)
  | .drain f => decide ((f.n.toNat + 1) * fmtE f.fmt ≤ l)
  | .tsig f => tally f.tally (f.cnt.toNat + 1)
  | .tadd f => tally f.tally 1
  | .csend f => s.hasEndpoint p f.ep.toNat && decide (f.loff.toNat + 8 * (f.nw.toNat + 1) ≤ l)
  | .crecv f => s.hasEndpoint p f.ep.toNat && decide (f.loff.toNat + 64 ≤ l)
  | .copen f => s.hasEndpoint p f.ep.toNat
  | .cclos e => s.hasEndpoint p e.toNat
  | .alarm f => s.hasTimer p f.timer.toNat && tally f.tally 1
  | _ => true

/-- The level that a word with LEND closes, and the level that a NOP with LB opens, by the fields of R104 and R119. -/
def closesLevel (w : BitVec 128) : Option (BitVec 2) := if w.getLsbD 10 then some (w.extractLsb' 8 2) else none
def opensLevel (w : BitVec 128) : Option (BitVec 2) :=
  if w.extractLsb' 0 8 = 0 ∧ w.getLsbD 32 then some (w.extractLsb' 33 2) else none

/-- The innermost loop closed by a word's LEND; none where its level is not that loop's, or where it stands on a HALT. -/
def closeLoop (open_ : List (BitVec 2 × Nat)) (w : BitVec 128) : Option (List (BitVec 2 × Nat)) :=
  match closesLevel w, open_ with
  | none, _ => some open_
  | some _, [] => none
  | some v, l :: ls => if l.1 = v ∧ w.extractLsb' 0 8 ≠ 1 then some ls else none

/-- Loops open after instruction i, the innermost first, each with the index that opened it; none where the instruction breaks
R110. -/
def loopStep (open_ : List (BitVec 2 × Nat)) (i : Nat) (w : BitVec 128) : Option (List (BitVec 2 × Nat)) :=
  match closeLoop open_ w, opensLevel w with
  | none, _ => none
  | some ls, none => some ls
  | some ls, some v => if ls.any (fun l => l.1 == v) || closesLevel w == some v then none else some ((v, i) :: ls)

/-- The first instruction that breaks R110, from index i on, or the loops left open at the end. -/
def loopsFrom (open_ : List (BitVec 2 × Nat)) (i : Nat) : List (BitVec 128) → Nat ⊕ List (BitVec 2 × Nat)
  | [] => .inr open_
  | w :: ws => match loopStep open_ i w with
    | none => .inl i
    | some o => loopsFrom o (i + 1) ws

/-- The first breach of R110 in a program: a loop that is never closed breaches at its opening instruction. -/
def loopBreach (ws : List (BitVec 128)) : Option Nat :=
  match loopsFrom [] 0 ws with
  | .inl i => some i
  | .inr l => l.getLast?.map (·.2)

/-- The loops open at an index of a program (R333, R436). -/
def openAt (ws : List (BitVec 128)) (i : Nat) : List (BitVec 2 × Nat) :=
  match loopsFrom [] 0 (ws.take i) with | .inr l => l | .inl _ => []

/-- Levels that instructions open or close. -/
def levelsUsed (ws : List (BitVec 128)) : List (BitVec 2) := ws.flatMap (fun w => (closesLevel w).toList ++ (opensLevel w).toList)

/-- Instructions form complete loops among themselves, on no level open around them (R333). -/
def completeLoops (around : List (BitVec 2 × Nat)) (ws : List (BitVec 128)) : Bool :=
  (loopBreach ws).isNone && (levelsUsed ws).all (fun l => !around.any (fun a => a.1 == l))

/-- An overlay section breaks R333; its header bytes lie in the section. -/
def State.overlayBad (s : State) (prog : List (BitVec 128)) (o : OverlayInfo) (head : List Byte) : Bool :=
  let dest := leAt head 2 2
  let count := leAt head 4 2
  let around := openAt prog dest
  let own := (prog.drop dest).take count
  decide (s.parts ≤ (leAt head 0 1)) || !s.present o.stream || decide (count < 1 ∨ 8192 < count)
    || decide (o.size ≠ 16 + 16 * count ∨ 8192 < dest + count) || (leAt head 1 1 != 0) || (leAt head 6 10 != 0)
    || !completeLoops around o.words || !completeLoops around own

/-- R104 to R106, R110, R126, R177, R221 to R225, R238 and R333, and a schedule register outside TMASK. -/
def State.programBreaches (s : State) (m : Mem) (l : List (OverlayInfo × List Byte)) : List Breach :=
  (s.placed m (l.map (·.1))).flatMap (fun x =>
      breachIf (match x.op with | none => true | some op => !s.fieldsFit x.stream op) x.stream.toNat x.entry x.index)
    ++ s.cutStreams.flatMap (fun p => match loopBreach (programWords (sectionBytes m 2 p.toNat)) with
      | some i => [⟨p.toNat, entryOf m 2 p.toNat, i⟩]
      | none => [])
    ++ l.flatMap (fun o =>
      breachIf (s.overlayBad (programWords (sectionBytes m 2 o.1.stream.toNat)) o.1 o.2) (leAt o.2 0 1) (entryOf m 3 o.1.index.toNat) 0)
    ++ s.cutStreams.flatMap (fun p =>
      let bs := sectionBytes m 8 p.toNat
      ((schedLandings p bs ++ schedReleases p bs).mapIdx (fun j x =>
        breachIf (!s.hasReg p x.reg.toNat) p.toNat (entryOf m 8 p.toNat) j)).flatten)

/-! ## ADMIT_FRAME, without issue offsets -/

/-- Offsets that do not ascend strictly, lie below a bound or above 1,983 (R27, R317). -/
def offsetsBad (low : Nat) (l : List SchedEntry) (j : Nat) : Bool :=
  match l[j]? with
  | none => false
  | some x => decide (x.offset < low ∨ 1983 < x.offset) ||
      (match (if j = 0 then none else l[j - 1]?) with | some y => decide (x.offset ≤ y.offset) | none => false)

/-- A schedule section breaks R317 or R323. -/
def State.scheduleBreaches (s : State) (m : Mem) : List Breach :=
  s.cutStreams.flatMap (fun p => match findSection m 8 p.toNat with
    | none => []
    | some x =>
      let bs := readBytes m x.offset x.size
      let a := leAt bs 0 2
      let b := leAt bs 2 2
      let las := schedLandings p bs
      let res := schedReleases p bs
      breachIf (decide (1984 < a ∨ 1984 < b ∨ x.size ≠ 16 + 4 * (a + b)) || (leAt bs 4 12 != 0)
          || (List.range (a + b)).any (fun i => decide (2 ^ 19 ≤ leAt bs (16 + 4 * i) 4))) p.toNat x.entry 0
        ++ (List.range a).flatMap (fun j => breachIf (offsetsBad 0 las j) p.toNat x.entry j)
        ++ (List.range b).flatMap (fun j => breachIf (offsetsBad 3 res j) p.toNat x.entry (a + j)))

/-! ## Ranges of tallies, endpoints, timers and wells -/

/-- A range of base and count passes its limit or meets another (R98): ranges of the host and of the streams, in order. -/
def rangesBreach (total entry : Nat) (host : Nat × Nat) (l : List (StreamId × Nat × Nat)) : List Breach :=
  let hit := fun (a b : Nat × Nat) => decide (0 < a.2 ∧ 0 < b.2) && rangesMeet a.1 a.2 b.1 b.2
  breachIf (decide (0 < host.2 ∧ total < host.1 + host.2)) 0 entry 0
    ++ l.flatMap (fun x => breachIf (decide (0 < x.2.2 ∧ total < x.2.1 + x.2.2) || hit host x.2
          || l.any (fun y => decide (y.1 < x.1) && hit y.2 x.2)) x.1.toNat entry 0)

/-- Ranges of 16-bit base and count in the records, at an offset. -/
def State.ranges16 (s : State) (o : Nat) : List (StreamId × Nat × Nat) :=
  s.cutStreams.map (fun p => (p, s.recAt p o 2, s.recAt p (o + 2) 2))
def State.hostRange (s : State) (o : Nat) : Nat × Nat := (readLe s.image.bank.streamTable o 2, readLe s.image.bank.streamTable (o + 2) 2)

/-- ADMIT_TALLY and ADMIT_TIMER (R98). -/
def State.tallyBreaches (s : State) (m : Mem) : List Breach := rangesBreach 16384 (entryOf m 1 0) (s.hostRange 4) (s.ranges16 8)
def State.timerBreaches (s : State) (m : Mem) : List Breach := rangesBreach 1024 (entryOf m 1 0) (s.hostRange 12) (s.ranges16 16)

/-- A Ledger offset of the general words (R282). -/
def generalWord (o : Nat) : Bool := decide (o % 8 = 0 ∧ 0x40000 ≤ o ∧ o < 0x100000)

/-- ADMIT_CHANNEL (R98, R316, R318). -/
def State.channelBreaches (s : State) (m : Mem) : List Breach :=
  rangesBreach 4096 (entryOf m 1 0) (s.hostRange 8) (s.ranges16 12)
    ++ ((ledgerEntries m).mapIdx (fun j e =>
        let there := decide ((0x14000 ≤ e.offset ∧ e.offset < 0x15000) ∨ (0x20000 ≤ e.offset ∧ e.offset < 0x100000))
        breachIf (decide (e.offset % 8 ≠ 0) || !there || decide (2 ≤ e.flags) || (e.resv != 0)) 0 (entryOf m 10 0) j)).flatten
    ++ s.cutStreams.flatMap (fun p => breachIf (s.present p && !generalWord (s.recAt p 64 8)) p.toNat (entryOf m 1 0) 0)

/-- ADMIT_WELL (R98, R247). -/
def State.wellBreaches (s : State) (m : Mem) : List Breach :=
  let r := s.cutStreams.map (fun p => (p, s.wellBase p, s.wellCount p * (if bitOf (s.recAt p 28 1) 0 then 2 else 1)))
  rangesBreach 65536 (entryOf m 1 0) (0, 0) r
    ++ s.cutStreams.flatMap (fun p => breachIf (decide (s.wellCount p % 256 ≠ 0)) p.toNat (entryOf m 1 0) 0)

/-! ## ADMIT_POOL, without charges -/

/-- A valid region breaks R262 or R263 by itself. -/
def State.regionBad (s : State) (n : Nat) : Bool :=
  let b := s.image.bank
  let g := b.region n
  let e := readLe b.poolRegions (16 * n) 8
  let land := decide (g.mode = 2)
  decide (g.mode = 3 ∨ s.parts ≤ g.owner) || (land && (g.share || g.persist)) || decide (g.nrow < 1 ∨ 2048 < g.nrow)
    || ((land || g.persist) && decide (g.nrow % 2 = 1)) || (decide (g.mode = 1) && decide (128 < g.nrow ∨ g.skew ≠ 0))
    || decide (s.setBanks ≤ 2 * g.skew ∧ g.skew ≠ 0) || (decide (g.mode ≠ 1) && decide (g.key ≠ 0))
    || (field e 11 5 != 0) || (field e 49 15 != 0) || decide (2048 < g.row + g.nrow)

/-- Two regions have copies that share a set-row (R263). -/
def State.copiesMeet (s : State) (n k : Nat) : Bool :=
  let a := s.image.bank.region n
  let b := s.image.bank.region k
  b.valid && rangesMeet a.row a.nrow b.row b.nrow && (s.copySets n).any (s.copySets k).contains

/-- An instruction names a region against R201, R238, R263 or R269. -/
def State.poolUseBad (s : State) (p : StreamId) (op : Op) : Bool :=
  let mode := fun (r : BitVec 10) => (s.image.bank.region r.toNat).mode
  let mine := fun (r : BitVec 10) => (s.image.bank.region r.toNat).owner == p.toNat
  match op with
  | .ldt f => f.tr && decide (mode f.region ≠ 0)
  | .stt f => decide (mode f.region = 2) || !mine f.region || (f.tr && decide (mode f.region ≠ 0))
  | .gath f => decide (mode f.region ≠ 2) || !mine f.region
  | .scat f => decide (mode f.region = 2)
  | .sepr f => decide (mode f.oreg = 2) || !mine f.oreg
  | _ => false

/-- R201, R262, R263, R269 as far as an instruction names them. -/
def State.poolBreaches (s : State) (m : Mem) (l : List OverlayInfo) : List Breach :=
  let b := s.image.bank
  let valid := (List.range 1024).filter (fun n => (b.region n).valid)
  valid.flatMap (fun n => breachIf (s.regionBad n || valid.any (fun k => decide (k < n) && s.copiesMeet n k))
      (b.region n).owner (entryOf m 7 0) n)
    ++ s.cutStreams.flatMap (fun p => ((b.regionList p).mapIdx (fun j n =>
        let g := b.region n
        breachIf (!g.valid || (g.owner != p.toNat && !g.share)) p.toNat (entryOf m 1 0) j)).flatten)
    ++ (s.placed m l).flatMap (fun x => match x.op with
      | some op => breachIf (s.poolUseBad x.stream op) x.stream.toNat x.entry x.index
      | none => [])

/-! ## ADMIT_SETTING, ADMIT_REGION, ADMIT_DESC -/

/-- The stream that a slot is allocated to. -/
def State.slotOwner (s : State) (n : Nat) : Option StreamId := s.cutStreams.find? (fun p => s.hasSlot p n)

/-- ADMIT_SETTING (R98, R152, R315, R323). -/
def State.settingBreaches (s : State) (m : Mem) : List Breach :=
  let used := usedBytes s.cfg s.cut
  let size := (sectionBytes m 4 0).length
  let es := settingEntries s.cfg m
  s.cutStreams.flatMap (fun p => (List.range 256).flatMap (fun n =>
      breachIf (s.hasSlot p n && s.cutStreams.any (fun q => decide (q < p) && s.hasSlot q n)) p.toNat (entryOf m 1 0) n))
    ++ breachIf (decide (size % (16 + used) ≠ 0)) 0 (entryOf m 4 0) 0
    ++ (es.mapIdx (fun j e =>
      let sx := e.bytes.drop (used - s.lanes / 16)
      breachIf ((s.slotOwner e.slot).isNone || decide (s.parts ≤ e.sub) || e.resv.any (· != 0) || sx.any (· != 0)
          || (es.take j).any (fun f => f.slot == e.slot && f.sub == e.sub))
        (((s.slotOwner e.slot).map (·.toNat)).getD 0) (entryOf m 4 0) j)).flatten

/-- Byte ranges of two memory regions meet; an ANYCHIP region is compared on bits [51:0] (R171). -/
def memMeet (a b : MemRegion) : Bool :=
  if a.anyChip || b.anyChip then rangesMeet (a.base % 2 ^ 52) a.limit (b.base % 2 ^ 52) b.limit else rangesMeet a.base a.limit b.base b.limit

/-- The streams that write a memory region through SCAT or BCST. -/
def State.writersOf (s : State) (l : List Placed) (n : Nat) : List StreamId :=
  ((l.filterMap (fun x => match x.op with
    | some (.scat f) => some (x.stream, f)
    | some (.bcst f) => some (x.stream, f)
    | _ => none)).filter (fun x => (s.image.bank.desc x.2.desc.toNat).region == n)).map (·.1)

/-- ADMIT_REGION (R171). -/
def State.regionBreaches (s : State) (m : Mem) (ovl : List OverlayInfo) : List Breach :=
  let b := s.image.bank
  let l := s.placed m ovl
  let valid := (List.range ((sectionBytes m 6 0).length / 32)).filter (fun n => (b.memRegion n).valid)
  valid.flatMap (fun n =>
    let g := b.memRegion n
    let flags := readLe b.memRegions (32 * n + 16) 8
    let ws := s.writersOf l n
    breachIf (decide (g.base % 512 ≠ 0 ∨ g.limit % 512 ≠ 0 ∨ g.limit < 512 ∨ 2 ^ 52 < g.base % 2 ^ 52 + g.limit)
        || (g.anyChip && decide (2 ^ 52 ≤ g.base)) || (field flags 4 4 != 0) || (field flags 16 48 != 0)
        || (readLe b.memRegions (32 * n + 24) 8 != 0)
        || ws.any (fun p => decide (ws.head? ≠ some p))
        || valid.any (fun k => decide (k < n) && memMeet g (b.memRegion k)
            && (s.writersOf l k).any (fun q => ws.any (fun p => decide (p ≠ q))))) 0 (entryOf m 6 0) n)

/-- The dimension records and the header of a descriptor hold only legal values (R172 to R175). -/
def Bank.descLegal (b : Bank) (n : Nat) : Bool :=
  let a := 256 * n
  let d := b.desc n
  let h := readLe b.descs a 8
  let byte52 := fun (v : Int) => decide (-2 ^ 51 ≤ v ∧ v < 2 ^ 51)
  decide (1 ≤ d.ndim ∧ d.ndim ≤ 6 ∧ d.esz ≤ 4) && (d.esz == 4 || (d.pw == 0 && d.plog == 0))
    && (field h 58 6 == 0) && (field (readLe b.descs (a + 8) 8) 60 4 == 0)
    && (field (readLe b.descs (a + 16) 8) 36 28 == 0) && (field (readLe b.descs (a + 24) 8) 52 12 == 0)
    && zeros b.descs (a + 40) 24
    && (if d.idxv then decide (d.idim < d.ndim) else d.idim == 0 && d.ireg == 0)
    && (if d.grpv then decide (d.gdim < d.ndim ∧ 1 ≤ d.glog) else d.gdim == 0 && d.glog == 0)
    && (if d.ownen then decide (d.odim < d.ndim) else d.odim == 0 && d.olog == 0 && d.oreg == 0)
    && decide (d.ioff % 4 = 0 ∧ d.ooff % 8 = 0) && byte52 d.gstr
    && (List.range 6).all (fun k =>
      if d.ndim ≤ k then zeros b.descs (a + 64 + 32 * k) 32 else
      let x := b.dim n k
      decide (1 ≤ x.ext ∧ 1 ≤ x.bnd ∧ x.edge ≠ 3) && byte52 x.str && zeros b.descs (a + 64 + 32 * k + 13) 3
        && zeros b.descs (a + 64 + 32 * k + 24) 8 && decide (memGet b.descs (a + 64 + 32 * k + 12) < 4))

/-- A valid descriptor keeps R176. -/
def State.descFits (s : State) (n : Nat) : Bool :=
  let b := s.image.bank
  let d := b.desc n
  let g := b.memRegion d.region
  let p : StreamId := BitVec.ofNat 4 d.strm
  let size := fun r => if s.hasRegion p r then s.regionSize (b.region r) else 0
  let d0 : Dim := d.dims.headD ⟨0, 0, 0, 0, 0⟩
  let ext := fun k => match d.dims[k]? with | some x => x.ext | none => 0
  b.descLegal n && decide (d.strm < s.parts) && g.valid && (d.ownen == g.anyChip) && !(d.grpv && d.ownen && d.gdim == d.odim)
    && (!d.idxv || (s.hasRegion p d.ireg && decide (d.ioff + 4 * ext d.idim ≤ size d.ireg)))
    && (!d.ownen || (s.hasRegion p d.oreg && decide (d.ooff + 8 * d.ocnt ≤ size d.oreg)))
    && (d.esz != 4 || (decide (d0.ext % d.epg = 0 ∧ d0.bnd % d.epg = 0 ∧ d0.org % d.epg = 0 ∧ d0.str = 0)
          && !(d.idxv && d.idim == 0) && !(d.grpv && d.gdim == 0) && !(d.ownen && d.odim == 0)))
    && decide (d.slen < 2 ^ 63)

/-- ADMIT_DESC (R174 to R176). -/
def State.descBreaches (s : State) (m : Mem) : List Breach :=
  (List.range ((sectionBytes m 5 0).length / 256)).flatMap (fun n =>
    let d := s.image.bank.desc n
    breachIf (d.valid && !s.descFits n) d.strm (entryOf m 5 0) n)

/-! ## Windows, reservations, persistent registers -/

/-- A window mask at a record offset sets bit 62 or 63, or a bit of an earlier stream (R233, R249). -/
def State.windowBreaches (s : State) (m : Mem) (o : Nat) : List Breach :=
  s.cutStreams.flatMap (fun p =>
    let w := s.recAt p o 8
    breachIf (decide (2 ^ 62 ≤ w) || s.cutStreams.any (fun q => decide (q < p) && (s.recAt q o 8 &&& w != 0))) p.toNat (entryOf m 1 0) 0)

/-- R214: the stream whose reservation first makes a sum exceed its bound (R322). -/
def State.reserveBreaches (s : State) (m : Mem) : List Breach :=
  let sum := fun (p : StreamId) (f : StreamId → Nat) => ((s.cutStreams.filter (fun q => decide (q ≤ p))).map f).sum
  let r := fun o (q : StreamId) => s.recAt q o 4
  let port := fun o (q : StreamId) => ceilDiv (s.recAt q o 4) s.cfg.ports
  match s.cutStreams.find? (fun p => decide (2000 < sum p (port 32) ∨ 2000 < sum p (port 36) ∨
      s.regs.memRead.toNat < sum p (r 32) ∨ s.regs.memWrite.toNat < sum p (r 36))) with
  | some p => [⟨p.toNat, entryOf m 1 0, 0⟩]
  | none => []

/-- Registers that an instruction names. -/
def Op.registers (lanes : Nat) (op : Op) : List (BitVec 8) :=
  (List.range (opRpt op + 1)).flatMap (fun i => slabSources op i ++ slabDests lanes op i)

/-- Valid PARTNER entries: persistent register and partner (R316). -/
def Bank.partners (b : Bank) (p : StreamId) : List (Nat × Nat) :=
  (List.range 32).filterMap (fun q => let e := b.recAt p (224 + 4 * q) 4
                                      if bitOf e 16 then some (e % 256, e / 256 % 256) else none)

/-- R280, and TPERSIST and PARTNER under R316. -/
def State.partnerBreaches (s : State) (m : Mem) (l : List OverlayInfo) : List Breach :=
  let b := s.image.bank
  let all := s.placed m l
  s.cutStreams.flatMap (fun p =>
    let ps := b.partners p
    let named := (all.filter (fun x => x.stream == p)).flatMap (fun x => (x.op.map (Op.registers s.lanes)).getD [])
    let bad := (List.range 256).any (fun n =>
        ps.countP (fun e => e.1 == n) != (if b.persistent p (BitVec.ofNat 8 n) then 1 else 0))
      || ps.any (fun e => !s.hasReg p e.2 || named.contains (BitVec.ofNat 8 e.2) || b.persistent p (BitVec.ofNat 8 e.2)
          || decide (1 < ps.countP (fun f => f.2 == e.2)))
    breachIf bad p.toNat (entryOf m 1 0) 0)

end Sys2Proof.Machine
end

