-- ==== Sys2Proof/Machine/IssueModel.lean ====
section
/-! DEFINITION. The issue model of R436: a stream run alone, without data, on the conditions of R95 with the cycles of R113.
It says which writes are directed to a release (R27), and admission judges its frames. -/

namespace Sys2Proof.Machine

/-- An instruction that the model issued: its offset, itself with its loop field, its PC and the loop counters. -/
structure Issued where
  at_  : Nat
  pc   : BitVec 13
  end_ : LoopEnd
  op   : Op
  loop : Vector (BitVec 24) 4
  deriving DecidableEq, Repr

/-- The cycles by which a Pool read may be late (R274): the model takes the latest. -/
def poolSlack (op : Op) : Nat :=
  match op with | .ldt _ => 16 | .skim _ => 16 | .sepr _ => 16 | _ => 0

/-- The registers that an instruction issued now writes, with the offset from which each is readable (R113). -/
def State.modelWrites (s : State) (p : StreamId) (op : Op) : List (BitVec 8 × Nat) :=
  (List.range (opRpt op + 1)).flatMap (fun i => (slabResults s.lanes op i).map (fun d =>
    (d.1, s.clock.offset + i + s.latency p op i + poolSlack op - d.2)))

/-- Something of an instruction in flight, without data. -/
def State.ghost (s : State) (p : StreamId) (due : Nat) (a : Arrival) : State :=
  { s with inflight := ⟨due, p, a⟩ :: s.inflight }

/-- What an issued instruction holds up (R95, R108, R113). -/
def State.modelHold (s : State) (p : StreamId) (op : Op) : State :=
  let t := s.clock.offset
  let x := s.stream p
  match op with
  | .perm f =>
    if f.mode then
      s.setJob p (some (s.place p ⟨x.ctx.pc, f.slot, f.sub, [], t, 0, 0, .taken⟩))
    else s.modStream p (fun x => { x with cascadeEnd := t + f.rpt.toNat + 1 })
  | .pbpc f => s.modStream p (fun x => { x with cascadeEnd := t + f.rpt.toNat + 1 })
  | .ldt f => s.modStream p (fun x => { x with poolEnd := t + f.rpt.toNat + 1, poolReadEnd := t + f.rpt.toNat + 1 })
  | .stt f =>
    ((s.modStream p (fun x => { x with poolEnd := t + f.rpt.toNat + 1 })).store p (s.sttStores p f)).ghost p
      (t + f.rpt.toNat + s.lastLatency p op) (.slab op 0 x.ctx.pc x.ctx.loop 0 0 [] [] [])
  | .conv f => s.modStream p (fun x => { x with formatEnd := t + f.rpt.toNat + 1 })
  | .pack f => s.modStream p (fun x => { x with formatEnd := t + f.rpt.toNat + 1 })
  | .unpk f => s.modStream p (fun x => { x with formatEnd := t + f.rpt.toNat + 1 })
  | .sepr f =>
    let fin := t + seprOcc f
    (((s.modStream p (fun x => { x with sepEnd := fin, poolReadEnd := fin })).store p (s.seprStores f (poolSlack op))).ghost p fin
      (.sepr f 0 0 [] none)).ghost p
      (fin + 40 + poolSlack op) (.output f.oreg (32 * f.ooff.toNat) (List.replicate (seprArea f) 0) false none)
  | .skim f =>
    let fin := t + skimOcc f
    let a := ((f.off.toNat : Int) + f.stride.toInt * loopIndex x.ctx.loop f.ilvl f.idxen).toNat * 32
    (s.modStream p (fun x => { x with skimEnd := fin, poolReadEnd := fin })).ghost p fin (.skim f a (skimOcc f - 1) 0 [] none)
  | .skp f => s.modStream p (fun x => { x with basinEnd := t + basinOcc f.n, basinReady := t + basinOcc f.n + 6 })
  | .comb f => s.modStream p (fun x => { x with basinEnd := t + basinOcc f.n, basinReady := t + basinOcc f.n + 8 })
  | .drain f => s.modStream p (fun x => { x with basinEnd := t + basinOcc f.n })
  | .tsig _ => s.ghost p (t + 2) (.ledger (.cclos 0) 0 0)
  | .tadd _ => s.ghost p (t + 2) (.ledger (.cclos 0) 0 0)
  | .csend _ => s.ghost p (t + 3) (.ledger (.cclos 0) 0 0)
  | .copen _ => s.ghost p (t + 2) (.ledger (.cclos 0) 0 0)
  | .cclos _ => s.ghost p (t + 2) (.ledger (.cclos 0) 0 0)
  | .alarm _ => s.ghost p (t + 2) (.ledger (.cclos 0) 0 0)
  | .nop f => s.nopEffect p f
  | .halt => s.haltEffect p
  | _ => s

/-- The effect of an issue in the model. -/
def State.modelEffect (s : State) (p : StreamId) (op : Op) : State :=
  let s1 := s.modelHold p op
  { s1 with inflight := (s.modelWrites p op).map (fun w => ({ due := w.2, stream := p, act := .tile w.1 [] none } : Pend)) ++ s1.inflight }

/-- The start of a model frame: one stream, nothing in flight. -/
def State.modelStart (s : State) (p : StreamId) (c : Ctx) (reached : Option (Nat × Nat)) (setter : Setter) : State :=
  ({ s with unit := { s.unit with state := .running }, clock := { s.clock with offset := 0 }, inflight := [], eccBad := [], eccOne := []
            pool := { s.pool with wbuf := [] }, settings := { s.settings with reform := none }, perf := .reset, collector := []
            ports := Vector.replicate 8 .idle, streams := Vector.replicate 16 .idle } : State).setStream p
    { Stream.idle with ctx := c, reached := reached, setter := setter }

/-- Every condition that a TWAIT or CRECV waits on holds when the sequencer reaches it, and in offset 0 of a frame whose
opening tick found it reached (R436). -/
def State.modelReach (s : State) (p : StreamId) : State := (s.reach p).modStream p (fun x => { x with waitOk := some true })

/-- The Setter is free in the cycle after a computation's last. -/
def State.modelSetter (s : State) (p : StreamId) : State :=
  match (s.stream p).setter.job with
  | some j => if j.phase = .computing ∧ j.ends < s.clock.offset then s.setJob p none else s
  | none => s

/-- One cycle of the model. -/
def State.modelCycle (s : State) (p : StreamId) : State × Option Issued :=
  let s1 := (({ s with inflight := s.inflight.filter (fun a => decide (s.clock.offset < a.due)) } : State).modelSetter p).modelReach p
  let (s2, i) := match decodeWord (s1.wordAt p) with
    | some (e, op) =>
      if s1.mayIssue p e op then
        let c := (s1.stream p).ctx
        (((s1.accept p).modelEffect p op).advance p e, some ({ at_ := s.clock.offset, pc := c.pc, end_ := e, op := op, loop := c.loop } : Issued))
      else (s1, none)
    | none => (s1, none)
  ({ s2 with clock := { s2.clock with offset := s.clock.offset + 1 } }, i)

/-- `n` cycles of the model; the issues, the last first. -/
def State.modelRun (p : StreamId) : Nat → State → List Issued → State × List Issued
  | 0, s, l => (s, l)
  | n + 1, s, l =>
    match s.modelCycle p with
    | (s1, some i) => State.modelRun p n s1 (i :: l)
    | (s1, none) => State.modelRun p n s1 l

/-- A frame of the model: its issue offsets are 0 to 1,983 (R51). -/
def State.modelFrame (s : State) (p : StreamId) : State × List Issued :=
  let r := State.modelRun p 1984 s []
  (r.1, r.2.reverse)

/-- The registers that an issue of the model writes, with the offsets from which they are readable. -/
def State.issuedWrites (s : State) (p : StreamId) (i : Issued) : List (BitVec 8 × Nat) :=
  (({ s with clock := { s.clock with offset := i.at_ } } : State).modCtx p (fun c => { c with loop := i.loop })).modelWrites p i.op

/-! ## Directed writes -/

/-- Landings of a stream sampled before a cycle that a register takes (R27, R317). -/
def State.landingsOn (s : State) (p : StreamId) (r : BitVec 8) (cycle : Nat) : Nat :=
  s.image.bank.landings.countP (fun e => e.stream == p && e.reg == r && decide (e.offset < cycle))

/-- The writes that the model places on a share before a cycle of this frame (R27, R436): those of the slabs that begin before
it, whenever they become readable; none on a persistent register. The worked example of 01 reads R27 so: the pass of a
PBPC that begins before the read cycle and ends after it poisons the release. -/
def State.directedWrites (s : State) (p : StreamId) (r : BitVec 8) (cycle : Nat) : Nat :=
  if (s.image.bank.partner p r).isSome then 0 else
  let x := s.stream p
  let start := s.modelStart p x.snap x.reachedSnap x.setterSnap
  let issues := (State.modelRun p (min cycle 1984) start []).2
  let ws := issues.flatMap (fun i => (List.range (opRpt i.op + 1)).flatMap (fun k => (slabResults start.lanes i.op k).map (fun d => (d.1, i.at_ + k - d.2))))
  ws.countP (fun w => w.1 == r && decide (w.2 < cycle)) + s.landingsOn p r cycle

end Sys2Proof.Machine
end

