-- ==== Sys2Proof/Machine/AdmissionModel.lean ====
section
/-! DEFINITION. Admission's checks over the issue offsets of R436: the model frames of every program and of every overlay
installed alone, and what R51, R63, R126, R177, R215, R244, R270 and R274 judge of them. -/

namespace Sys2Proof.Machine

/-! ## The programs that are modelled -/

/-- A program that admission models (R436): its stream, the entry of its program section, the overlay installed (entry, first
index, count), and the words of the buffer. -/
structure Variant where
  stream : StreamId
  entry  : Nat
  page   : Option (Nat × Nat × Nat)
  words  : List (BitVec 128)
  deriving DecidableEq, Repr

/-- The breach that names an instruction of a program. -/
def Variant.place (v : Variant) (pc : BitVec 13) : Breach :=
  let i := pc.toNat
  match v.page with
  | some (e, d, n) => if d ≤ i ∧ i < d + n then ⟨v.stream.toNat, e, i - d⟩ else ⟨v.stream.toNat, v.entry, i⟩
  | none => ⟨v.stream.toNat, v.entry, i⟩

/-- A list with words put over it from an index on, HALT beyond its end (R315). -/
def overlaid (ws : List (BitVec 128)) (d : Nat) (os : List (BitVec 128)) : List (BitVec 128) :=
  let base := ws ++ List.replicate (d + os.length - ws.length) 1
  base.take d ++ os ++ base.drop (d + os.length)

/-- The programs of the streams with PRESENT 1, as loaded and with each overlay alone. -/
def State.variants (s : State) (m : Mem) (l : List OverlayInfo) : List Variant :=
  (s.cutStreams.filter s.present).flatMap (fun p =>
    let ws := programWords (sectionBytes m 2 p.toNat)
    let e := entryOf m 2 p.toNat
    ({ stream := p, entry := e, page := none, words := ws } : Variant) ::
      (l.filter (fun o => o.stream == p)).map (fun o =>
        { stream := p, entry := e, page := some (entryOf m 3 o.index.toNat, o.dest.toNat, o.words.length)
          words := overlaid ws o.dest.toNat o.words }))

/-- The internal stores with the program of a variant. -/
def State.withVariant (s : State) (v : Variant) : State :=
  { s with image := { s.image with bank := { s.image.bank with programs := putWords s.image.bank.fill s.image.bank.programs (v.stream.toNat * 8192) v.words } } }

/-! ## Model frames -/

/-- A model frame of a program: the context at its start, its issues in order, the instruction that it would hold under R96,
and the frame of the program that follows it. -/
structure MFrame where
  ctx    : Ctx
  issues : List Issued
  held   : Option (BitVec 13)
  next   : Option Nat
  deriving DecidableEq, Repr

/-- Two frame starts are equivalent (R436 item 4). -/
def equivalent (ws : List (BitVec 128)) (a b : Ctx) : Bool :=
  a.pc == b.pc && (openAt ws a.pc.toNat).all (fun l =>
    let i := l.1.toNat
    let x := a.loop.toList.getD i 0
    let y := b.loop.toList.getD i 0
    x == y || decide (2 ≤ x.toNat ∧ 2 ≤ y.toNat))

/-- The Setter across a tick: a computation that began ends in its frame, a deferred one begins (R166, R167). -/
def State.setterOver (s : State) (p : StreamId) (x : Setter) : Setter :=
  { job := match x.job with
      | some j => if j.phase = .deferred then some (s.beginDeferred p j) else none
      | none => none
    results := [], invalidate := [] }

/-- At the end of a frame the stream stands at an FWAIT with NXT 1 that it has reached. -/
def State.passesTick (s : State) (p : StreamId) : Bool :=
  (s.stream p).reached.isSome && (match decodeWord (s.wordAt p) with | some (_, .fwait f) => f.nxt | _ => false)

/-- Frame after frame, until HALT, a held instruction, or a frame start equivalent to an earlier one. -/
def State.modelFrames (s : State) (v : Variant) : Nat → Ctx → Option (Nat × Nat) → Setter → List MFrame → List MFrame
  | 0, _, _, _, seen => seen
  | fuel + 1, c, reached, setter, seen =>
    let p := v.stream
    let n := seen.length
    let start := ({ s with clock := { s.clock with ticks := n } } : State).modelStart p c reached setter
    let r := start.modelFrame p
    let x := r.1.stream p
    let g : MFrame := { ctx := c, issues := r.2, held := none, next := none }
    if x.ctx.state ≠ .running ∨ x.pastEnd then seen ++ [g]
    else if !r.1.passesTick p then seen ++ [({ g with held := some x.ctx.pc } : MFrame)]
    else
      match (seen ++ [g]).findIdx? (fun h => equivalent v.words h.ctx x.ctx) with
      | some k => seen ++ [({ g with next := some k } : MFrame)]
      | none => s.modelFrames v fuel x.ctx x.reached (s.setterOver p x.setter) (seen ++ [({ g with next := some (n + 1) } : MFrame)])

/-- A program with its model frames; at most 8,193 of them (R436). -/
structure Model where
  var    : Variant
  frames : List MFrame
  deriving DecidableEq, Repr

def State.model (s : State) (v : Variant) : Model :=
  let s1 := s.withVariant v
  { var := v
    frames := s1.modelFrames v 8193 { s1.freshCtx v.stream 0 with state := .running } none
      { job := none, results := [], invalidate := [] } [] }

/-- The model's state as an issue found it. -/
def State.atIssue (s : State) (p : StreamId) (i : Issued) : State :=
  ({ s with clock := { s.clock with offset := i.at_ } } : State).modCtx p (fun c => { c with loop := i.loop })

/-! ## R51 and R244 -/

/-- Cycles from the issue to the last of an instruction's occupancy, results and effects (R51, R113, R244), and of the Setter's
intake (R162). -/
def State.effectEnd (s : State) (p : StreamId) (op : Op) : Nat :=
  match op with
  | .perm f => if f.mode then 3 + ceilDiv s.lanes 2048 else f.rpt.toNat + s.lastLatency p op
  | .pbpc f => f.rpt.toNat + s.lastLatency p op
  | .ldt f => f.rpt.toNat + s.lastLatency p op
  | .stt f => f.rpt.toNat + s.lastLatency p op
  | .conv f => f.rpt.toNat + s.lastLatency p op
  | .pack f => f.rpt.toNat + s.lastLatency p op
  | .unpk f => f.rpt.toNat + s.lastLatency p op
  | .sepr f => seprOcc f + 40
  | .skim f => skimOcc f + 40
  | .skp f => basinOcc f.n + 6
  | .comb f => basinOcc f.n + 8
  | .drain f => basinOcc f.n + 10
  | .tsig _ => 2
  | .tadd _ => 2
  | .copen _ => 2
  | .cclos _ => 2
  | .alarm _ => 2
  | .csend _ => 3
  | .crecv _ => 4
  | .chk _ => 6
  | _ => 0

/-- Held instructions (R436), and instructions that pass offset 1,983 (R51). -/
def State.frameBreaches (s : State) (m : Model) : List Breach :=
  m.frames.flatMap (fun g =>
    (match g.held with | some pc => [m.var.place pc] | none => [])
      ++ g.issues.flatMap (fun i =>
        if 1983 < i.at_ + (s.atIssue m.var.stream i).effectEnd m.var.stream i.op then [m.var.place i.pc] else []))

/-! ## Pool bytes that an instruction reads and writes, at every loop index (R436 item 5) -/

/-- Loop counters under which an instruction's index takes each of its values: those of the loop of its level that is open at
it, over the loop's whole count. -/
def Variant.loops (v : Variant) (pc : Nat) (loop : Vector (BitVec 24) 4) (ilvl : BitVec 2) (idxen : Bool) : List (Vector (BitVec 24) 4) :=
  if !idxen then [loop] else
  match (openAt v.words pc).find? (fun l => l.1 == ilvl) with
  | none => [loop]
  | some (_, q) =>
    match (v.words[q]?).bind decodeWord with
    | some (_, .nop f) => if f.count = 0 then [loop] else
        (List.range f.count.toNat).map (fun r => setLoop loop ilvl (BitVec.ofNat 24 (r + 1)))
    | _ => [loop]

/-- Pool bytes of a slab: offset and length. -/
def slabBytes (f : XferF) (toReg : Bool) (lanes : Nat) (loop : Vector (BitVec 24) 4) (k : Nat) : List (Nat × Nat) :=
  if xferAddr f toReg lanes loop k < 0 then [] else xferRuns f toReg lanes loop k

/-- Pool bytes that an access touches: region, offset, length, and the cycle in which it reads them or its writes are seen by
other agents. -/
structure Touch where
  region : Nat
  off    : Nat
  len    : Nat
  cycle  : Nat
  deriving DecidableEq, Repr

def State.slabTouches (s : State) (v : Variant) (i : Issued) (f : XferF) (toReg : Bool) (lat : Nat) : List Touch :=
  (v.loops i.pc.toNat i.loop f.ilvl f.idxen).flatMap (fun l => (List.range (f.rpt.toNat + 1)).flatMap (fun k =>
    (slabBytes f toReg s.lanes l k).map (fun b => ⟨f.region.toNat, b.1, b.2, i.at_ + k + lat⟩)))

/-- Ranges of the Pool that a Sluice instruction names, as touches in a cycle. -/
def touchesIn (cycle : Nat) (l : List (Nat × Nat × Nat)) : List Touch := l.map (fun t => ⟨t.1, t.2.1, t.2.2, cycle⟩)

/-- Reads of the Pool: a SEPR reads 256 keys and a SKIM 512 values in a cycle (R113). A Sluice instruction counts as reading its tables,
and its source, in the cycle after its issue (DESIGN CHOICE, log entry 69). -/
def State.poolReads (s : State) (v : Variant) (i : Issued) : List Touch :=
  match i.op with
  | .ldt f => s.slabTouches v i f true 0
  | .sepr f => (List.range (ceilDiv (seprN f) 256)).map (fun c =>
      ⟨f.kreg.toNat, 32 * f.koff.toNat + 512 * c, 2 * min 256 (seprN f - 256 * c), i.at_ + c⟩)
  | .skim f =>
    let e := fmtE f.fmt
    (v.loops i.pc.toNat i.loop f.ilvl f.idxen).flatMap (fun l =>
      let a := ((f.off.toNat : Int) + f.stride.toInt * loopIndex l f.ilvl f.idxen).toNat * 32
      (List.range (skimOcc f)).map (fun c => ⟨f.region.toNat, a + 512 * e * c, e * min 512 (skimM f - 512 * c), i.at_ + c⟩))
  | .gath f => touchesIn (i.at_ + 1) (s.sluiceTables f)
  | .scat f => touchesIn (i.at_ + 1) (s.sluiceTables f ++ sluiceSource i.op)
  | .bcst f => touchesIn (i.at_ + 1) (s.sluiceTables f ++ sluiceSource i.op)
  | _ => []

/-- Writes of the Pool by a stream's own instructions; a GATH's landing is none of them (R201). -/
def State.poolWrites (s : State) (v : Variant) (i : Issued) : List Touch :=
  match i.op with
  | .stt f => s.slabTouches v i f false (s.lastLatency v.stream i.op)
  | .sepr f => [⟨f.oreg.toNat, 32 * f.ooff.toNat, seprArea f, i.at_ + seprOcc f + 40 + poolSlack i.op⟩]
  | _ => []

/-- Writes that change what a read of the frame returns: those of a frame pair go to the other copy (R434). -/
def State.plainWrites (s : State) (v : Variant) (i : Issued) : List Touch :=
  (s.poolWrites v i).filter (fun t => !(s.image.bank.region t.region).persist)

def Touch.meets (a b : Touch) : Bool := a.region == b.region && rangesMeet a.off a.len b.off b.len

/-! ## R126 and R177: charges, and writes after issue -/

/-- Requests that an instruction is charged with (R194). -/
def State.chargeOf (s : State) (f : SluiceF) : Nat := f.count.toNat * (s.image.bank.desc f.desc.toNat).rpb

/-- The instructions whose charge makes the sum of the frame exceed RRES or WRES. -/
def State.overCharge (s : State) (v : Variant) : Nat → Nat → List Issued → List Breach
  | _, _, [] => []
  | r, w, i :: is =>
    let go := fun (f : SluiceF) (write : Bool) =>
      let r1 := if write then r else r + s.chargeOf f
      let w1 := if write then w + s.chargeOf f else w
      breachIf (decide (s.recAt v.stream 32 4 < r1 ∨ s.recAt v.stream 36 4 < w1)) (v.place i.pc).stream (v.place i.pc).entry (v.place i.pc).number
        ++ s.overCharge v r1 w1 is
    match i.op with
    | .gath f => go f false
    | .scat f => go f true
    | .bcst f => go f true
    | _ => s.overCharge v r w is

/-- Sluice instructions whose source, index tensor or owner table a later instruction of the frame writes. -/
def State.writtenAfter (s : State) (v : Variant) : List Issued → List Breach
  | [] => []
  | i :: is =>
    let kept := match i.op with
      | .gath f => touchesIn 0 (s.sluiceTables { f with idxen := true })
      | .scat f => touchesIn 0 (s.sluiceTables { f with idxen := true } ++ sluiceSource i.op)
      | .bcst f => touchesIn 0 (s.sluiceTables { f with idxen := true } ++ sluiceSource i.op)
      | _ => []
    (if !kept.isEmpty && is.any (fun j => (s.plainWrites v j).any (fun w => kept.any w.meets)) then [v.place i.pc] else [])
      ++ s.writtenAfter v is

def State.issueBreaches (s : State) (m : Model) : List Breach :=
  m.frames.flatMap (fun g => s.overCharge m.var 0 0 g.issues ++ s.writtenAfter m.var g.issues)

/-! ## R63: written before read -/

/-- Registers that an instruction reads, with the cycles. -/
def regReads (i : Issued) : List (BitVec 8 × Nat) :=
  (List.range (opRpt i.op + 1)).flatMap (fun k => (slabSources i.op k).map (fun r => (r, i.at_ + k)))

/-- Registers that a frame writes before a cycle: results, and the landings of the landing table. -/
def State.writtenBefore (s : State) (p : StreamId) (ws : List (BitVec 8 × Nat)) (r : BitVec 8) (c : Nat) : Bool :=
  ws.any (fun w => w.1 == r && decide (w.2 ≤ c)) || s.image.bank.landings.any (fun e => e.stream == p && e.reg == r && decide (e.offset + 4 ≤ c))

/-- The registers that a frame of the stream ever writes: its instructions' and those of the landing table (R63). -/
def State.everWritten (s : State) (m : Model) : List (BitVec 8) :=
  (m.frames.flatMap (fun g => g.issues.flatMap (s.issuedWrites m.var.stream))).map (·.1)
    ++ (s.image.bank.landings.filter (fun e => e.stream == m.var.stream)).map (·.reg)

/-- A register that a frame of the stream writes, neither persistent nor written before an instruction reads it in every frame. -/
def State.registerBreaches (s : State) (m : Model) : List Breach :=
  let p := m.var.stream
  let ever := s.everWritten m
  m.frames.flatMap (fun g =>
    let ws := g.issues.flatMap (s.issuedWrites p)
    g.issues.flatMap (fun i => if (regReads i).any (fun r => (s.image.bank.partner p r.1).isNone && ever.contains r.1
        && !s.writtenBefore p ws r.1 r.2) then [m.var.place i.pc] else []))

/-- The writes of registers that an issue places: the register, the cycle in which its slab begins, and the one from which it is readable
(R27, R113, R274). -/
def State.placedWrites (s : State) (p : StreamId) (i : Issued) : List (BitVec 8 × Nat × Nat) :=
  let t := s.atIssue p i
  (List.range (opRpt i.op + 1)).flatMap (fun k => (slabResults s.lanes i.op k).map (fun d =>
    (d.1, i.at_ + k - d.2, i.at_ + k - d.2 + t.latency p i.op k + poolSlack i.op)))

/-- The releases of a program's stream that fail a check, each by its entry in the schedule; the check takes the register, the cycle of the
weir's read and the writes of a model frame. -/
def State.releasesFailing (s : State) (im : Mem) (m : Model) (fails : BitVec 8 → Nat → List (BitVec 8 × Nat × Nat) → Bool) : List Breach :=
  let p := m.var.stream
  let frames := m.frames.map (fun g => g.issues.flatMap (s.placedWrites p))
  let first := (s.image.bank.landings.filter (fun e => e.stream == p)).length
  ((s.image.bank.releases.filter (fun e => e.stream == p)).mapIdx (fun j e =>
    breachIf ((s.image.bank.partner p e.reg).isNone && frames.any (fails e.reg (e.offset - 3))) p.toNat (entryOf im 8 p.toNat) (first + j))).flatten

/-- A register that a frame writes, read by a weir in a frame that has placed no write of it before the read (R27, R63). -/
def State.weirBreaches (s : State) (im : Mem) (m : Model) : List Breach :=
  let ever := s.everWritten m
  s.releasesFailing im m (fun r c ws =>
    ever.contains r && s.landingsOn m.var.stream r c == 0 && !ws.any (fun w => w.1 == r && decide (w.2.1 < c)))

/-- A write directed to a release that is not readable by the weir's read cycle, every Pool read served as late as R274 allows (R27, R57,
R323). -/
def State.readyBreaches (s : State) (im : Mem) (m : Model) : List Breach :=
  s.releasesFailing im m (fun r c ws =>
    ws.any (fun w => w.1 == r && decide (w.2.1 < c ∧ c < w.2.2))
      || s.image.bank.landings.any (fun e => e.stream == m.var.stream && e.reg == r && decide (e.offset < c ∧ c < e.offset + 4)))

/-- Pool bytes likewise, by the reads of the owning stream alone: a read that another stream makes of a SHARE region is not judged (DESIGN
CHOICE, log entry 28: R63 does not say whether it counts). -/
def State.bytesEarly (s : State) (v : Variant) (ever : List Touch) : List Touch → List Issued → List Breach
  | _, [] => []
  | before, i :: is =>
    let holds := fun (l : List Touch) (t : Touch) (o : Nat) => l.any (fun w => w.region == t.region && decide (w.off ≤ o ∧ o < w.off + w.len))
    (if (s.poolReads v i).any (fun t => (List.range t.len).any (fun k => holds ever t (t.off + k) && !holds before t (t.off + k)))
      then [v.place i.pc] else [])
      ++ s.bytesEarly v ever (before ++ s.plainWrites v i) is

def State.replayBreaches (s : State) (im : Mem) (m : Model) : List Breach :=
  let ever := m.frames.flatMap (fun g => g.issues.flatMap (s.plainWrites m.var))
  s.registerBreaches m ++ s.weirBreaches im m ++ m.frames.flatMap (fun g => s.bytesEarly m.var ever [] g.issues)

/-! ## R270: banks of a transposing slab -/

/-- A slab that keeps its alignment touches a bank twice. -/
def State.banksMeet (s : State) (f : XferF) (toReg : Bool) (loop : Vector (BitVec 24) 4) (k : Nat) : Bool :=
  let a := xferAddr f toReg s.lanes loop k
  let nb := s.setBanks
  let g := s.image.bank.region f.region.toNat
  if a < 0 ∨ a % (min (xferTile f toReg) (xferSlab f toReg s.lanes) : Nat) ≠ 0 then false else
  let words := runWords (slabBytes f toReg s.lanes loop k)
  !decide ((words.map (fun x => s.bankOf f.region.toNat g (x / nb) (x % nb))).Nodup)

/-- R270 for every transposing instruction of a program. -/
def State.transposeBreaches (s : State) (v : Variant) : List Breach :=
  let go := fun (pc : Nat) (f : XferF) (toReg : Bool) =>
    if f.tr && (v.loops pc (Vector.replicate 4 0) f.ilvl f.idxen).any (fun l => (List.range (f.rpt.toNat + 1)).any (s.banksMeet f toReg l))
    then [v.place (BitVec.ofNat 13 pc)] else []
  (v.words.mapIdx (fun pc w => match decodeWord w with
    | some (_, .ldt f) => go pc f true
    | some (_, .stt f) => go pc f false
    | _ => [])).flatten

/-! ## Combinations of the streams' frames -/

/-- A frame of one stream in a combination. -/
structure Plan where
  model : Model
  frame : MFrame
  deriving DecidableEq, Repr

/-- One choice from each list. -/
def choices {α : Type} : List (List α) → List (List α)
  | [] => [[]]
  | l :: ls => l.flatMap (fun a => (choices ls).map (a :: ·))

/-- Every combination of one model frame for each stream: the streams start in any frames, so any of their frames may run
together. -/
def combinations (l : List Model) : List (List Plan) :=
  let streams := (l.map (fun m => m.var.stream)).eraseDups
  choices (streams.map (fun p => (l.filter (fun m => m.var.stream == p)).flatMap (fun m => m.frames.map (fun g => ⟨m, g⟩))))

/-- R126 between streams: the source of a SCAT or BCST in a region that its owner, another stream, writes later in the frame. -/
def State.shareBreaches (s : State) (l : List Plan) : List Breach :=
  l.flatMap (fun x => x.frame.issues.flatMap (fun i =>
    let kept := touchesIn 0 (sluiceSource i.op)
    if kept.isEmpty then [] else
    if l.any (fun y => y.model.var.stream != x.model.var.stream && y.frame.issues.any (fun j =>
        (s.plainWrites y.model.var j).any (fun w => decide (i.at_ < w.cycle) && kept.any w.meets)))
    then [x.model.var.place i.pc] else []))

/-! ## R274: charges of the Pool's banks -/

/-- A charge: set, cycle, bank cycles, the instruction. -/
structure Charge where
  set    : StreamId
  cycle  : Nat
  amount : Nat
  place  : Breach
  deriving DecidableEq, Repr

/-- Bank cycles of an access to a region (R267, R274). -/
def State.bankCost (s : State) (r : Nat) : Nat := if (s.image.bank.region r).mode = 1 then 2 else 1

def State.chargesOf (s : State) (v : Variant) (i : Issued) : List Charge :=
  let p := v.stream
  let b := v.place i.pc
  let run := fun (n : Nat) (c : Nat) => (List.range n).map (fun k => (⟨p, i.at_ + k, c, b⟩ : Charge))
  match i.op with
  | .ldt f => run (f.rpt.toNat + 1) (s.bankCost f.region.toNat)
  | .stt f => (s.copySets f.region.toNat).flatMap (fun set => (List.range (f.rpt.toNat + 1)).map (fun k =>
      ⟨set, i.at_ + k, s.bankCost f.region.toNat, b⟩))
  | .skim f => run (skimOcc f) 1
  | .sepr f =>
    let c := ceilDiv (ceilDiv (seprArea f) 32) s.setBanks * s.bankCost f.oreg.toNat
    let rate := ceilDiv c 40
    run (seprOcc f) 1 ++ (s.copySets f.oreg.toNat).flatMap (fun set => (List.range 40).map (fun k =>
      ⟨set, i.at_ + seprOcc f + k, min rate (c - rate * k), b⟩))
  | _ => []

/-- The first cycle at which a run of charges in a set exceeds its length by more than 16. -/
def overrun (cs : List Charge) (set : StreamId) : Nat → Nat → Nat → Option Nat
  | 0, _, _ => none
  | n + 1, x, e =>
    let e1 := e + ((cs.filter (fun c => c.set == set && c.cycle == x)).map (·.amount)).sum - 1
    if 16 < e1 then some x else overrun cs set n (x + 1) e1

/-- R274: in any set, for a combination of frames; the breach names the instruction charged at that cycle. -/
def State.poolCharges (s : State) (l : List Plan) : List Breach :=
  let cs := l.flatMap (fun x => x.frame.issues.flatMap (s.chargesOf x.model.var))
  s.cutStreams.flatMap (fun set => match overrun cs set 1984 0 0 with
    | some x => (firstBreach ((cs.filter (fun c => c.set == set && c.cycle == x && decide (0 < c.amount))).map (·.place))).toList
    | none => [])

/-! ## R215: the Sluice model -/

/-- A request of the Sluice model. -/
structure SReq where
  stream : Nat
  write  : Bool
  num    : Nat
  ready  : Nat
  lam    : Nat
  port   : Nat
  /-- The place of its instruction among the issues of its stream's frame. -/
  job    : Nat
  deriving DecidableEq, Repr

/-- λ in cycles of P0: ⌈latency · 2.4⌉ (R212). -/
def lambda (ns : Nat) : Nat := ceilDiv (ns * 12) 5
def State.lambdaOf (s : State) (g : MemRegion) : Nat := lambda (if g.anyChip then s.regs.latRemote.toNat else s.regs.latLocal.toNat)

/-- The Sluice instructions of a frame with their places among its issues. -/
def sluiceIssues (l : List Issued) : List (Nat × Issued × SluiceF × Bool) :=
  (l.mapIdx (fun k i => match i.op with
    | .gath f => [(k, i, f, false)]
    | .scat f => [(k, i, f, true)]
    | .bcst f => [(k, i, f, true)]
    | _ => [])).flatten

def State.regionOf (s : State) (f : SluiceF) : MemRegion := s.image.bank.memRegion (s.image.bank.desc f.desc.toNat).region

/-- The Sluice instructions of a program's other model frames, with their PCs: they belong to its schedule too. -/
def Plan.others (x : Plan) : List (BitVec 13 × SluiceF) :=
  (x.model.frames.filter (fun g => g != x.frame)).flatMap (fun g => (sluiceIssues g.issues).map (fun y => (y.2.1.pc, y.2.2.1)))

/-- H of R215: the largest λ of the other Sluice instructions of the schedule whose memory regions meet. -/
def State.heldBack (s : State) (all : List (Nat × Issued × SluiceF × Bool)) (others : List (BitVec 13 × SluiceF))
    (x : Nat × Issued × SluiceF × Bool) : Nat :=
  let fs := (all.filter (fun y => y.1 != x.1)).map (fun y => y.2.2.1) ++ (others.filter (fun y => y.1 != x.2.1.pc)).map (·.2)
  (fs.filter (fun f => memMeet (s.regionOf f) (s.regionOf x.2.2.1))).foldl (fun n f => max n (s.lambdaOf (s.regionOf f))) 0

/-- The cycle after a stream's request pass in one direction, by instruction (R215): its place among the issues and the end. -/
def State.passEnds (s : State) (all : List (Nat × Issued × SluiceF × Bool)) (write : Bool) : List (Nat × Nat) :=
  let g := 16 / s.parts
  ((all.filter (fun x => x.2.2.2 == write)).foldl (fun (a : List (Nat × Nat) × Nat) x =>
    let n := ceilDiv (s.chargeOf x.2.2.1) g
    let fin := max (x.2.1.at_ + 1) a.2 + n + n
    (a.1 ++ [(x.1, fin)], fin)) ([], 0)).1

/-- ADMIT_FRAME: a SCAT or BCST whose request pass, which reads its source bytes, runs on at offset 1,984 or later (R51, R113). -/
def State.sourceBreaches (s : State) (m : Model) : List Breach :=
  m.frames.flatMap (fun g =>
    let all := sluiceIssues g.issues
    (s.passEnds all true).flatMap (fun e => match all.find? (fun x => x.1 == e.1) with
      | some x => if 1984 < e.2 then [m.var.place x.2.1.pc] else []
      | none => []))

/-- The requests of one stream in one direction. -/
def State.modelRequests (s : State) (p : StreamId) (all : List (Nat × Issued × SluiceF × Bool)) (others : List (BitVec 13 × SluiceF))
    (write : Bool) : List SReq :=
  let g := 16 / s.parts
  ((all.filter (fun x => x.2.2.2 == write)).foldl (fun (a : List SReq × Nat × Nat) x =>
    let c := s.chargeOf x.2.2.1
    let f := max (x.2.1.at_ + 1) a.2.1 + ceilDiv c g
    let h := if write then s.heldBack all others x else 0
    (a.1 ++ (List.range c).map (fun r =>
        { stream := p.toNat, write := write, num := a.2.2 + r, ready := f + r / g + 1 + h, lam := s.lambdaOf (s.regionOf x.2.2.1)
          port := (a.2.2 + r + p.toNat) % s.cfg.ports, job := x.1 }),
      f + ceilDiv c g, a.2.2 + c)) ([], 0, 0)).1

def State.planRequests (s : State) (l : List Plan) : List SReq :=
  l.flatMap (fun x =>
    let all := sluiceIssues x.frame.issues
    s.modelRequests x.model.var.stream all x.others false ++ s.modelRequests x.model.var.stream all x.others true)

/-- The queue order of the model: (ready, s, n). -/
def sreqInsert (r : SReq) : List SReq → List SReq
  | [] => [r]
  | q :: l => if r.ready < q.ready ∨ (r.ready = q.ready ∧ (r.stream < q.stream ∨ (r.stream = q.stream ∧ r.num < q.num)))
              then r :: q :: l else q :: sreqInsert r l

/-- A port in a run: its queues, the release cycles of its tags, the transfers made. -/
structure SPort where
  reads  : List SReq
  writes : List SReq
  held   : List Nat
  done   : List (SReq × Nat)
  deriving DecidableEq, Repr

/-- One direction's turn in cycle x. -/
def SPort.turn (q : SPort) (cap x : Nat) (write : Bool) : SPort :=
  match (if write then q.writes else q.reads) with
  | [] => q
  | r :: rest =>
    if r.ready ≤ x ∧ q.held.countP (fun t => decide (x < t)) < cap then
      let q1 := if write then { q with writes := rest } else { q with reads := rest }
      { q1 with held := q.held ++ [x + r.lam], done := q.done ++ [(r, x)] }
    else q

/-- Cycles 0 to 4,095 of a port. -/
def SPort.run (q : SPort) (cap : Nat) : SPort :=
  (List.range 4096).foldl (fun q x => (q.turn cap x false).turn cap x true) q

/-- A run of the model on one port: tags held at its start, and the number of tags there are. -/
def sluiceRun (rs : List SReq) (port cap : Nat) (tail : List Nat) : SPort :=
  let mine := rs.filter (fun r => r.port == port)
  SPort.run { reads := (mine.filter (fun r => !r.write)).foldr sreqInsert [], writes := (mine.filter (·.write)).foldr sreqInsert [],
              held := tail, done := [] } cap

/-- Tags that a run holds at offset 2,048, as release cycles of the next frame. -/
def SPort.tail (q : SPort) (first : List Nat) : List Nat :=
  (first ++ ((q.done.filter (fun d => decide (d.2 < 2048))).map (fun d => d.2 + d.1.lam))).filterMap
    (fun t => if 2048 < t then some (t - 2048) else none)

/-- X of a request, none where the run does not transfer it. -/
def SPort.at_ (q : SPort) (r : SReq) : Option Nat := (q.done.find? (fun d => d.1 == r)).map (·.2)

/-- The runs of R215 and R323 over a combination: for each port the tags that the first and the second run hold at offset
2,048, the second run, and the loader run. -/
structure SRuns where
  port   : Nat
  first  : List Nat
  second : SPort
  last   : List Nat
  loader : SPort
  deriving DecidableEq, Repr

def State.sluiceRuns (s : State) (l : List Plan) : List SRuns :=
  let rs := s.planRequests l
  (List.range s.cfg.ports).map (fun port =>
    let tail := (sluiceRun rs port 1024 []).tail []
    let second := sluiceRun rs port 1024 tail
    { port := port, first := tail, second := second, last := second.tail tail, loader := sluiceRun rs port 1016 tail })

/-- The breach that names the lowest-numbered stream with a request on the lowest-numbered port where a condition holds (R322). -/
def State.portBreach (s : State) (im : Mem) (l : List Plan) (bad : SRuns → Bool) : List Breach :=
  match (s.sluiceRuns l).find? bad with
  | none => []
  | some r => breachIf true (((s.planRequests l).filter (fun q => q.port == r.port)).foldl (fun n q => min n q.stream) 15) (entryOf im 1 0) 0

/-- ADMIT_FRAME of R215: a transfer after offset 2,047. -/
def SRuns.lateTransfer (rs : List SReq) (r : SRuns) : Bool :=
  (rs.filter (fun q => q.port == r.port)).any (fun q => match r.second.at_ q with | some x => decide (2047 < x) | none => true)

/-- ADMIT_MEMORY of R215: the second run ends with more tags held than the first. -/
def SRuns.moreTags (r : SRuns) : Bool := decide (r.first.length < r.last.length)

/-- ADMIT_MEMORY of the loader run: a transfer later than in the second run. -/
def SRuns.loaderLate (rs : List SReq) (r : SRuns) : Bool :=
  (rs.filter (fun q => q.port == r.port)).any (fun q => match r.second.at_ q, r.loader.at_ q with
    | some x, some y => decide (x < y)
    | some _, none => true
    | none, _ => false)

/-- ADMIT_LANDING: the landing bound of a GATH exceeds the first read of its landing range in the next frame. -/
def State.landingBreaches (s : State) (l : List Plan) : List Breach :=
  let runs := s.sluiceRuns l
  let rs := s.planRequests l
  l.flatMap (fun x => (sluiceIssues x.frame.issues).flatMap (fun j =>
    let f := j.2.2.1
    if j.2.2.2 then [] else
    let mine := rs.filter (fun q => q.stream == x.model.var.stream.toNat && !q.write && q.job == j.1)
    let last := mine.foldl (fun n q => max n (runs.foldl (fun n r => max n ((r.second.at_ q).getD 0)) 0)) 0
    let bound := last + s.lambdaOf (s.regionOf f) + 4 - 2048
    let range : Touch := ⟨f.region.toNat, f.off.toNat, f.count.toNat * sluiceBlock f, 0⟩
    let reads := match x.frame.next.bind (fun n => x.model.frames[n]?) with
      | none => []
      | some g => (g.issues.flatMap (s.poolReads x.model.var)).filter range.meets
    if reads.any (fun t => decide (t.cycle < bound)) then [x.model.var.place j.2.1.pc] else []))

end Sys2Proof.Machine
end

