-- ==== Sys2Proof/Machine/Load.lean ====
section
/-! DEFINITION. The verdict of admission (R322, R323) and the end of a load (R320, R321). -/

namespace Sys2Proof.Machine

/-- The admission codes (R323). -/
def admitPartition : BitVec 8 := 0x10
def admitProgram : BitVec 8 := 0x11
def admitFrame : BitVec 8 := 0x12
def admitTally : BitVec 8 := 0x13
def admitChannel : BitVec 8 := 0x14
def admitTimer : BitVec 8 := 0x15
def admitWell : BitVec 8 := 0x16
def admitPool : BitVec 8 := 0x17
def admitSetting : BitVec 8 := 0x18
def admitRegion : BitVec 8 := 0x19
def admitDesc : BitVec 8 := 0x1A
def admitSksep : BitVec 8 := 0x1B
def admitBasin : BitVec 8 := 0x1C
def admitMemory : BitVec 8 := 0x1D
def admitLanding : BitVec 8 := 0x1E
def admitReplay : BitVec 8 := 0x1F

/-- The state in which admission reads the shadow image: its sections in the internal stores. -/
def State.judged (s : State) : State := { s with image := { s.image with bank := imageBank s.image.shadow.bytes } }

/-- The checks of R323 in ascending code order, each with the breaches it finds. -/
def State.admitChecks (s : State) (m : Mem) (l : List (OverlayInfo × List Byte)) : List (BitVec 8 × List Breach) :=
  let os := l.map (·.1)
  let models := (s.variants m os).map s.model
  let combos := combinations models
  [(admitPartition, s.partitionBreaches m),
   (admitProgram, s.programBreaches m l ++ models.flatMap s.issueBreaches ++ combos.flatMap s.shareBreaches),
   (admitFrame, s.scheduleBreaches m ++ models.flatMap s.frameBreaches ++ models.flatMap s.sourceBreaches
      ++ models.flatMap (s.readyBreaches m)
      ++ combos.flatMap (fun c => s.portBreach m c (SRuns.lateTransfer (s.planRequests c)))),
   (admitTally, s.tallyBreaches m),
   (admitChannel, s.channelBreaches m),
   (admitTimer, s.timerBreaches m),
   (admitWell, s.wellBreaches m),
   (admitPool, s.poolBreaches m os ++ models.flatMap (fun x => s.transposeBreaches x.var) ++ combos.flatMap s.poolCharges),
   (admitSetting, s.settingBreaches m),
   (admitRegion, s.regionBreaches m os),
   (admitDesc, s.descBreaches m),
   (admitSksep, s.windowBreaches m 40 ++ s.windowBreaches m 48),
   (admitBasin, s.windowBreaches m 56),
   (admitMemory, s.reserveBreaches m ++ combos.flatMap (fun c => s.portBreach m c SRuns.moreTags
      ++ s.portBreach m c (SRuns.loaderLate (s.planRequests c)))),
   (admitLanding, combos.flatMap s.landingBreaches),
   (admitReplay, s.partnerBreaches m os ++ models.flatMap (s.replayBreaches m))]

/-- The first code with a breach, and the detail of its first breach (R322). -/
def admitVerdict : List (BitVec 8 × List Breach) → Option (BitVec 8 × BitVec 32)
  | [] => none
  | (code, bs) :: rest => match firstBreach bs with
    | some b => some (code, BitVec.ofNat 32 (b.stream % 16 + 65536 * (b.number % 65536)))
    | none => admitVerdict rest

/-- Admission's verdict on the shadow image: none where it is admitted. -/
def State.admission (s : State) : Option (BitVec 8 × BitVec 32) :=
  admitVerdict (s.judged.admitChecks s.image.shadow.bytes (s.image.shadow.overlays.map (fun o => (o, o.head))))

/-- The load ends (R320, R321): the code and the detail in PSI_IMGSTAT, one record, and an admitted image in the shadow
store; in Hold a failed load names itself as the REASON (R325). -/
def State.endLoad (s : State) (l : Loader) (v : Option (BitVec 8 × BitVec 32)) : State :=
  let r := v.getD (0, 0)
  let s1 : State := { s with
    regs := { s.regs with imgCode := r.1, imgDetail := r.2 }
    image := { s.image with loader := none
                            shadow := { s.image.shadow with present := v.isNone, admitted := v.isNone, key := l.key } } }
  let s2 := s1.loadRecord r.1
  if v.isSome ∧ s2.unit.state = .hold then { s2 with unit := { s2.unit with reason := r.1 } } else s2

/-- States in which the loader works; in Limp no image is loaded (R301). -/
def loading : UnitState → Bool
  | .off | .reset | .boot | .frozen | .scrub | .limp => false
  | _ => true

/-- LOAD_COMPLETE: fetching and checking have ended, and admission, which reads the shadow store (R346), delivers its verdict (R320,
R322). -/
def execLoadComplete (s : State) : Out :=
  match s.image.loader with
  | none => .next s
  | some l =>
    if !loading s.unit.state || !loadEnded s.image.shadow l then .next s else
    match l.verdict with
    | some v => .next (s.endLoad l (some v))
    | none =>
      .next ((s.readRanges .imageStores (inShadow (imageReads s.image.shadow.bytes Section.resident))).endLoad l s.admission)

end Sys2Proof.Machine
end

