-- ==== Sys2Proof/Machine/Moves.lean ====
section
/-! DEFINITION. The stream instructions PERM, PBPC, LDT, STT, CONV, PACK and UNPK (R120 to R129). -/

namespace Sys2Proof.Machine

/-- The Cascade is occupied by the slabs of an instruction (R113). -/
def State.holdCascade (s : State) (p : StreamId) (n : Nat) : State :=
  s.modStream p (fun x => { x with cascadeEnd := s.clock.offset + n })

/-- The Format unit is occupied (R113). -/
def State.holdFormat (s : State) (p : StreamId) (n : Nat) : State :=
  s.modStream p (fun x => { x with formatEnd := s.clock.offset + n })

/-- PERM with MODE 0: NOTPERM where the sub-slot holds no valid setting, else its slabs pass the Cascade (R121). -/
def State.permApply (s : State) (p : StreamId) (f : PermF) : State :=
  let n := subSlot f.slot f.sub
  if !s.settingValid n then s.raise p faultNOTPERM n 0 (s.pc p)
  else if s.settingBad n then s.raise p faultECC n 0 (s.pc p)
  else (s.holdCascade p (f.rpt.toNat + 1)).runSlabs p (.perm f)

/-- PERM with MODE 1: the destination vector goes to the Setter (R122, R162); a vector in a poisoned register is
discarded, and the PERM ends in cycle t + 4 (R61). Every lane of the vector is read in issue cycle t (DESIGN CHOICE, log entry 43: R122
and R162 read it in cycles t to t + 3, and do not say which lane in which). -/
def State.permCompute (s : State) (p : StreamId) (f : PermF) : State :=
  match s.slabBad p (.perm f) with
  | some (_, r) => s.raise p faultECC r 0 (s.pc p)
  | none =>
    let lo := s.share p f.src
    let hi := s.share p (regAdd f.src 1)
    let dst := (List.range s.lanes).map (fun m => (lo.getD m 0).toNat + 256 * (hi.getD m 0).toNat)
    let bad := (joinMark (s.tileMark p f.src) (s.tileMark p (regAdd f.src 1))).isSome
    let job : SetterJob := ⟨s.pc p, f.slot, f.sub, dst, s.clock.offset, 0, 0, if bad then .discard else .taken⟩
    let s1 := ((s.readTile p f.src).readTile p (regAdd f.src 1)).modStream p (fun x => { x with setter := { x.setter with job := some job } })
    if bad then s1.suppress p 1 else s1

def execPerm (p : StreamId) (e : LoopEnd) (f : PermF) (s : State) : Out :=
  .next ((s.turn p).issue p e (.perm f) (fun s => if f.mode then s.permCompute p f else s.permApply p f))

def execPbpc (p : StreamId) (e : LoopEnd) (f : PbpcF) (s : State) : Out :=
  .next ((s.turn p).issue p e (.pbpc f) (fun s => (s.holdCascade p (f.rpt.toNat + 1)).runSlabs p (.pbpc f)))

/-- The fault of a transfer in its issue cycle: PROT with the lowest offending byte, else ALIGN of the first slab that
breaks the tile's alignment (R116, R124, R269). -/
def State.xferFault (s : State) (p : StreamId) (f : XferF) (toReg : Bool) : Option (BitVec 8 × Int) :=
  let l := s.lanes
  let loop := (s.stream p).ctx.loop
  let bad := (List.range (f.rpt.toNat + 1)).filterMap (fun i =>
    let (a, n) := xferRange f toReg l loop i
    s.rangeBad p f.region.toNat a n (!toReg))
  match bad with
  | b :: r => some (faultPROT, r.foldl min b)
  | [] =>
    if !f.tr then none else
    let unit : Int := (min (xferTile f toReg) (xferSlab f toReg l) : Nat)
    match (List.range (f.rpt.toNat + 1)).find? (fun i => xferAddr f toReg l loop i % unit ≠ 0) with
    | some i => some (faultALIGN, xferAddr f toReg l loop i)
    | none => none

/-- The byte of an uncorrectable Pool word that the first slab of an LDT reads (R115, R269). -/
def State.ldtBad (s : State) (p : StreamId) (f : XferF) : Option Nat :=
  if s.eccBad.isEmpty then none else
  (xferRuns f true s.lanes (s.stream p).ctx.loop 0).findSome? (fun b => s.poolBad p f.region.toNat b.1 b.2 s.clock.offset)

/-- LDT (R124, R125, R223): the Pool is occupied for RPT + 1 cycles. -/
def State.ldtEffect (s : State) (p : StreamId) (f : XferF) : State :=
  match s.xferFault p f true with
  | some (code, a) => s.raise p code a (if code = faultPROT then 1 else 0) (s.pc p)
  | none =>
    let s1 := s.modStream p (fun x => { x with poolEnd := s.clock.offset + f.rpt.toNat + 1,
                                               poolReadEnd := s.clock.offset + f.rpt.toNat + 1 })
    match s1.ldtBad p f with
    | some b => s1.raise p faultECC b 0 (s1.pc p)
    | none => s1.startSlabs p (.ldt f)

def execLdt (p : StreamId) (e : LoopEnd) (f : XferF) (s : State) : Out :=
  .next ((s.turn p).issue p e (.ldt f) (fun s => s.ldtEffect p f))

/-- STT (R124, R125, R223): PROT where the stream does not own the region. -/
def State.sttEffect (s : State) (p : StreamId) (f : XferF) : State :=
  match s.xferFault p f false with
  | some (code, a) => s.raise p code a (if code = faultPROT then 1 else 0) (s.pc p)
  | none =>
    let s1 := s.modStream p (fun x => { x with poolEnd := s.clock.offset + f.rpt.toNat + 1 })
    (if (s1.slabBad p (.stt f)).isNone then s1.store p (s1.sttStores p f) else s1).runSlabs p (.stt f)

def execStt (p : StreamId) (e : LoopEnd) (f : XferF) (s : State) : Out :=
  .next ((s.turn p).issue p e (.stt f) (fun s => s.sttEffect p f))

def execConv (p : StreamId) (e : LoopEnd) (f : ConvF) (s : State) : Out :=
  .next ((s.turn p).issue p e (.conv f) (fun s => (s.holdFormat p (f.rpt.toNat + 1)).runSlabs p (.conv f)))

def execPack (p : StreamId) (e : LoopEnd) (f : PackF) (s : State) : Out :=
  .next ((s.turn p).issue p e (.pack f) (fun s => (s.holdFormat p (f.rpt.toNat + 1)).runSlabs p (.pack f)))

def execUnpk (p : StreamId) (e : LoopEnd) (f : PackF) (s : State) : Out :=
  .next ((s.turn p).issue p e (.unpk f) (fun s => (s.holdFormat p (f.rpt.toNat + 1)).runSlabs p (.unpk f)))

end Sys2Proof.Machine
end

