-- ==== Sys2Proof/Machine/Recovery.lean ====
section
/-! DEFINITION. Recovery's probe and what the firmware makes of it (R349, R350), its timeout (R353), the rewriting of an
internal image copy (R351), failover of a core (R293) and the fault of the fast matrix (R301). -/

namespace Sys2Proof.Machine

/-! ## The probe -/

/-- Switch bits of probe setting g (R349): setting 0 straight, setting 1 + i with every switch of stage Si crossed. -/
def probeBit (g i : Nat) (_ : Nat) : Bool := decide (g = i + 1)

/-- The lane that setting g sends to an output lane (R349). -/
def probeSource (c g lane : Nat) : Nat := if g = 0 then lane else partnerLane (stageBit c (g - 1)) lane

/-- The byte of pass d at source lane m (R349). -/
def probeByte (d m : Nat) : Nat :=
  match d with
  | 0 => m % 256
  | 1 => m / 256
  | 2 => 255 - m % 256
  | _ => 255 - m / 256

/-- The failing lanes of setting g, each with its first failing pass: the uncut Cascade under the SXPOS in force (R349). -/
def State.probeFails (s : State) (g : Nat) : List (Nat × Nat) :=
  let c := s.cfg.laneBits
  if s.defects.isEmpty then [] else
  (List.range (2 ^ c)).filterMap (fun lane =>
    let got := s.sourceLane s.settings.sxpos.toNat (probeBit g) s.stagesBack lane
    let want := probeSource c g lane
    ((List.range 4).find? (fun d => decide (probeByte d got ≠ probeByte d want))).map (fun d => (lane, d)))

/-- The outcome of a probe: for each failing setting its failing lanes (R349). -/
abbrev ProbeOutcome := List (Nat × List (Nat × Nat))

def State.probeOutcome (s : State) : ProbeOutcome :=
  (List.range (2 * s.cfg.laneBits)).filterMap (fun g => let l := s.probeFails g
                                                        if l.isEmpty then none else some (g, l))

/-- PSI_PROBESTAT (R424). -/
def State.probeShow (s : State) (o : ProbeOutcome) : State :=
  let (lane, pass) := match o with
    | (_, (l, d) :: _) :: _ => (l, d)
    | _ => (0, 0)
  { s with recov := { s.recov with probeFail := BitVec.ofNat 26 (o.foldl (fun v e => v + 2 ^ e.1) 0), probeDone := true
                                   probeLane := BitVec.ofNat 13 lane, probePass := BitVec.ofNat 2 pass, probeTick := none } }

/-- Setting 1 + q of a core stage q: S4 to S(2c − 6) (R159). -/
def coreSetting (c g : Nat) : Bool := decide (5 ≤ g ∧ g ≤ 2 * c - 5)

/-- The lane cells that a failing setting concerns: of its lanes, or of the switches of its stage by their lower lane
(R350). -/
def laneCells (e : Nat × List (Nat × Nat)) : List Nat := e.2.map (fun l => l.1 / 4)
def switchCells (c : Nat) (e : Nat × List (Nat × Nat)) : List Nat :=
  e.2.map (fun l => min l.1 (partnerLane (stageBit c (e.1 - 1)) l.1) / 4)

/-- One cell, where a list names no other. -/
def oneCell (l : List Nat) : Option Nat :=
  match l with
  | [] => none
  | a :: as => if as.all (· == a) then some a else none

/-- The lane cell that the fifth row of R350 names. -/
def faultyCell (c : Nat) (o : ProbeOutcome) : Option Nat :=
  if o.any (fun e => coreSetting c e.1) then none
  else match oneCell (o.flatMap laneCells) with
    | some a => some a
    | none => if o.all (fun e => decide (e.1 ≠ 0)) then oneCell (o.flatMap (switchCells c)) else none

/-- No spare of the cell's array is free, or one already replaces the cell (R350). -/
def State.spareGone (s : State) (cell : Nat) : Bool :=
  let a := cell / 128
  let w := ((s.repair.lanes[a / 2]?.getD 0).toNat) / 2 ^ (16 * (a % 2)) % 65536
  (bitOf w 7 && bitOf w 15) || s.cellReplaced cell

/-- The Hold that a probe's outcome leads to, by the first row of R350 that holds; none where the firmware goes on. -/
def State.probeVerdict (s : State) (o : ProbeOutcome) : Option (BitVec 8) :=
  let c := s.cfg.laneBits
  let q := s.settings.sxpos.toNat
  if o.isEmpty then none
  else if s.recov.acted then some 0x43
  else
    let only := match o with | [(g, _)] => if coreSetting c g then some (g - 1) else none | _ => none
    let straight := o.all (fun e => decide (e.1 ≠ 0))
    if only.isSome ∧ q = 0 then none
    else if only = some q then some 0x41
    else if straight && decide (q ≠ 0) && o.any (fun e => coreSetting c e.1 && decide (e.1 ≠ q + 1)) then some 0x40
    else match faultyCell c o with
      | some cell => if s.spareGone cell then some 0x42 else none
      | none => some 0x43

/-- Hold from Recovery is decided; it takes effect at the next tick (R326). -/
def State.decideHold (s : State) (reason : BitVec 8) : State := { s with unit := { s.unit with holdDue := some reason } }

/-- PROBE_RESULT: the comparisons are decided by offset 140 of the probe frame; a Hold of R350 follows, and the repair actions
are F2's own commands. -/
def execProbeResult (s : State) : Out :=
  if s.unit.state ≠ .recovery ∨ s.recov.probeTick ≠ some s.clock.ticks ∨ s.clock.offset < 140 then .next s else
  let o := s.probeOutcome
  match s.probeVerdict o with
  | some r => .next ((s.probeShow o).decideHold r)
  | none => .next (s.probeShow o)

/-- RESUME_TIMEOUT: at the tick 65,536 fr after the one at which READY was set, after what the tick releases (R53, R353). -/
def execResumeTimeout (s : State) : Out :=
  let s1 := s.crossingStep.exchangeStep.drainStep
  .next (if s1.resumeLate then (s1.holdRecovery 0x44).snapshot else s)

/-! ## The internal image copies -/

/-- MODEL: the bank that a word of the internal image copies lies in: 0 to 15 the program buffers, 16 the descriptors, 17 the
memory regions, 18 the Pool regions, then 16 seed tables and 16 schedules. -/
def copyBank (w : Nat) : Nat :=
  if w < descWord 0 then w / 16384
  else if w < memRegionWord 0 then 16
  else if w < poolRegionWord 0 then 17
  else if w < seedWord 0 then 18
  else if w < seedWord 4096 then 19 + (w - seedWord 0) / 256
  else 35 + (w - seedWord 4096) / 2048

/-- The banks with an uncorrectable word. -/
def State.badBanks (s : State) : List Nat := (s.eccBad.filter (fun e => e.1 == Store.imageCopies)).map (fun e => copyBank e.2)

/-- Type and index of the section that a bank is filled from (R315). -/
def bankSection (b : Nat) : Nat × Nat :=
  if b < 16 then (2, b) else if b = 16 then (5, 0) else if b = 17 then (6, 0) else if b = 18 then (7, 0)
  else if b < 35 then (9, b - 19) else (8, b - 35)

/-- What the rewrite of the affected banks reads of the active image store: its header and directory, and those banks'
sections (R319, R351). -/
def State.rewriteReads (s : State) : List (Nat × Nat) :=
  imageReads s.image.active.bytes (fun x => s.badBanks.any (fun b => bankSection b == (x.type, x.index)))

/-- The rewrite reads an uncorrectable word (R351). -/
def State.imageBad (s : State) : Bool :=
  s.eccBad.any (fun e => e.1 == Store.imageStores && s.rewriteReads.any (fun r => rangesMeet (8 * e.2) 8 r.1 r.2))

/-- The affected banks rewritten from the active image store (R351). -/
def State.rewriteBanks (s0 : State) : State :=
  let s := s0.readRanges .imageStores s0.rewriteReads
  let bad := s.badBanks
  let new := imageBank s.image.active.bytes
  let b := s.image.bank
  let one := fun (base p : Nat) => if bad.contains (base + p) then new else b
  let bank : Bank := { b with
    programs := (List.range 16).flatMap (fun p => (one 0 p).programs.filter (fun e => e.1 / 8192 == p))
    descs := if bad.contains 16 then new.descs else b.descs
    memRegions := if bad.contains 17 then new.memRegions else b.memRegions
    poolRegions := if bad.contains 18 then new.poolRegions else b.poolRegions
    seeds := (List.range 16).flatMap (fun p => (one 19 p).seeds.filter (fun e => e.1 / 256 == p))
    landings := (List.range 16).flatMap (fun p => (one 35 p).landings.filter (fun e => e.stream.toNat == p))
    releases := (List.range 16).flatMap (fun p => (one 35 p).releases.filter (fun e => e.stream.toNat == p)) }
  let keep := fun (e : Store × Nat) => !(e.1 == Store.imageCopies && bad.contains (copyBank e.2))
  { (s.keepEcc keep) with image := { s.image with bank := bank }, unit := { s.unit with copyBad := false } }

/-- IMAGE_COPY_REWRITE: in Recovery with cause IMAGE_COPY the affected bank is rewritten from the active image store, or Psiuno
enters Hold with IMAGE_ECC (R351). -/
def execImageCopyRewrite (s : State) : Out :=
  if s.unit.state ≠ .recovery ∨ !s.unit.copyBad then .next s
  else if s.imageBad then .next (s.decideHold 0x45)
  else .next s.rewriteBanks

/-! ## Failover -/

/-- The core that receives a failed core's functions: the standby, where one remains, else the lowest core that has not failed
(R293). -/
def Cores.receiver (q : Cores) (failed : BitVec 4) : Option (BitVec 2) :=
  if !q.noStby && !failed.getLsbD q.stby.toNat then some q.stby
  else ([0, 1, 2, 3] : List (BitVec 2)).find? (fun c => !failed.getLsbD c.toNat)

/-- The functions that a core holds, bit i for Fi (R292). -/
def Cores.functions (q : Cores) (c : BitVec 2) : Nat := natBit (q.f0 == c) 0 + natBit (q.f1 == c) 1 + natBit (q.f2 == c) 2

/-- What a reset of a core ends: its accesses that wait, its store buffer among them (R291, log entry 20). -/
def State.dropStores (s : State) (c : BitVec 2) : State :=
  { s with held := s.held.filter (fun a => match a with | .access m _ _ _ _ _ => !sameSource m (.core c) | _ => true) }

/-- States that are left for want of a core (R326). -/
def coreState : UnitState → Bool
  | .boot | .armed | .running | .replay | .draining | .recovery | .scrub => true
  | _ => false

/-- In Limp the failure of CC0 leads to Hold as it is decided, since Limp is left without a tick (R326). -/
def State.limpCore (s : State) (c : BitVec 2) : State := if s.unit.state = .limp ∧ c = 0 then s.goto .hold 7 else s

/-- A core has failed (R293, R312): held in reset and marked, its functions assigned, a record; the core that receives them is
reset and begins at address 0 (R291). Without a core left Hold is due at the next tick, from the states that the table of R326
names. -/
def State.failCore (s0 : State) (c : BitVec 2) : State :=
  let s := s0.dropStores c
  let q := { s.cores with ctx := s.cores.ctx.set c.toNat .reset (by have := c.isLt; omega) }
  let failed := q.failed ||| BitVec.ofNat 4 (2 ^ c.toNat)
  let fns := q.functions c
  match q.receiver failed with
  | none =>
    (((({ s with cores := { q with failed := failed }, unit := { s.unit with noCore := s.unit.noCore || coreState s.unit.state } } : State).alertBit 2)).hwLog
      0x0011 c.toNat c.toNat fns 0).limpCore c
  | some r =>
    let move := fun (f : BitVec 2) => if f = c then r else f
    let s1 : State := { s with
      cores := { q with failed := failed, f0 := move q.f0, f1 := move q.f1, f2 := move q.f2, noStby := q.noStby || r == q.stby
                        kicked := q.kicked.set r.toNat s.clock.control (by have := r.isLt; omega)
                        ctx := q.ctx.set r.toNat .start (by have := r.isLt; omega) } }
    (((s1.dropStores r).alertBit 4).hwLog 0x0011 c.toNat r.toNat fns 0).limpCore c

/-- WATCHDOG_EXPIRY: a core that holds a function has not written its watchdog field for 100,000,000 tb (R293). -/
def execWatchdogExpiry (c : BitVec 2) (s : State) : Out :=
  let live := match s.unit.state with | .off | .reset | .frozen => false | _ => true
  if !live || !s.holdsFunction c || s.cores.failed.getLsbD c.toNat ||
     decide (s.clock.control.toNat < (s.cores.kicked[c.toNat]'(by have := c.isLt; omega)).toNat + 100000000) then .next s
  else .next (s.failCore c)

/-- States that a fast-matrix fault turns into Limp (R326). -/
def limpable : UnitState → Bool
  | .boot | .hold | .armed | .running | .replay | .draining | .recovery | .scrub => true
  | _ => false

/-- States that are left at a tick only (R326). -/
def tickState : UnitState → Bool
  | .armed | .running | .replay | .draining | .recovery => true
  | _ => false

/-- MATRIX_FAULT: Limp with CC0 holding F0 and F2, at the next tick from the states that are left at ticks only, or Hold
with NO_CORE at the next tick where CC0 has failed (R301, R326). -/
def execMatrixFault (s : State) : Out :=
  if !limpable s.unit.state then .next s else
  let s1 := s.alertBit 3
  if s.cores.failed.getLsbD 0 then .next { s1 with unit := { s1.unit with noCore := true, matrixOff := true } }
  else if tickState s.unit.state then .next { s1 with unit := { s1.unit with limpDue := true } }
  else .next s1.enterLimp

end Sys2Proof.Machine
end

