-- ==== Sys2Proof/Machine/Row.lean ====
section
/-! DEFINITION. The row: its replay requests (R62, R65), landings of inbound flume vectors (R23, R28, R31, R58, R343) and releases of the weirs
(R27, R28, R352). -/

namespace Sys2Proof.Machine

/-- REPLAY_REQUEST: accepted for the frame in progress, at most twice for one frame number (R62, R65). What
the row gives in the first cycle of a frame meets the state that the tick's step leaves (R53). -/
def execReplayRequest (frame : Frame) (s0 : State) : Out :=
  let s := s0.closeTick
  if !framesRun s.unit.state then .next s
  else if frame = s.clock.frame ∧ s.unit.attempt.toNat < 2 then .next { s with unit := { s.unit with replayReq := true } }
  else
    let s1 : State := if frame = s.clock.frame then { s with unit := { s.unit with thirdReq := true } } else s
    .next ((s1.count .replayErr 1).alertBit 0)

/-- The stream's landings and releases are in force: its opening tick found it Running, and it has not lost the frame (R58,
R90, R92). Those of the frame that is opened by the tick at which a Stop or a fault of the tick takes effect are not made
(DESIGN CHOICE, log entry 62). -/
def State.scheduled (s : State) (p : StreamId) : Bool :=
  issuing s.unit.state && (s.stream p).opened && (decide ((s.stream p).ctx.state = .running) || (s.stream p).done.isSome)

/-- A stream's entries of a schedule, in their order. -/
def scheduleOf (l : List SchedEntry) (p : StreamId) : List SchedEntry := l.filter (fun e => e.stream == p)

/-- The word of the landing entry that the present cycle reads, where there is one (R317, R345). -/
def State.landWords (s : State) (p : StreamId) : List Nat :=
  (((scheduleOf s.image.bank.landings p).findIdx? (fun e => e.offset == s.clock.offset)).map (scheduleWord p)).toList

/-- The word of the release entry of an offset, and that of the entry whose source a weir reads in this cycle, 3 c before the release; the
release entries follow the landing entries (R27, R317, R345). -/
def State.releaseWordsAt (s : State) (p : StreamId) (offset : Nat) : List Nat :=
  (((scheduleOf s.image.bank.releases p).findIdx? (fun e => e.offset == offset)).map (fun i =>
    scheduleWord p ((scheduleOf s.image.bank.landings p).length + i))).toList
def State.releaseWords (s : State) (p : StreamId) : List Nat := s.releaseWordsAt p (s.clock.offset + 3)

/-- A read of a schedule's words: one that is uncorrectable stops the stream for the frame, and Recovery follows (R345, R351). -/
def State.readSchedule (s : State) (p : StreamId) (ws : List Nat) : State :=
  if s.copyBad ws then s.copyFault p else s.readCorrect .imageCopies ws

/-- A landing that a vector offered in the present cycle meets. An entry that reads uncorrectable names none (DESIGN CHOICE, log entry
80). -/
def State.landingNow (s : State) (p : StreamId) : Option (BitVec 8) :=
  if s.scheduled p && !s.copyBad (s.landWords p) then
    (s.image.bank.landings.find? (fun e => e.stream == p && e.offset == s.clock.offset)).map (·.reg) else none

/-- Fields of a sideband (R29). -/
def sbValid (v : BitVec 32) : Bool := bitOf v.toNat 31
def sbPoison (v : BitVec 32) : Bool := bitOf v.toNat 30
def sbPair (v : BitVec 32) : Nat := field v.toNat 27 3 + 8 * field v.toNat 26 1
def sbCons (v : BitVec 32) : BitVec 16 := BitVec.ofNat 16 v.toNat

/-- What a flume offers: where the command names none, VALID 0 and zeros. -/
def flumeOf (c : Configuration) (vs : List FlumeIn) (f : Nat) : BitVec 32 × List Byte :=
  match vs.find? (fun v => v.flume.toNat == f) with
  | some v => (v.sb, v.data)
  | none => (0, List.replicate (flumeBytes c) 0)

/-- The flumes of a partition (R83). -/
def State.flumesOf (s : State) (p : StreamId) : List Nat := (List.range 16).filter (fun f => f % s.parts == p.toNat)

/-- One valid, unpoisoned vector whose half does not match: ROW_SLIP in the next cycle, PSI_SLIPCNT and PSI_CONSINCNT
(R343). -/
def State.consIn (s : State) (p : StreamId) : State :=
  ((s.count .slip 1).count .consIn 1).later p 1 .slip

/-- The share of a landing from the bytes of the partition's flumes (R23, R82). -/
def State.landShare (s : State) (p : StreamId) (vs : List FlumeIn) : Mem :=
  (s.flumesOf p).flatMap (fun f => ((flumeOf s.cfg vs f).2).mapIdx (fun b x => (s.flumeLane f b, x)))

/-- A landing: the declared pair governs and a differing one is counted (R31); a vector that is not valid, is poisoned or
fails its check poisons the share, with origin upstream (R28, R343). -/
def State.landVector (s : State) (p : StreamId) (r : BitVec 8) (vs : List FlumeIn) : State :=
  let ins := (s.flumesOf p).map (fun f => flumeOf s.cfg vs f)
  let pair := s.recAt p 6 1 % 16
  let odd := ins.countP (fun v => sbValid v.1 && sbPair v.1 != pair)
  let bad := ins.countP (fun v => sbValid v.1 && !sbPoison v.1 && consHalf s.clock.offset v.2 != sbCons v.1)
  let poisoned := ins.any (fun v => !sbValid v.1 || sbPoison v.1) || decide (0 < bad)
  let s1 := s.count .flumeErr odd
  let s2 := (List.range bad).foldl (fun s _ => s.consIn p) s1
  s2.later p 4 (.landing r (s.landShare p vs) (if poisoned then some .upstream else none))

/-- A flume whose partition has no landing in the cycle: a valid, unpoisoned vector is ignored and counted (R58). -/
def State.strayVector (s : State) (vs : List FlumeIn) (f : Nat) : State :=
  let sb := (flumeOf s.cfg vs f).1
  if sbValid sb && !sbPoison sb then s.count .flumeErr 1 else s

/-- INBOUND_VECTOR: the flumes as sampled in this cycle, after the step of its tick (R28, R31, R53, R58, R343). -/
def execInboundVector (vs : List FlumeIn) (s0 : State) : Out :=
  if vs.any (fun v => v.data.length != flumeBytes s0.cfg) then .fault .malformedOperand else
  let s := s0.closeTick
  if !framesRun s.unit.state then .next s else
  .next (((allStreams.filter (fun p => decide (p.toNat < s.parts))).foldl (fun s p =>
    let t := if s.scheduled p then s.readSchedule p (s.landWords p) else s
    match s.landingNow p with
    | some r => t.landVector p r vs
    | none => (s.flumesOf p).foldl (fun s f => s.strayVector vs f) t) s))

/-- The release whose source a weir reads in this cycle, 3 c before the release (R27); an entry that reads uncorrectable names none (DESIGN
CHOICE, log entry 80). -/
def State.releaseNow (s : State) (p : StreamId) : Option (BitVec 8) :=
  if s.copyBad (s.releaseWords p) then none else
  (s.image.bank.releases.find? (fun e => e.stream == p && e.offset == s.clock.offset + 3)).map (·.reg)

/-- A weir's read: the register's contents; poison and ROW_SLIP where a directed write has not arrived or the mark's origin
is internal; poison alone where it is upstream (R27, R28). A word that reads uncorrectable raises ECC_UNCORR in the cycle of the
read (R115, R345), and the release is made as of a register that is not ready (DEDUCED, log entry 67). -/
def State.weirRead (s : State) (p : StreamId) (r : BitVec 8) : State :=
  let bad := s.tileBad p r
  let ready := decide (s.directedWrites p r s.clock.offset ≤ (s.stream p).arrived.count r) && !bad
  let mark := s.tileMark p r
  let s1 := (s.readTile p r).later p 3 (.release (s.share p r) (!ready || mark.isSome) (!ready || mark == some .internal))
  if bad then s1.raise p faultECC r.toNat 0 (s1.pc p) else s1

/-- A release in Recovery: VALID 1, POISON 1, zero data with CONS 0, ROW_SLIP, PSI_RECOVSLIPCNT (R352). -/
def State.weirRecovery (s : State) (p : StreamId) : State :=
  let pair := s.recAt p 6 1
  let tag := s.recAt p 4 2
  let sb := s.pins.sb.mapIdx (fun i v => if i % s.parts = p.toNat then sideband true true pair tag 0 else v)
  let data := (s.flumesOf p).foldl (fun m f => zeroRange m (f * 512) 512) s.pins.data
  ((({ s with pins := { s.pins with data := data, sb := sb, slip := true } } : State).count .recovSlip 1).event 0x0D p.toNat 1).event
    0x0E p.toNat 1

/-- In Recovery a word of the internal copies reads uncorrectable: IMAGE_COPY joins the causes shown, and the bank is to be rewritten
(R345, R351). -/
def State.recoveryCopy (s : State) : State :=
  { s with unit := { s.unit with copyBad := true }, recov := { s.recov with cause := s.recov.cause ||| causeImageCopy } }

/-- WEIR_RELEASE: the weir of a stream reads the source of the release 3 c ahead, after the step of its tick (R27, R53). In Recovery it releases at the
scheduled cycle itself (R352); an entry that reads uncorrectable there names none, and the bank is rewritten (R351; DESIGN CHOICE, log
entry 80). -/
def execWeirRelease (p : StreamId) (s0 : State) : Out :=
  let s := s0.closeTick
  if s.unit.state = .recovery then
    let ws := s.releaseWordsAt p s.clock.offset
    if !(s.image.bank.releases.any (fun e => e.stream == p && e.offset == s.clock.offset) && s.image.bank.present p) then .next s
    else if s.copyBad ws then .next s.recoveryCopy
    else .next ((s.readCorrect .imageCopies ws).weirRecovery p)
  else if !s.scheduled p then .next s else
  let t := s.readSchedule p (s.releaseWords p)
  match s.releaseNow p with
  | some r => .next (t.weirRead p r)
  | none => .next t

end Sys2Proof.Machine
end

