-- ==== Sys2Proof/Machine/Select.lean ====
section
/-! DEFINITION. The stream instructions SEPR, SKIM, SKP, COMB and DRAIN (R130 to R133). -/

namespace Sys2Proof.Machine

/-- SEPR (R130, R238): the key range, then the output range is checked; the counting pass begins. -/
def State.seprEffect (s : State) (p : StreamId) (f : SeprF) : State :=
  match s.rangeBad p f.kreg.toNat ((32 * f.koff.toNat : Nat) : Int) (2 * seprN f) false with
  | some a => s.raise p faultPROT a 1 (s.pc p)
  | none =>
    match s.rangeBad p f.oreg.toNat ((32 * f.ooff.toNat : Nat) : Int) (seprArea f) true with
    | some a => s.raise p faultPROT a 1 (s.pc p)
    | none =>
      let fin := s.clock.offset + seprOcc f
      let s1 := s.modStream p (fun x => { x with sepEnd := fin, poolReadEnd := fin })
      (s1.store p (s1.seprStores f 0)).seprCycle p f 0 (s.pc p) [] none

def execSepr (p : StreamId) (e : LoopEnd) (f : SeprF) (s : State) : Out :=
  .next ((s.turn p).issue p e (.sepr f) (fun s => s.seprEffect p f))

/-- SKIM (R131, R244): the row range at its loop-indexed address is checked; the row is read. -/
def State.skimEffect (s : State) (p : StreamId) (f : SkimF) : State :=
  let a : Int := 32 * ((f.off.toNat : Int) + f.stride.toInt * loopIndex (s.stream p).ctx.loop f.ilvl f.idxen)
  let n := fmtE f.fmt * skimM f
  match s.rangeBad p f.region.toNat a n false with
  | some b => s.raise p faultPROT b 1 (s.pc p)
  | none =>
    let fin := s.clock.offset + skimOcc f
    let s1 := s.modStream p (fun x => { x with skimEnd := fin, poolReadEnd := fin })
    ((slabDests s1.lanes (.skim f) 0).foldl (fun s r => s.dropLatch p r) s1).skimCycle p f a.toNat 0 (s.pc p) [] none

def execSkim (p : StreamId) (e : LoopEnd) (f : SkimF) (s : State) : Out :=
  .next ((s.turn p).issue p e (.skim f) (fun s => s.skimEffect p f))

/-- The summands of a SKP or COMB with their local wells (R132, R251). -/
def State.summands (s : State) (p : StreamId) (f : CombF) : List (Nat × Product) :=
  let e := fmtE f.fmt
  let src := s.share p f.src
  let two := fun (r : BitVec 8) (a : Nat) => ((s.share p r).getD (a * e) 0).toNat + 256 * ((s.share p (regAdd r 1)).getD (a * e) 0).toNat
  (List.range (f.n.toNat + 1)).map (fun a =>
    (two f.widx a, product (decodeNum (fmtId f.fmt) (elemAt src e a)) (decodeNum 2 (two f.gate a))))

/-- The first summand that faults, with its fault and local well (R258): a well that the stream does not have, or one
that reads uncorrectable. Of two that fault in one occupancy cycle the lower-numbered summand's fault is raised (DESIGN CHOICE,
log entry 57). -/
def State.basinFault (s : State) (p : StreamId) (ws : List Nat) : Option (Nat × BitVec 8 × Nat) :=
  (List.range ws.length).findSome? (fun a =>
    let w := ws.getD a 0
    if s.wellCount p ≤ w then some (a, faultPROT, w)
    else if s.wellBad p w then some (a, faultECC, w) else none)

/-- SKP and COMB: every summand's SRC, GATE and WIDX bytes are taken in the issue cycle, one of the cycles t to t + 3 in which R108 has
registers read (DESIGN CHOICE against the occupancy cycles of R250, log entry 43). A poisoned source marks the stream's wells and nothing else happens (R259); a fault comes in the
occupancy cycle that reads its summand (R258); else the step is on its way (R250). -/
def State.basinEffect (s : State) (p : StreamId) (op : Op) (f : CombF) (tail : Nat) (step : List (Nat × Product) → Arrival) : State :=
  let occ := basinOcc f.n
  let s1 := (s.modStream p (fun x => { x with basinEnd := s.clock.offset + occ, basinReady := s.clock.offset + occ + tail })).event
    0x0C p.toNat (f.n.toNat + 1)
  let mark := joinMarks ((slabSources op 0).map (s1.tileMark p))
  let s2 := (slabSources op 0).foldl (fun s r => s.readTile p r) s1
  if mark.isSome then
    ({ s2 with basin := { s2.basin with marks := markAdd s2.basin.marks p.toNat mark } } : State).suppress p 1
  else match s1.slabBad p op with
    | some (_, r) => s1.raise p faultECC r 0 (s1.pc p)
    | none =>
      let ps := s2.summands p f
      match s2.basinFault p (ps.map (·.1)) with
      | some (a, code, w) => s2.faultAt p (a / 256) code w (if code = faultPROT then 2 else 0)
      | none => s2.later p (occ + tail) (step ps)

def execSkp (p : StreamId) (e : LoopEnd) (f : CombF) (s : State) : Out :=
  .next ((s.turn p).issue p e (.skp f) (fun s => s.basinEffect p (.skp f) f 6 .skp))

def execComb (p : StreamId) (e : LoopEnd) (f : CombF) (s : State) : Out :=
  .next ((s.turn p).issue p e (.comb f) (fun s => s.basinEffect p (.comb f) f 8 .comb))

/-- DRAIN (R133, R250, R258): PROT where the stream lacks a well; else its occupancy begins. -/
def State.drainEffect (s : State) (p : StreamId) (f : DrainF) : State :=
  let n := f.n.toNat + 1
  let w0 := f.woff.toNat
  if s.wellCount p < w0 + n then s.raise p faultPROT (w0 + n - 1) 2 (s.pc p) else
  ((s.modStream p (fun x => { x with basinEnd := s.clock.offset + basinOcc f.n })).dropLatch p f.dst).drainCycle p f 0 (s.pc p) []

def execDrain (p : StreamId) (e : LoopEnd) (f : DrainF) (s : State) : Out :=
  .next ((s.turn p).issue p e (.drain f) (fun s => s.drainEffect p f))

end Sys2Proof.Machine
end

