-- ==== Sys2Proof/Machine/Dispatch.lean ====
section
/-! DEFINITION. The meaning of every command: one direct call for each row of the opcode table. -/

namespace Sys2Proof.Machine

/-- The effect of a command on everything but the queue. -/
def exec (i : Instr) (s : State) : Host.Outcome State Fault Refusal :=
  match i with
  | .nop p e f => Sys2Proof.Machine.execNop p e f s
  | .halt p e => Sys2Proof.Machine.execHalt p e s
  | .perm p e f => Sys2Proof.Machine.execPerm p e f s
  | .pbpc p e f => Sys2Proof.Machine.execPbpc p e f s
  | .ldt p e f => Sys2Proof.Machine.execLdt p e f s
  | .stt p e f => Sys2Proof.Machine.execStt p e f s
  | .gath p e f => Sys2Proof.Machine.execGath p e f s
  | .scat p e f => Sys2Proof.Machine.execScat p e f s
  | .bcst p e f => Sys2Proof.Machine.execBcst p e f s
  | .conv p e f => Sys2Proof.Machine.execConv p e f s
  | .pack p e f => Sys2Proof.Machine.execPack p e f s
  | .unpk p e f => Sys2Proof.Machine.execUnpk p e f s
  | .sepr p e f => Sys2Proof.Machine.execSepr p e f s
  | .skim p e f => Sys2Proof.Machine.execSkim p e f s
  | .skp p e f => Sys2Proof.Machine.execSkp p e f s
  | .comb p e f => Sys2Proof.Machine.execComb p e f s
  | .drain p e f => Sys2Proof.Machine.execDrain p e f s
  | .twait p e f => Sys2Proof.Machine.execTwait p e f s
  | .tsig p e f => Sys2Proof.Machine.execTsig p e f s
  | .tadd p e f => Sys2Proof.Machine.execTadd p e f s
  | .csend p e f => Sys2Proof.Machine.execCsend p e f s
  | .crecv p e f => Sys2Proof.Machine.execCrecv p e f s
  | .copen p e f => Sys2Proof.Machine.execCopen p e f s
  | .cclos p e ep => Sys2Proof.Machine.execCclos p e ep s
  | .fwait p e f => Sys2Proof.Machine.execFwait p e f s
  | .alarm p e f => Sys2Proof.Machine.execAlarm p e f s
  | .chk p e f => Sys2Proof.Machine.execChk p e f s
  | .lfen p e scope => Sys2Proof.Machine.execLfen p e scope s
  | .waitTimeout p => Sys2Proof.Machine.execWaitTimeout p s
  | .setterIntake p => Sys2Proof.Machine.execSetterIntake p s
  | .setterComputationEnd p => Sys2Proof.Machine.execSetterComputationEnd p s
  | .completionWordWrite => Sys2Proof.Machine.execCompletionWordWrite s
  | .rowTick frame => Sys2Proof.Machine.execRowTick frame s
  | .controlCrossingRelease => Sys2Proof.Machine.execControlCrossingRelease s
  | .onLineExchange => Sys2Proof.Machine.execOnLineExchange s
  | .frameTimerFire n => Sys2Proof.Machine.execFrameTimerFire n s
  | .replayRequest frame => Sys2Proof.Machine.execReplayRequest frame s
  | .inboundVector vs => Sys2Proof.Machine.execInboundVector vs s
  | .weirRelease p => Sys2Proof.Machine.execWeirRelease p s
  | .sluiceCheckPass p write => Sys2Proof.Machine.execSluiceCheckPass p write s
  | .sluiceRequestPass p write => Sys2Proof.Machine.execSluiceRequestPass p write s
  | .memoryReadRequest port => Sys2Proof.Machine.execMemoryReadRequest port s
  | .memoryWriteRequest port => Sys2Proof.Machine.execMemoryWriteRequest port s
  | .memoryReadResponse port tag stat data => Sys2Proof.Machine.execMemoryReadResponse port tag stat data s
  | .memoryWriteResponse port tag stat => Sys2Proof.Machine.execMemoryWriteResponse port tag stat s
  | .poolWriteDrain set => Sys2Proof.Machine.execPoolWriteDrain set s
  | .churnRekeyStep => Sys2Proof.Machine.execChurnRekeyStep s
  | .patrol store word => Sys2Proof.Machine.execPatrol store word s
  | .load m => Sys2Proof.Machine.execLoad m s
  | .loadComplete => Sys2Proof.Machine.execLoadComplete s
  | .arm m => Sys2Proof.Machine.execArm m s
  | .release m => Sys2Proof.Machine.execRelease m s
  | .initialisationComplete => Sys2Proof.Machine.execInitialisationComplete s
  | .exchange m frame => Sys2Proof.Machine.execExchange m frame s
  | .stagingComplete => Sys2Proof.Machine.execStagingComplete s
  | .imageDrain m frame => Sys2Proof.Machine.execImageDrain m frame s
  | .unload m frame => Sys2Proof.Machine.execUnload m frame s
  | .drainComplete => Sys2Proof.Machine.execDrainComplete s
  | .abort m => Sys2Proof.Machine.execAbort m s
  | .overlayPageIn m overlay frame => Sys2Proof.Machine.execOverlayPageIn m overlay frame s
  | .overlayChecked => Sys2Proof.Machine.execOverlayChecked s
  | .start m p frame => Sys2Proof.Machine.execStart m p frame s
  | .stop m p => Sys2Proof.Machine.execStop m p s
  | .clear m p => Sys2Proof.Machine.execClear m p s
  | .scrubStart m list => Sys2Proof.Machine.execScrubStart m list s
  | .scrubCancel m => Sys2Proof.Machine.execScrubCancel m s
  | .scrubComplete => Sys2Proof.Machine.execScrubComplete s
  | .switch m tenant => Sys2Proof.Machine.execSwitch m tenant s
  | .storesCleared => Sys2Proof.Machine.execStoresCleared s
  | .attest m => Sys2Proof.Machine.execAttest m s
  | .deliver m => Sys2Proof.Machine.execDeliver m s
  | .sessionExpiry => Sys2Proof.Machine.execSessionExpiry s
  | .securityResponse status data => Sys2Proof.Machine.execSecurityResponse status data s
  | .securityFixedTime => Sys2Proof.Machine.execSecurityFixedTime s
  | .resume m => Sys2Proof.Machine.execResume m s
  | .recoveryRequest m => Sys2Proof.Machine.execRecoveryRequest m s
  | .resumeTimeout => Sys2Proof.Machine.execResumeTimeout s
  | .probeRun m => Sys2Proof.Machine.execProbeRun m s
  | .probeResult => Sys2Proof.Machine.execProbeResult s
  | .sxposWrite m value => Sys2Proof.Machine.execSxposWrite m value s
  | .reformComplete => Sys2Proof.Machine.execReformComplete s
  | .laneSpareAssign m word value => Sys2Proof.Machine.execLaneSpareAssign m word value s
  | .update m slot => Sys2Proof.Machine.execUpdate m slot s
  | .repair m set slot => Sys2Proof.Machine.execRepair m set slot s
  | .resolve m set copy => Sys2Proof.Machine.execResolve m set copy s
  | .permspare m => Sys2Proof.Machine.execPermspare m s
  | .fusewrite m word value => Sys2Proof.Machine.execFusewrite m word value s
  | .kick m mask => Sys2Proof.Machine.execKick m mask s
  | .watchdogExpiry c => Sys2Proof.Machine.execWatchdogExpiry c s
  | .remap m => Sys2Proof.Machine.execRemap m s
  | .perfctlWrite m word wide data => Sys2Proof.Machine.execPerfctlWrite m word wide data s
  | .registerWrite m offset wide data => Sys2Proof.Machine.execRegisterWrite m offset wide data s
  | .registerCaptureRead m offset wide => Sys2Proof.Machine.execRegisterCaptureRead m offset wide s
  | .settingStoreWrite m addr data => Sys2Proof.Machine.execSettingStoreWrite m addr data s
  | .poolWindowAccess m write addr size data => Sys2Proof.Machine.execPoolWindowAccess m write addr size data s
  | .tallyAdd m n v => Sys2Proof.Machine.execTallyAdd m n v s
  | .sendAliasWrite m e data => Sys2Proof.Machine.execSendAliasWrite m e data s
  | .receiveAliasRead m e => Sys2Proof.Machine.execReceiveAliasRead m e s
  | .timerWrite m n at8 data => Sys2Proof.Machine.execTimerWrite m n at8 data s
  | .endpointRecordWrite m e at5 data => Sys2Proof.Machine.execEndpointRecordWrite m e at5 data s
  | .detectorRecordWrite m n at4 data => Sys2Proof.Machine.execDetectorRecordWrite m n at4 data s
  | .ledgerWordWrite m offset data => Sys2Proof.Machine.execLedgerWordWrite m offset data s
  | .freeze => Sys2Proof.Machine.execFreeze s
  | .freezeReadout m addr size => Sys2Proof.Machine.execFreezeReadout m addr size s
  | .idcode => Sys2Proof.Machine.execIdcode s
  | .extest => Sys2Proof.Machine.execExtest s
  | .samplePreload => Sys2Proof.Machine.execSamplePreload s
  | .bypass => Sys2Proof.Machine.execBypass s
  | .fzstat => Sys2Proof.Machine.execFzstat s
  | .fzaddr value => Sys2Proof.Machine.execFzaddr value s
  | .fzdata => Sys2Proof.Machine.execFzdata s
  | .porN level => Sys2Proof.Machine.execPorN level s
  | .warmReq level => Sys2Proof.Machine.execWarmReq level s
  | .resetComplete => Sys2Proof.Machine.execResetComplete s
  | .powerRemoved => Sys2Proof.Machine.execPowerRemoved s
  | .retentionLoss => Sys2Proof.Machine.execRetentionLoss s
  | .domainStateChange d => Sys2Proof.Machine.execDomainStateChange d s
  | .pmOpAck => Sys2Proof.Machine.execPmOpAck s
  | .sensorReading id data => Sys2Proof.Machine.execSensorReading id data s
  | .policyPass => Sys2Proof.Machine.execPolicyPass s
  | .timebaseCheckpoint => Sys2Proof.Machine.execTimebaseCheckpoint s
  | .matrixFault => Sys2Proof.Machine.execMatrixFault s
  | .logRecordWrite => Sys2Proof.Machine.execLogRecordWrite s
  | .hostControlRequest m write addr size data => Sys2Proof.Machine.execHostControlRequest m write addr size data s
  | .bootComplete fw repairs trims => Sys2Proof.Machine.execBootComplete fw repairs trims s
  | .imageCopyRewrite => Sys2Proof.Machine.execImageCopyRewrite s

end Sys2Proof.Machine
end

