-- ==== Sys2Proof/Laws/PerInstr.lean ====
section
/-! SUPPORT. Families of statements made for each command: `StreamForm`, that a stream instruction is exactly its stream, its
loop field and its operation. -/

namespace Sys2Proof

/-- The command of a stream that issues an operation. -/
def Instr.ofOp (s : StreamId) (e : LoopEnd) : Op → Instr
  | .nop f => .nop s e f
  | .halt => .halt s e
  | .perm f => .perm s e f
  | .pbpc f => .pbpc s e f
  | .ldt f => .ldt s e f
  | .stt f => .stt s e f
  | .gath f => .gath s e f
  | .scat f => .scat s e f
  | .bcst f => .bcst s e f
  | .conv f => .conv s e f
  | .pack f => .pack s e f
  | .unpk f => .unpk s e f
  | .sepr f => .sepr s e f
  | .skim f => .skim s e f
  | .skp f => .skp s e f
  | .comb f => .comb s e f
  | .drain f => .drain s e f
  | .twait f => .twait s e f
  | .tsig f => .tsig s e f
  | .tadd f => .tadd s e f
  | .csend f => .csend s e f
  | .crecv f => .crecv s e f
  | .copen f => .copen s e f
  | .cclos f => .cclos s e f
  | .fwait f => .fwait s e f
  | .alarm f => .alarm s e f
  | .chk f => .chk s e f
  | .lfen f => .lfen s e f

/-- A command that has a stream, a loop field and an operation is the one that these make. -/
def Laws.StreamForm.Statement (i : Instr) : Prop :=
  ∀ s e op, i.stream? = some (s, e, op) → Instr.ofOp s e op = i

theorem Laws.StreamForm.other {i : Instr} (h : i.stream? = none) : Laws.StreamForm.Statement i := by
  intro s e op g; rw [h] at g; cases g

theorem Laws.StreamForm.nop (s : StreamId) (e : LoopEnd) (f : NopF) : Laws.StreamForm.Statement (.nop s e f) := by rintro _ _ _ ⟨⟩; rfl
theorem Laws.StreamForm.halt (s : StreamId) (e : LoopEnd) : Laws.StreamForm.Statement (.halt s e) := by rintro _ _ _ ⟨⟩; rfl
theorem Laws.StreamForm.perm (s : StreamId) (e : LoopEnd) (f : PermF) : Laws.StreamForm.Statement (.perm s e f) := by rintro _ _ _ ⟨⟩; rfl
theorem Laws.StreamForm.pbpc (s : StreamId) (e : LoopEnd) (f : PbpcF) : Laws.StreamForm.Statement (.pbpc s e f) := by rintro _ _ _ ⟨⟩; rfl
theorem Laws.StreamForm.ldt (s : StreamId) (e : LoopEnd) (f : XferF) : Laws.StreamForm.Statement (.ldt s e f) := by rintro _ _ _ ⟨⟩; rfl
theorem Laws.StreamForm.stt (s : StreamId) (e : LoopEnd) (f : XferF) : Laws.StreamForm.Statement (.stt s e f) := by rintro _ _ _ ⟨⟩; rfl
theorem Laws.StreamForm.gath (s : StreamId) (e : LoopEnd) (f : SluiceF) : Laws.StreamForm.Statement (.gath s e f) := by rintro _ _ _ ⟨⟩; rfl
theorem Laws.StreamForm.scat (s : StreamId) (e : LoopEnd) (f : SluiceF) : Laws.StreamForm.Statement (.scat s e f) := by rintro _ _ _ ⟨⟩; rfl
theorem Laws.StreamForm.bcst (s : StreamId) (e : LoopEnd) (f : SluiceF) : Laws.StreamForm.Statement (.bcst s e f) := by rintro _ _ _ ⟨⟩; rfl
theorem Laws.StreamForm.conv (s : StreamId) (e : LoopEnd) (f : ConvF) : Laws.StreamForm.Statement (.conv s e f) := by rintro _ _ _ ⟨⟩; rfl
theorem Laws.StreamForm.pack (s : StreamId) (e : LoopEnd) (f : PackF) : Laws.StreamForm.Statement (.pack s e f) := by rintro _ _ _ ⟨⟩; rfl
theorem Laws.StreamForm.unpk (s : StreamId) (e : LoopEnd) (f : PackF) : Laws.StreamForm.Statement (.unpk s e f) := by rintro _ _ _ ⟨⟩; rfl
theorem Laws.StreamForm.sepr (s : StreamId) (e : LoopEnd) (f : SeprF) : Laws.StreamForm.Statement (.sepr s e f) := by rintro _ _ _ ⟨⟩; rfl
theorem Laws.StreamForm.skim (s : StreamId) (e : LoopEnd) (f : SkimF) : Laws.StreamForm.Statement (.skim s e f) := by rintro _ _ _ ⟨⟩; rfl
theorem Laws.StreamForm.skp (s : StreamId) (e : LoopEnd) (f : CombF) : Laws.StreamForm.Statement (.skp s e f) := by rintro _ _ _ ⟨⟩; rfl
theorem Laws.StreamForm.comb (s : StreamId) (e : LoopEnd) (f : CombF) : Laws.StreamForm.Statement (.comb s e f) := by rintro _ _ _ ⟨⟩; rfl
theorem Laws.StreamForm.drain (s : StreamId) (e : LoopEnd) (f : DrainF) : Laws.StreamForm.Statement (.drain s e f) := by rintro _ _ _ ⟨⟩; rfl
theorem Laws.StreamForm.twait (s : StreamId) (e : LoopEnd) (f : TwaitF) : Laws.StreamForm.Statement (.twait s e f) := by rintro _ _ _ ⟨⟩; rfl
theorem Laws.StreamForm.tsig (s : StreamId) (e : LoopEnd) (f : TsigF) : Laws.StreamForm.Statement (.tsig s e f) := by rintro _ _ _ ⟨⟩; rfl
theorem Laws.StreamForm.tadd (s : StreamId) (e : LoopEnd) (f : TaddF) : Laws.StreamForm.Statement (.tadd s e f) := by rintro _ _ _ ⟨⟩; rfl
theorem Laws.StreamForm.csend (s : StreamId) (e : LoopEnd) (f : CsendF) : Laws.StreamForm.Statement (.csend s e f) := by rintro _ _ _ ⟨⟩; rfl
theorem Laws.StreamForm.crecv (s : StreamId) (e : LoopEnd) (f : CrecvF) : Laws.StreamForm.Statement (.crecv s e f) := by rintro _ _ _ ⟨⟩; rfl
theorem Laws.StreamForm.copen (s : StreamId) (e : LoopEnd) (f : CopenF) : Laws.StreamForm.Statement (.copen s e f) := by rintro _ _ _ ⟨⟩; rfl
theorem Laws.StreamForm.cclos (s : StreamId) (e : LoopEnd) (ep : BitVec 12) : Laws.StreamForm.Statement (.cclos s e ep) := by rintro _ _ _ ⟨⟩; rfl
theorem Laws.StreamForm.fwait (s : StreamId) (e : LoopEnd) (f : FwaitF) : Laws.StreamForm.Statement (.fwait s e f) := by rintro _ _ _ ⟨⟩; rfl
theorem Laws.StreamForm.alarm (s : StreamId) (e : LoopEnd) (f : AlarmF) : Laws.StreamForm.Statement (.alarm s e f) := by rintro _ _ _ ⟨⟩; rfl
theorem Laws.StreamForm.chk (s : StreamId) (e : LoopEnd) (f : ChkF) : Laws.StreamForm.Statement (.chk s e f) := by rintro _ _ _ ⟨⟩; rfl
theorem Laws.StreamForm.lfen (s : StreamId) (e : LoopEnd) (scope : BitVec 3) : Laws.StreamForm.Statement (.lfen s e scope) := by rintro _ _ _ ⟨⟩; rfl
theorem Laws.StreamForm.waitTimeout (s : StreamId) : Laws.StreamForm.Statement (.waitTimeout s) := Laws.StreamForm.other rfl
theorem Laws.StreamForm.setterIntake (s : StreamId) : Laws.StreamForm.Statement (.setterIntake s) := Laws.StreamForm.other rfl
theorem Laws.StreamForm.setterComputationEnd (s : StreamId) : Laws.StreamForm.Statement (.setterComputationEnd s) := Laws.StreamForm.other rfl
theorem Laws.StreamForm.completionWordWrite : Laws.StreamForm.Statement .completionWordWrite := Laws.StreamForm.other rfl
theorem Laws.StreamForm.rowTick (frame : Frame) : Laws.StreamForm.Statement (.rowTick frame) := Laws.StreamForm.other rfl
theorem Laws.StreamForm.controlCrossingRelease : Laws.StreamForm.Statement .controlCrossingRelease := Laws.StreamForm.other rfl
theorem Laws.StreamForm.onLineExchange : Laws.StreamForm.Statement .onLineExchange := Laws.StreamForm.other rfl
theorem Laws.StreamForm.frameTimerFire (n : BitVec 10) : Laws.StreamForm.Statement (.frameTimerFire n) := Laws.StreamForm.other rfl
theorem Laws.StreamForm.replayRequest (frame : Frame) : Laws.StreamForm.Statement (.replayRequest frame) := Laws.StreamForm.other rfl
theorem Laws.StreamForm.inboundVector (vs : List FlumeIn) : Laws.StreamForm.Statement (.inboundVector vs) := Laws.StreamForm.other rfl
theorem Laws.StreamForm.weirRelease (s : StreamId) : Laws.StreamForm.Statement (.weirRelease s) := Laws.StreamForm.other rfl
theorem Laws.StreamForm.sluiceCheckPass (s : StreamId) (write : Bool) : Laws.StreamForm.Statement (.sluiceCheckPass s write) := Laws.StreamForm.other rfl
theorem Laws.StreamForm.sluiceRequestPass (s : StreamId) (write : Bool) : Laws.StreamForm.Statement (.sluiceRequestPass s write) := Laws.StreamForm.other rfl
theorem Laws.StreamForm.memoryReadRequest (port : BitVec 3) : Laws.StreamForm.Statement (.memoryReadRequest port) := Laws.StreamForm.other rfl
theorem Laws.StreamForm.memoryWriteRequest (port : BitVec 3) : Laws.StreamForm.Statement (.memoryWriteRequest port) := Laws.StreamForm.other rfl
theorem Laws.StreamForm.memoryReadResponse (port : BitVec 3) (tag : BitVec 10) (stat : BitVec 2) (data : List Byte) : Laws.StreamForm.Statement (.memoryReadResponse port tag stat data) := Laws.StreamForm.other rfl
theorem Laws.StreamForm.memoryWriteResponse (port : BitVec 3) (tag : BitVec 10) (stat : BitVec 2) : Laws.StreamForm.Statement (.memoryWriteResponse port tag stat) := Laws.StreamForm.other rfl
theorem Laws.StreamForm.poolWriteDrain (set : StreamId) : Laws.StreamForm.Statement (.poolWriteDrain set) := Laws.StreamForm.other rfl
theorem Laws.StreamForm.churnRekeyStep : Laws.StreamForm.Statement .churnRekeyStep := Laws.StreamForm.other rfl
theorem Laws.StreamForm.patrol (store : Store) (word : Nat) : Laws.StreamForm.Statement (.patrol store word) := Laws.StreamForm.other rfl
theorem Laws.StreamForm.load (m : Master) : Laws.StreamForm.Statement (.load m) := Laws.StreamForm.other rfl
theorem Laws.StreamForm.loadComplete : Laws.StreamForm.Statement .loadComplete := Laws.StreamForm.other rfl
theorem Laws.StreamForm.arm (m : Master) : Laws.StreamForm.Statement (.arm m) := Laws.StreamForm.other rfl
theorem Laws.StreamForm.release (m : Master) : Laws.StreamForm.Statement (.release m) := Laws.StreamForm.other rfl
theorem Laws.StreamForm.initialisationComplete : Laws.StreamForm.Statement .initialisationComplete := Laws.StreamForm.other rfl
theorem Laws.StreamForm.exchange (m : Master) (frame : Frame) : Laws.StreamForm.Statement (.exchange m frame) := Laws.StreamForm.other rfl
theorem Laws.StreamForm.stagingComplete : Laws.StreamForm.Statement .stagingComplete := Laws.StreamForm.other rfl
theorem Laws.StreamForm.imageDrain (m : Master) (frame : Frame) : Laws.StreamForm.Statement (.imageDrain m frame) := Laws.StreamForm.other rfl
theorem Laws.StreamForm.unload (m : Master) (frame : Frame) : Laws.StreamForm.Statement (.unload m frame) := Laws.StreamForm.other rfl
theorem Laws.StreamForm.drainComplete : Laws.StreamForm.Statement .drainComplete := Laws.StreamForm.other rfl
theorem Laws.StreamForm.abort (m : Master) : Laws.StreamForm.Statement (.abort m) := Laws.StreamForm.other rfl
theorem Laws.StreamForm.overlayPageIn (m : Master) (overlay : BitVec 8) (frame : Frame) : Laws.StreamForm.Statement (.overlayPageIn m overlay frame) := Laws.StreamForm.other rfl
theorem Laws.StreamForm.overlayChecked : Laws.StreamForm.Statement .overlayChecked := Laws.StreamForm.other rfl
theorem Laws.StreamForm.start (m : Master) (s : StreamId) (frame : Frame) : Laws.StreamForm.Statement (.start m s frame) := Laws.StreamForm.other rfl
theorem Laws.StreamForm.stop (m : Master) (s : StreamId) : Laws.StreamForm.Statement (.stop m s) := Laws.StreamForm.other rfl
theorem Laws.StreamForm.clear (m : Master) (s : StreamId) : Laws.StreamForm.Statement (.clear m s) := Laws.StreamForm.other rfl
theorem Laws.StreamForm.scrubStart (m : Master) (list : BitVec 22) : Laws.StreamForm.Statement (.scrubStart m list) := Laws.StreamForm.other rfl
theorem Laws.StreamForm.scrubCancel (m : Master) : Laws.StreamForm.Statement (.scrubCancel m) := Laws.StreamForm.other rfl
theorem Laws.StreamForm.scrubComplete : Laws.StreamForm.Statement .scrubComplete := Laws.StreamForm.other rfl
theorem Laws.StreamForm.switch (m : Master) (tenant : BitVec 32) : Laws.StreamForm.Statement (.switch m tenant) := Laws.StreamForm.other rfl
theorem Laws.StreamForm.storesCleared : Laws.StreamForm.Statement .storesCleared := Laws.StreamForm.other rfl
theorem Laws.StreamForm.attest (m : Master) : Laws.StreamForm.Statement (.attest m) := Laws.StreamForm.other rfl
theorem Laws.StreamForm.deliver (m : Master) : Laws.StreamForm.Statement (.deliver m) := Laws.StreamForm.other rfl
theorem Laws.StreamForm.sessionExpiry : Laws.StreamForm.Statement .sessionExpiry := Laws.StreamForm.other rfl
theorem Laws.StreamForm.securityResponse (status : BitVec 8) (data : List Byte) : Laws.StreamForm.Statement (.securityResponse status data) := Laws.StreamForm.other rfl
theorem Laws.StreamForm.securityFixedTime : Laws.StreamForm.Statement .securityFixedTime := Laws.StreamForm.other rfl
theorem Laws.StreamForm.resume (m : Master) : Laws.StreamForm.Statement (.resume m) := Laws.StreamForm.other rfl
theorem Laws.StreamForm.recoveryRequest (m : Master) : Laws.StreamForm.Statement (.recoveryRequest m) := Laws.StreamForm.other rfl
theorem Laws.StreamForm.resumeTimeout : Laws.StreamForm.Statement .resumeTimeout := Laws.StreamForm.other rfl
theorem Laws.StreamForm.probeRun (m : Master) : Laws.StreamForm.Statement (.probeRun m) := Laws.StreamForm.other rfl
theorem Laws.StreamForm.probeResult : Laws.StreamForm.Statement .probeResult := Laws.StreamForm.other rfl
theorem Laws.StreamForm.sxposWrite (m : Master) (value : BitVec 32) : Laws.StreamForm.Statement (.sxposWrite m value) := Laws.StreamForm.other rfl
theorem Laws.StreamForm.reformComplete : Laws.StreamForm.Statement .reformComplete := Laws.StreamForm.other rfl
theorem Laws.StreamForm.laneSpareAssign (m : Master) (word : BitVec 3) (value : BitVec 32) : Laws.StreamForm.Statement (.laneSpareAssign m word value) := Laws.StreamForm.other rfl
theorem Laws.StreamForm.update (m : Master) (slot : BitVec 8) : Laws.StreamForm.Statement (.update m slot) := Laws.StreamForm.other rfl
theorem Laws.StreamForm.repair (m : Master) (set : Bool) (slot : BitVec 8) : Laws.StreamForm.Statement (.repair m set slot) := Laws.StreamForm.other rfl
theorem Laws.StreamForm.resolve (m : Master) (set : Bool) (copy : BitVec 2) : Laws.StreamForm.Statement (.resolve m set copy) := Laws.StreamForm.other rfl
theorem Laws.StreamForm.permspare (m : Master) : Laws.StreamForm.Statement (.permspare m) := Laws.StreamForm.other rfl
theorem Laws.StreamForm.fusewrite (m : Master) (word : BitVec 8) (value : BitVec 32) : Laws.StreamForm.Statement (.fusewrite m word value) := Laws.StreamForm.other rfl
theorem Laws.StreamForm.kick (m : Master) (mask : BitVec 4) : Laws.StreamForm.Statement (.kick m mask) := Laws.StreamForm.other rfl
theorem Laws.StreamForm.watchdogExpiry (c : BitVec 2) : Laws.StreamForm.Statement (.watchdogExpiry c) := Laws.StreamForm.other rfl
theorem Laws.StreamForm.remap (m : Master) : Laws.StreamForm.Statement (.remap m) := Laws.StreamForm.other rfl
theorem Laws.StreamForm.perfctlWrite (m : Master) (word : BitVec 3) (wide : Bool) (data : BitVec 64) : Laws.StreamForm.Statement (.perfctlWrite m word wide data) := Laws.StreamForm.other rfl
theorem Laws.StreamForm.registerWrite (m : Master) (offset : BitVec 16) (wide : Bool) (data : BitVec 64) : Laws.StreamForm.Statement (.registerWrite m offset wide data) := Laws.StreamForm.other rfl
theorem Laws.StreamForm.registerCaptureRead (m : Master) (offset : BitVec 16) (wide : Bool) : Laws.StreamForm.Statement (.registerCaptureRead m offset wide) := Laws.StreamForm.other rfl
theorem Laws.StreamForm.settingStoreWrite (m : Master) (addr : BitVec 32) (data : List Byte) : Laws.StreamForm.Statement (.settingStoreWrite m addr data) := Laws.StreamForm.other rfl
theorem Laws.StreamForm.poolWindowAccess (m : Master) (write : Bool) (addr : BitVec 26) (size : BitVec 7) (data : List Byte) : Laws.StreamForm.Statement (.poolWindowAccess m write addr size data) := Laws.StreamForm.other rfl
theorem Laws.StreamForm.tallyAdd (m : Master) (n : BitVec 14) (v : BitVec 32) : Laws.StreamForm.Statement (.tallyAdd m n v) := Laws.StreamForm.other rfl
theorem Laws.StreamForm.sendAliasWrite (m : Master) (e : BitVec 12) (data : List Byte) : Laws.StreamForm.Statement (.sendAliasWrite m e data) := Laws.StreamForm.other rfl
theorem Laws.StreamForm.receiveAliasRead (m : Master) (e : BitVec 12) : Laws.StreamForm.Statement (.receiveAliasRead m e) := Laws.StreamForm.other rfl
theorem Laws.StreamForm.timerWrite (m : Master) (n : BitVec 10) (at8 : BitVec 4) (data : List Byte) : Laws.StreamForm.Statement (.timerWrite m n at8 data) := Laws.StreamForm.other rfl
theorem Laws.StreamForm.endpointRecordWrite (m : Master) (e : BitVec 12) (at5 : BitVec 5) (data : List Byte) : Laws.StreamForm.Statement (.endpointRecordWrite m e at5 data) := Laws.StreamForm.other rfl
theorem Laws.StreamForm.detectorRecordWrite (m : Master) (n : BitVec 8) (at4 : BitVec 4) (data : List Byte) : Laws.StreamForm.Statement (.detectorRecordWrite m n at4 data) := Laws.StreamForm.other rfl
theorem Laws.StreamForm.ledgerWordWrite (m : Master) (offset : BitVec 21) (data : List Byte) : Laws.StreamForm.Statement (.ledgerWordWrite m offset data) := Laws.StreamForm.other rfl
theorem Laws.StreamForm.freeze : Laws.StreamForm.Statement .freeze := Laws.StreamForm.other rfl
theorem Laws.StreamForm.freezeReadout (m : Master) (addr : BitVec 24) (size : BitVec 7) : Laws.StreamForm.Statement (.freezeReadout m addr size) := Laws.StreamForm.other rfl
theorem Laws.StreamForm.idcode : Laws.StreamForm.Statement .idcode := Laws.StreamForm.other rfl
theorem Laws.StreamForm.extest : Laws.StreamForm.Statement .extest := Laws.StreamForm.other rfl
theorem Laws.StreamForm.samplePreload : Laws.StreamForm.Statement .samplePreload := Laws.StreamForm.other rfl
theorem Laws.StreamForm.bypass : Laws.StreamForm.Statement .bypass := Laws.StreamForm.other rfl
theorem Laws.StreamForm.fzstat : Laws.StreamForm.Statement .fzstat := Laws.StreamForm.other rfl
theorem Laws.StreamForm.fzaddr (value : BitVec 32) : Laws.StreamForm.Statement (.fzaddr value) := Laws.StreamForm.other rfl
theorem Laws.StreamForm.fzdata : Laws.StreamForm.Statement .fzdata := Laws.StreamForm.other rfl
theorem Laws.StreamForm.porN (level : Bool) : Laws.StreamForm.Statement (.porN level) := Laws.StreamForm.other rfl
theorem Laws.StreamForm.warmReq (level : Bool) : Laws.StreamForm.Statement (.warmReq level) := Laws.StreamForm.other rfl
theorem Laws.StreamForm.resetComplete : Laws.StreamForm.Statement .resetComplete := Laws.StreamForm.other rfl
theorem Laws.StreamForm.powerRemoved : Laws.StreamForm.Statement .powerRemoved := Laws.StreamForm.other rfl
theorem Laws.StreamForm.retentionLoss : Laws.StreamForm.Statement .retentionLoss := Laws.StreamForm.other rfl
theorem Laws.StreamForm.domainStateChange (d : BitVec 5) : Laws.StreamForm.Statement (.domainStateChange d) := Laws.StreamForm.other rfl
theorem Laws.StreamForm.pmOpAck : Laws.StreamForm.Statement .pmOpAck := Laws.StreamForm.other rfl
theorem Laws.StreamForm.sensorReading (id : BitVec 6) (data : BitVec 16) : Laws.StreamForm.Statement (.sensorReading id data) := Laws.StreamForm.other rfl
theorem Laws.StreamForm.policyPass : Laws.StreamForm.Statement .policyPass := Laws.StreamForm.other rfl
theorem Laws.StreamForm.timebaseCheckpoint : Laws.StreamForm.Statement .timebaseCheckpoint := Laws.StreamForm.other rfl
theorem Laws.StreamForm.matrixFault : Laws.StreamForm.Statement .matrixFault := Laws.StreamForm.other rfl
theorem Laws.StreamForm.logRecordWrite : Laws.StreamForm.Statement .logRecordWrite := Laws.StreamForm.other rfl
theorem Laws.StreamForm.hostControlRequest (m : Master) (write : Bool) (addr : BitVec 32) (size : BitVec 7) (data : List Byte) : Laws.StreamForm.Statement (.hostControlRequest m write addr size data) := Laws.StreamForm.other rfl
theorem Laws.StreamForm.bootComplete (fw : BundleIn) (repairs : List (List Byte)) (trims : List (List Byte)) : Laws.StreamForm.Statement (.bootComplete fw repairs trims) := Laws.StreamForm.other rfl
theorem Laws.StreamForm.imageCopyRewrite : Laws.StreamForm.Statement .imageCopyRewrite := Laws.StreamForm.other rfl

end Sys2Proof
end

