-- ==== Sys2Proof/Safety.lean ====
section
/-! DEFINITION. What the claims call safe: every memory of bytes in its canonical form (keys strictly rising, no entry
that equals what an unlisted address reads as), and a step that goes on. -/

namespace Sys2Proof.Machine

/-- The memories of bytes in an internal bank of the image (R316, R328). -/
def Bank.mems (b : Bank) : List Mem := [b.streamTable, b.descs, b.memRegions, b.poolRegions]

/-- The memories of bytes of the machine. -/
def State.mems (s : State) : List Mem :=
  [s.tiles, s.pool.bytes, s.settings.bytes, s.ledger.bytes, s.image.active.bytes, s.image.shadow.bytes, s.cores.sram,
   s.sec.mailbox] ++ (s.image.bank.mems ++ s.image.staged.mems)

/-- Every memory of bytes is in canonical form. -/
def State.MemsWf (s : State) : Prop := ∀ m ∈ s.mems, Memory.wf m = true

/-- A step that goes on, with every memory in canonical form. -/
def SafeOutcome : Host.Outcome State Fault Refusal → Prop
  | .next t => t.MemsWf
  | _ => False

/-- A command's step goes on to a state. -/
def Goes (c : Instr) (s t : State) : Prop := exec c s = .next t

end Sys2Proof.Machine
end

