-- ==== Sys2Proof/Certificates/Slice0/Obligations.lean ====
section
/-! DEFINITION. The statements for the provers, and the words they are written in. -/

namespace Sys2Proof.Claims

open Sys2Proof.Machine

/-! ## The words of the statements about stream instructions -/

/-- The instruction at a stream's PC issues in the present cycle (R95), the words that its fetch and its tables read are correct
(R345), and it names no resource that the stream does not hold (R97): all in the state `s` which the step of the tick and the
Ledger accesses before the stream's own leave of `s0` (R53, R284). -/
structure Issues (s0 s : State) (p : StreamId) (e : LoopEnd) (op : Op) : Prop where
  turn   : s = s0.turn p
  may    : (s.reach p).mayIssue p e op = true
  fetch  : (s.reach p).copyBad ((s.reach p).fetchWords p) = false
  tables : (s.reach p).copyBad ((s.reach p).tableWords p op) = false
  holds  : (s.reach p).foreign p op = none

/-- The frame of a stream instruction: what no issue changes in its issue cycle. The streams, what is on its way, the collector, the
Pool's write buffers and Churn counts, the wells, the Ledger, and the words without correct code stand in each statement. -/
structure Base (s t : State) : Prop where
  cfg : t.cfg = s.cfg
  slices : t.slices = s.slices
  clock : t.clock = s.clock
  unit : t.unit = { s.unit with window := false }
  collectAt : t.collectAt = s.collectAt
  tiles : t.tiles = s.tiles
  tileUse : t.tileUse = s.tileUse
  tileMarks : t.tileMarks = s.tileMarks
  tilesWritten : t.tilesWritten = s.tilesWritten
  poolBytes : t.pool.bytes = s.pool.bytes
  poolHalf : t.pool.half = s.pool.half
  settings : t.settings = s.settings
  ports : t.ports = s.ports
  image : t.image = s.image
  crossing : t.crossing = s.crossing
  regs : { t.regs with counts := s.regs.counts } = s.regs
  cores : t.cores = s.cores
  repair : t.repair = s.repair
  recov : t.recov = s.recov
  log : t.log = s.log
  ao : t.ao = s.ao
  fuses : t.fuses = s.fuses
  sec : t.sec = s.sec
  scrub : t.scrub = s.scrub
  power : t.power = s.power
  perf : { t.perf with counts := s.perf.counts } = s.perf
  dbg : t.dbg = s.dbg
  pins : t.pins = s.pins
  inputs : t.inputs = s.inputs
  held : t.held = s.held
  defects : t.defects = s.defects
  pending : t.pending = s.pending

/-- The frame of an instruction that changes no stream but its own. -/
structure Quiet (p : StreamId) (s t : State) : Prop extends Base s t where
  others : ∀ q, q ≠ p → t.stream q = s.stream q

/-- The context after an instruction that left `c` behind, with the loop decision of R110; the latch bits aside (R109). -/
def Follows (e : LoopEnd) (c d : Ctx) : Prop := d = { (c.step e).1 with latch := d.latch }

/-- The Basin, the Ledger, the collector, the Pool and the words without correct code are as before. -/
structure Still (s t : State) : Prop where
  pool : t.pool = s.pool
  basin : t.basin = s.basin
  ledger : t.ledger = s.ledger
  collector : t.collector = s.collector
  eccBad : t.eccBad = s.eccBad
  eccOne : t.eccOne = s.eccOne
  eccCover : t.eccCover = s.eccCover

/-- The context that a NOP leaves before the sequencer goes on: with LB, its loop level opened (R110, R119). -/
def nopCtx (c : Ctx) (f : NopF) : Ctx :=
  if f.lb then { c with
    lstart := c.lstart.set f.llvl.toNat (c.pc + 1) (by have := f.llvl.isLt; omega)
    loop := c.loop.set f.llvl.toNat (if f.count = 0 then 0xFFFFFF else f.count) (by have := f.llvl.isLt; omega) } else c

/-- Nothing that was on its way is lost. -/
def Kept (s t : State) : Prop := ∀ a ∈ s.inflight, a ∈ t.inflight

/-- A command that only lets its stream's sequencer go on (R95, R110). -/
def Passes (c : Instr) (s0 s t : State) (p : StreamId) (e : LoopEnd) : Prop :=
  exec c s0 = .next t ∧ Quiet p s t ∧ Still s t ∧ t.inflight = s.inflight ∧ (t.stream p).next = s.clock.offset + 1 ∧
    (t.stream p).ctx = ((s.stream p).ctx.step e).1

/-- The slabs of an instruction begin (R107): slab 0 in the issue cycle, the others in the cycles after it, with the PC, the loop
counters and the frame of the issue and each with its own latency (R223, R227); the sequencer goes on. -/
def SlabsBegin (c : Instr) (s0 s t : State) (p : StreamId) (e : LoopEnd) (op : Op) : Prop :=
  exec c s0 = .next t ∧ Quiet p s t ∧ Kept s t ∧ t.basin = s.basin ∧ t.ledger = s.ledger ∧ t.collector = s.collector ∧
    (t.stream p).next = s.clock.offset + 1 ∧ Follows e (s.stream p).ctx (t.stream p).ctx ∧
    ∀ i, 1 ≤ i → i ≤ opRpt op →
      ⟨s.clock.offset + i, p, .slab op i (s.stream p).ctx.pc (s.stream p).ctx.loop s.clock.frame (s.latency p op i) (s.earlyWrites p op i) [] []⟩ ∈ t.inflight

/-- A result on its way to a register: readable `lat` cycles after the present one (R26, R113). -/
def Arrives (s t : State) (p : StreamId) (lat : Nat) (r : BitVec 8) (cells : Mem) (mark : Option Origin) : Prop :=
  ⟨s.clock.offset + lat, p, .tile r cells mark⟩ ∈ t.inflight

/-- The cursor that a Sluice instruction names (R179). -/
def sluiceCursor (c : Ctx) (f : SluiceF) : BitVec 64 := c.dpos[f.cur.toNat]'(by have := f.cur.isLt; omega)

/-- What a Sluice instruction leaves of the context before the sequencer goes on: its effect number is taken, and with CADV its cursor
advances by 512·COUNT modulo the stream's length (R117, R179). -/
def sluiceCtx (c : Ctx) (f : SluiceF) (p0 slen : Nat) : Ctx :=
  { c with effseq := c.effseq + 1
           dpos := if f.cadv then c.dpos.set f.cur.toNat (BitVec.ofNat 64 ((p0 + 512 * f.count.toNat) % slen))
                     (by have := f.cur.isLt; omega) else c.dpos }

/-- No edge detector reports an edge: MODE is off in each (R288). -/
def NoEdges (s : State) : Prop := ∀ d < 256, field (s.ledgerLe (detectorAt d) 4) 24 2 = 0

/-- No edge detector watches an endpoint record or a message slot (R285, R288). -/
def ChannelsUnwatched (s : State) : Prop := ∀ d < 256, s.ledgerLe (detectorAt d) 4 % 2 ^ 18 < 0x4000

/-- A record of a kind and a role with its fields enters the log queue at its place among those of its control cycle; where the queue
holds none of this control cycle, it is the newest, under the next SEQ (R309, R311). -/
def Logs (s t : State) (kind : Nat) (role : BitVec 2) (agent addr value aux code : Nat) : Prop :=
  let r : LogRec := { mkRec kind role agent addr value aux code with
    seq := (s.ao.bump 0).value 0, tb := s.clock.control, frame := s.clock.frame, at_ := s.clock.ctl }
  t.log.queue = logInsert s.log.queue r ∧ ((∀ q ∈ s.log.queue, q.at_ ≠ s.clock.ctl) → t.log.queue = s.log.queue ++ [r])

/-- The answer to an access is outstanding behind the earlier ones, to be presented once it has passed the register slices (R4, R37,
R42; log entry 47). -/
def Answers (s t : State) (m : Master) (stat : BitVec 2) (data : List Byte) : Prop :=
  t.pins = { s.pins with resp := s.pins.resp ++ [⟨m, stat, data, s.clock.ctl + 2 * s.slicesCrossed⟩] }

/-- What Reset and Off clear, and what stays (R326, R329). -/
structure Cleared (s t : State) : Prop where
  cfg : t.cfg = s.cfg
  pool : t.pool = .zero
  tiles : t.tiles = []
  tileUse : t.tileUse = []
  ledger : t.ledger.bytes = []
  wells : t.basin.wells = []
  settings : t.settings.bytes = [] ∧ t.settings.valid = []
  image : t.image.active = .empty ∧ t.image.shadow = .empty
  sram : t.cores.sram = []
  mailbox : t.sec.mailbox = []
  request : ∀ d, t.domReq d = if s.domReq d = s.domCur d then 0 else s.domReq d
  waking : ∀ d < 24, s.domReq d ≠ s.domCur d → s.domReq d ≠ 0 → d ∈ t.power.wake
  held : t.held = []
  regs : t.regs.partLimit = 4 ∧ t.regs.memRead = 0 ∧ t.regs.memWrite = 0
  streams : ∀ p, (t.stream p).ctx = Ctx.idle
  tb : t.clock.tb = s.clock.tb
  fuses : t.fuses = s.fuses
  slots : t.log.slots = s.log.slots ∧ t.log.commit = s.log.commit
  tenant : t.ao.tenant = s.ao.tenant ∧ t.ao.consent = s.ao.consent
  defects : t.defects = s.defects
  pending : t.pending = s.pending

/-- A master's command acts now, in the state `s` that the step of the tick leaves of `s0` (R53): the master may send it, and it waits
neither for an earlier one of its source nor for HC_READY (R42, R293, R296, R300). -/
structure Serves (s0 s : State) (m : Master) : Prop where
  tick : s = s0.closeTick
  gate : s.gate m = .run
  free : s.unblocked m = true

/-- The same, and a record that the command makes has room (R304, R311). -/
structure Ready (s0 s : State) (m : Master) : Prop extends Serves s0 s m where
  room : s.logRoom = true

/-- A master's access of port B acts now, in the state `s` that the step of the tick, the accesses of port A of the cycle and the
collector's word leave of `s0`, with the port taken (R53, R284), while the fast matrix serves (R300): no stream may still use port A in the
cycle, the port has served none in it, and none that came earlier waits. -/
structure TakesPortB (s0 s : State) (m : Master) (addr : Nat) : Prop where
  serves : Serves s0 s0.closeTick m
  idle : s0.closeTick.portWaits m addr = false
  port : s = s0.closeTick.takePort addr
  matrix : s.unit.matrixOff = false

/-- Accesses that break the table of R295 or fall on no target: outside the bridge a size that is no power of two up to 64 or an address
that is not aligned to it, at the bridge a size other than 4 and 8, or no range that holds the whole access. -/
def OffMap (write : Bool) (addr size : Nat) : Prop :=
  let inR := fun (r : Nat × Nat) => r.1 ≤ addr ∧ addr + size ≤ r.1 + r.2
  (write = true → inSettings addr size = false) ∧
  if inR (0x20000000, 0x10000) then size ≠ 4 ∧ size ≠ 8
  else wellSized addr size = false ∨ ∀ r ∈ [(0, 0x400000), (0x01000000, 0x400000), (0x02000000, 0x340000), (0x04000000, 0x1000000),
    (0x05000000, 0x1000000), (0x10000000, 0x4000000), (0x30000000, 0x1000000)], ¬inR r

/-- The record of an accepted write: one of kind 0x0005 for a host of role installer or maker, none else (R304, R309). -/
def LogsWrite (s t : State) (m : Master) (addr : Nat) (data : List Byte) : Prop :=
  match m with
  | .host r _ => if r = 0 then t.log = s.log ∧ t.ao = s.ao else Logs s t 5 r (masterId m) addr (leNat (data.take 8)) 0 0
  | _ => t.log = s.log ∧ t.ao = s.ao

/-- The record of an installer's or a maker's accepted write has room (R304, R311). -/
def HasRoom (s : State) (m : Master) : Prop := ∀ r id, m = .host r id → r ≠ 0 → s.logRoom = true

end Sys2Proof.Claims

open Sys2Proof Sys2Proof.Machine Sys2Proof.Claims

/-- What precedes a stream's instruction in its cycle is nothing where the step of the tick is over and no Ledger access of port A is due
(R53, R284).
NOP issues: no issue in CYC further cycles; with LB its loop level is opened; nothing else changes (R110, R119).
TWAIT, FWAIT and LFEN, once their wait is over, only let the sequencer go on (R134, R139, R142); an FWAIT with NXT 0 that was
reached after its offset counts as late (R139). -/
def Obligations.SequencerInstructionsIssue : Prop :=
  (∀ (s : State) (p : StreamId), s.unit.window = false →
    (∀ a ∈ s.inflight, a.isLedger = true → s.clock.offset < a.due) → s.turn p = s) ∧
  (∀ (s0 s : State) (p : StreamId) (e : LoopEnd) (f : NopF), Issues s0 s p e (.nop f) →
    ∃ t, exec (.nop p e f) s0 = .next t ∧ Quiet p s t ∧ Still s t ∧ t.inflight = s.inflight ∧
      (t.stream p).next = s.clock.offset + 1 + f.cyc.toNat ∧
      (t.stream p).ctx = ((nopCtx (s.stream p).ctx f).step e).1) ∧
  (∀ (s0 s : State) (p : StreamId) (e : LoopEnd),
    (∀ f, Issues s0 s p e (.twait f) → s.ledgerBad [tallyAt f.tally.toNat] = none → ∃ t, Passes (.twait p e f) s0 s t p e) ∧
    (∀ f tick o, Issues s0 s p e (.fwait f) → ((s.reach p).stream p).reached = some (tick, o) →
      ∃ t, Passes (.fwait p e f) s0 s t p e ∧
        (t.stream p).stat.fwLate = (s.stream p).stat.fwLate + (if f.nxt = false ∧ f.offset.toNat < o then 1 else 0)) ∧
    (∀ sc, Issues s0 s p e (.lfen sc) → ∃ t, Passes (.lfen p e sc) s0 s t p e))

/-- HALT: the stream completes as Halted in its issue cycle with PC at the next index, and its completion is queued (R92, R119).
An instruction that names a resource which its stream does not hold raises PROT: the stream completes as Faulted with the
resource's number in FADDR and PC at the instruction, and nothing of its effect happens but that an issue of a numbered instruction
takes its effect number (R87, R92, R97, R117; log entry 44). -/
def Obligations.StreamsComplete : Prop :=
  (∀ (s0 s : State) (p : StreamId) (e : LoopEnd), Issues s0 s p e .halt →
    ∃ t, exec (.halt p e) s0 = .next t ∧ Quiet p s t ∧ t.pool = s.pool ∧ t.basin = s.basin ∧ t.ledger = s.ledger ∧
      t.inflight = s.inflight ∧
      (t.stream p).ctx = { (s.stream p).ctx with pc := (s.stream p).ctx.pc + 1, state := .halted } ∧
      (t.stream p).done = some ⟨s.clock.frame, s.clock.offset, false, false, s.unit.attempt⟩ ∧
      t.collector = collectorInsert s.collector (p, ⟨s.clock.frame, s.clock.offset, false, false, s.unit.attempt⟩)) ∧
  (∀ (s0 s : State) (c : Instr) (p : StreamId) (e : LoopEnd) (op : Op) (n : Nat), s = s0.turn p →
    c.stream? = some (p, e, op) → (s.reach p).mayIssue p e op = true → (s.reach p).copyBad ((s.reach p).fetchWords p) = false →
    (s.reach p).copyBad ((s.reach p).tableWords p op) = false → (s.reach p).foreign p op = some n →
    ∃ t, exec c s0 = .next t ∧ Quiet p s t ∧ t.pool = s.pool ∧ t.basin = s.basin ∧ t.ledger = s.ledger ∧ t.inflight = s.inflight ∧
      (t.stream p).ctx = { (s.stream p).ctx with fault := faultPROT, faddr := BitVec.ofNat 64 n, state := .faulted
                                                 effseq := (s.stream p).ctx.effseq + (if numbered op then 1 else 0) } ∧
      (t.stream p).stat.protCause = 2 ∧
      t.collector = collectorInsert s.collector (p, ⟨s.clock.frame, s.clock.offset, true, false, s.unit.attempt⟩))

/-- The result of a slab that the Cascade passes, taken from the state in which it leaves: its bytes, in plane form where PLANE is 1, with
the mark of its source, and an internal one where the slab is not conserved (R145, R156, R342). -/
def Emerges (s t : State) (o : Passing) : Prop :=
  let out := s.passed o
  Arrives s t o.stream o.lat o.reg (lanesFrom 0 (if s.plane o.stream then toPlanes out else out))
    (if consWord o.slab = consWord out then o.mark else joinMark o.mark (some .internal)) ∧
  (consWord o.slab ≠ consWord out → ⟨s.clock.offset + (o.lat - 1), o.stream, .conserve o.reg o.slotId⟩ ∈ t.inflight)

/-- A slab goes through the Cascade: on a sound one its result is on its way at once; on a defective one it joins the slabs that pass in
this cycle (R83). -/
def Crosses (s t : State) (o : Passing) : Prop :=
  (s.defects = [] → Emerges s t o) ∧ (s.defects ≠ [] → t.cycle.passing = s.cycle.passing ++ [o])

/-- PERM with MODE 0, PBPC, CONV, PACK and UNPK: their slabs begin, and their unit is occupied for RPT + 1 cycles (R107, R113, R120,
R121, R123, R128, R129). Slab 0 reaches its destination after its latency, with the mark of its source: a Cascade pass takes the slab in
element form where PLANE is 1 and brings it back in plane form, and a pass that does not conserve it adds an internal mark (R156, R342). On
a Cascade with defects the slabs of one cycle leave it together as the cycle ends, each by what all of them bring to its switches (R83). CONV
brings the converted elements with the marks of what it read, and an MX quantise its scales too; where a block is two slabs, the second
one brings both (R227, R230 to R232; log entry 43). -/
def Obligations.RegisterSlabsBegin : Prop :=
  (∀ (s0 s : State) (p : StreamId) (e : LoopEnd),
    (∀ f, Issues s0 s p e (.perm f) → f.mode = false → s.settingValid (subSlot f.slot f.sub) = true →
      s.settingBad (subSlot f.slot f.sub) = false → s.slabBad p (.perm f) = none →
      ∃ t, SlabsBegin (.perm p e f) s0 s t p e (.perm f) ∧ t.pool = s.pool ∧ (t.stream p).cascadeEnd = s.clock.offset + f.rpt.toNat + 1 ∧
        Crosses s t ⟨p, some (subSlot f.slot f.sub), 0, s.elementForm p (s.share p f.src), f.dst, s.cascadeLat, s.tileMark p f.src⟩) ∧
    (∀ f, Issues s0 s p e (.pbpc f) → s.slabBad p (.pbpc f) = none →
      ∃ t, SlabsBegin (.pbpc p e f) s0 s t p e (.pbpc f) ∧ t.pool = s.pool ∧ (t.stream p).cascadeEnd = s.clock.offset + f.rpt.toNat + 1 ∧
        (s.defects = [] → ∀ o : Passing, o.slot = none → o.map = f.map →
          s.passed o = permuteBy (bpcVector s.laneBits f.map) o.slab) ∧
        Crosses s t ⟨p, none, f.map, s.elementForm p (s.share p f.src), f.dst, s.cascadeLat, s.tileMark p f.src⟩) ∧
    (∀ f, Issues s0 s p e (.conv f) → s.slabBad p (.conv f) = none →
      ∃ t, SlabsBegin (.conv p e f) s0 s t p e (.conv f) ∧ t.pool = s.pool ∧ (t.stream p).formatEnd = s.clock.offset + f.rpt.toNat + 1 ∧
        (let n := s.lanes / max (fmtBytes (cvtSrc f.cvt)) (fmtBytes (cvtDst f.cvt))
         let vs := s.convElems p f (s.stream p).ctx.pc (s.stream p).ctx.loop s.clock.frame 0 n (s.share p f.src)
         let lat := s.latency p (.conv f) 0
         let bytes := fun (l : List Nat) => lanesFrom 0 (elemBytes (fmtBytes (cvtDst f.cvt)) l)
         (mxQuant f.cvt = false → mxDequant f.cvt = false →
           Arrives s t p lat f.dst (bytes (vs.map (fun v => convertElem f.cvt.toNat v.2 f.sat v.1))) (s.tileMark p f.src)) ∧
         (mxQuant f.cvt = true → 32 ≤ n →
           let bs := (blocks32 n vs).map (fun b => mxQuantise (cvtDst f.cvt) (b.map (fun v => (decodeNum (cvtSrc f.cvt) v.1, v.2))))
           Arrives s t p lat f.dst (bytes (bs.flatMap (·.2))) (s.tileMark p f.src) ∧
           Arrives s t p lat f.aux (lanesFrom 0 (bs.map (fun b => BitVec.ofNat 8 b.1))) (s.tileMark p f.src)) ∧
         (mxQuant f.cvt = false → mxDequant f.cvt = true →
           Arrives s t p lat f.dst
             (bytes (vs.mapIdx (fun a v => mxDequantise (cvtSrc f.cvt) (if cvtDst f.cvt = 13 then 2 else 1)
               ((s.share p f.aux).getD (if n < 32 then 0 else a / 32) 0).toNat v.1 v.2 f.sat)))
             (joinMark (s.tileMark p f.src) (s.tileMark p f.aux))))) ∧
    (∀ f, Issues s0 s p e (.pack f) → s.slabBad p (.pack f) = none →
      ∃ t, SlabsBegin (.pack p e f) s0 s t p e (.pack f) ∧ t.pool = s.pool ∧ (t.stream p).formatEnd = s.clock.offset + f.rpt.toNat + 1 ∧
        Arrives s t p 4 f.dst (lanesFrom (blockLane f s.lanes) (packBlock (f.w.toNat + 1) (s.share p f.src))) (s.tileMark p f.src)) ∧
    (∀ f, Issues s0 s p e (.unpk f) → s.slabBad p (.unpk f) = none →
      ∃ t, SlabsBegin (.unpk p e f) s0 s t p e (.unpk f) ∧ t.pool = s.pool ∧ (t.stream p).formatEnd = s.clock.offset + f.rpt.toNat + 1 ∧
        Arrives s t p 4 f.dst (lanesFrom 0 (unpackBlock (f.w.toNat + 1) s.lanes ((s.share p f.src).drop (blockLane f s.lanes))))
          (s.tileMark p f.src))) ∧
  (∀ (s : State) (p : StreamId) (f : ConvF) (g : Nat) (pc : BitVec 13) (loop : Vector (BitVec 24) 4) (frame : Frame) (lat : Nat),
    let n := s.lanes / max (fmtBytes (cvtSrc f.cvt)) (fmtBytes (cvtDst f.cvt))
    let vs := fun (i : Nat) => s.convElems p f pc loop frame i n (s.share p (regAdd f.src i))
    let q := mxQuantise (cvtDst f.cvt) ((vs (2 * g) ++ vs (2 * g + 1)).map (fun v => (decodeNum (cvtSrc f.cvt) v.1, v.2)))
    let m := joinMark (s.tileMark p (regAdd f.src (2 * g))) (s.tileMark p (regAdd f.src (2 * g + 1)))
    mxQuant f.cvt = true → n < 32 →
    let t := s.convSlab p f (2 * g + 1) pc loop frame lat []
    Arrives s t p (lat - 1) (regAdd f.dst (2 * g)) (lanesFrom 0 (elemBytes (fmtBytes (cvtDst f.cvt)) (q.2.take n))) m ∧
      Arrives s t p lat (regAdd f.dst (2 * g + 1)) (lanesFrom 0 (elemBytes (fmtBytes (cvtDst f.cvt)) (q.2.drop n))) m ∧
      Arrives s t p (lat - 1) (regAdd f.aux (2 * g)) [(0, BitVec.ofNat 8 q.1)] m) ∧
  (∀ (s : State), s.passAll.cycle.passing = [] ∧ ∀ o ∈ s.cycle.passing, Emerges s s.passAll o) ∧
  (∀ (s : State) (p : StreamId) (slab : List Byte) (lane : Nat) (o : Passing), lane % s.parts ≠ p.toNat →
    s.passingIn (lane % s.parts) = some o → s.passByte p slab lane = o.slab.getD (lane / s.parts) 0)

/-- PERM with MODE 1 hands its destination vector, taken from SRC (low bytes) and SRC + 1 (high bytes), to the Setter (R122, R162); a
vector from a poisoned register is discarded, and counts as a suppressed effect (R61). That all its lanes are those of the issue cycle t, where
R162 reads them in t to t + 3, is the model's choice (DESIGN CHOICE, log entry 43).
A PERM of MODE 0 through a sub-slot that holds no valid setting raises NOTPERM with the sub-slot's number in FADDR, and no slab passes
(R121). -/
def Obligations.PermOtherForms : Prop :=
  (∀ (s0 s : State) (p : StreamId) (e : LoopEnd) (f : PermF), Issues s0 s p e (.perm f) → f.mode = true → s.slabBad p (.perm f) = none →
    ∃ t, exec (.perm p e f) s0 = .next t ∧ Quiet p s t ∧ Still s t ∧ t.inflight = s.inflight ∧
      Follows e (s.stream p).ctx (t.stream p).ctx ∧
      ∃ j, (t.stream p).setter.job = some j ∧ j.slot = f.slot ∧ j.sub = f.sub ∧ j.issued = s.clock.offset ∧
        j.dst = (List.range s.lanes).map (fun m => ((s.share p f.src).getD m 0).toNat + 256 * ((s.share p (regAdd f.src 1)).getD m 0).toNat) ∧
        (if s.tileMark p f.src = none ∧ s.tileMark p (regAdd f.src 1) = none
         then j.phase = .taken ∧ (t.stream p).suppressed = (s.stream p).suppressed
         else j.phase = .discard ∧ (t.stream p).suppressed = (s.stream p).suppressed + 1)) ∧
  (∀ (s0 s : State) (p : StreamId) (e : LoopEnd) (f : PermF), Issues s0 s p e (.perm f) → f.mode = false →
    s.settingValid (subSlot f.slot f.sub) = false →
    ∃ t, exec (.perm p e f) s0 = .next t ∧ Quiet p s t ∧ t.inflight = s.inflight ∧
      (t.stream p).ctx = { (s.stream p).ctx with fault := faultNOTPERM, faddr := BitVec.ofNat 64 (subSlot f.slot f.sub), state := .faulted })

/-- LDT: its range lies in a region that the stream may read, and its slabs begin; slab 0's bytes, as the stream sees them in the Pool,
reach REG after the latency of R113, converted where CVT names a conversion (R124, R125, R223).
STT: its range lies in a region that the stream owns, and its slabs begin; slab 0's bytes enter the write buffer of every set that
holds a copy, where those have room among their 16 set-rows, at the addresses of the written half, to be seen by the stream in the next cycle and by the others after the latency (R124,
R125, R264, R272); no other byte of the Pool reads differently to any agent at any cycle. -/
def Obligations.PoolTransfersBegin : Prop :=
  (∀ (s0 s : State) (p : StreamId) (e : LoopEnd) (f : XferF), Issues s0 s p e (.ldt f) → s.xferFault p f true = none → s.ldtBad p f = none →
    ∃ t, SlabsBegin (.ldt p e f) s0 s t p e (.ldt f) ∧ { t.pool with churn := s.pool.churn } = s.pool ∧
      (t.stream p).poolEnd = s.clock.offset + f.rpt.toNat + 1 ∧ (t.stream p).poolReadEnd = s.clock.offset + f.rpt.toNat + 1 ∧
      ∃ mark, Arrives s t p (s.latency p (.ldt f) 0) f.reg
        (lanesFrom 0 (convertBytes f.cvt ((List.range (xferCount f true s.lanes)).flatMap (fun a =>
          s.poolRead p f.region.toNat (xferElemOff f true s.lanes (xferAddr f true s.lanes (s.stream p).ctx.loop 0).toNat a) (xferSizes f true).2)))) mark) ∧
  (∀ (s0 s : State) (p : StreamId) (e : LoopEnd) (f : XferF), Issues s0 s p e (.stt f) → s.xferFault p f false = none →
    s.slabBad p (.stt f) = none →
    let cells := (List.range (xferCount f false s.lanes)).flatMap (fun a =>
      lanesFrom (xferElemOff f false s.lanes (xferAddr f false s.lanes (s.stream p).ctx.loop 0).toNat a)
        (((convertBytes f.cvt ((s.share p f.reg).take (xferCount f false s.lanes * (xferSizes f false).1))).drop (a * (xferSizes f false).2)).take
          (xferSizes f false).2))
    let r := f.region.toNat
    (∀ set ∈ s.copySets r,
      s.buffered set + ((cells.map (fun c => s.poolAddr r set (s.writeHalf r) c.1 / 32)).eraseDups).length ≤ 16 * s.setBanks) →
    ∃ t, SlabsBegin (.stt p e f) s0 s t p e (.stt f) ∧ (t.stream p).poolEnd = s.clock.offset + f.rpt.toNat + 1 ∧
      t.pool.wbuf = s.pool.wbuf ++ (s.copySets r).map (fun set =>
        ⟨set, p, cells.map (fun c => (s.poolAddr r set (s.writeHalf r) c.1, c.2)), s.clock.offset + 1, s.clock.offset + s.latency p (.stt f) 0⟩) ∧
      ∀ a, (∀ set ∈ s.copySets r, ∀ c ∈ cells, s.poolAddr r set (s.writeHalf r) c.1 ≠ a) →
        ∀ viewer cycle, t.poolByte viewer cycle a = s.poolByte viewer cycle a)

/-! ## Sluice, Separator, Skimmer and Basin -/

/-- GATH, SCAT and BCST: the range check of R116 and the grain check of R181 hold, so the instruction enters the stream's ways as a
new job, takes its effect number, and with CADV moves its cursor; nothing of the memory or the Pool changes in its issue cycle (R117,
R126, R127, R179, R196). -/
def Obligations.SluiceIssues : Prop :=
  ∀ (s0 s : State) (p : StreamId) (e : LoopEnd) (f : SluiceF) (op : Op) (c : Instr),
    (c, op) ∈ [(Instr.gath p e f, Op.gath f), (.scat p e f, .scat f), (.bcst p e f, .bcst f)] →
    Issues s0 s p e op → s.sluiceRangeBad p op f = none →
    let x := s.stream p
    let d := s.image.bank.desc f.desc.toNat
    let p0 := (sluiceCursor x.ctx f).toNat % d.slen
    p0 % d.grain = 0 → (∀ j ∈ x.jobs, j.recorded = false) →
    ∃ t j, exec c s0 = .next t ∧ Quiet p s t ∧ Still s t ∧ t.inflight = s.inflight ∧
      (t.stream p).next = s.clock.offset + 1 ∧
      (t.stream p).ctx = ((sluiceCtx x.ctx f p0 d.slen).step e).1 ∧
      (t.stream p).order = x.order + 1 ∧ (t.stream p).jobs = x.jobs ++ [j] ∧
      j.order = x.order ∧ j.pc = x.ctx.pc ∧ j.op = op ∧ j.f = f ∧ j.p0 = p0 ∧ j.eff = x.ctx.effseq ∧ j.frame = s.clock.frame ∧
      j.half = (match op with | .gath _ => (s.clock.frame.toNat + 1) % 2 | _ => s.readHalf f.region.toNat) ∧ j.at_ = s.clock.cycles ∧
      j.phase = .issued ∧ j.recorded = false ∧ j.failed = false ∧ j.plan = []

/-- SEPR: the key range and the output range hold, so the Separator begins: it is occupied for D cycles, the keys of the first cycle
are read, and the second cycle follows; nothing is written before its outputs (R113, R130, R235, R238).
SKIM: the row range at its loop-indexed address holds, so the Skimmer begins: it is occupied for D cycles; a row of one occupancy
cycle is ranked at once, and its area is on its way to the destination registers; a longer one goes on in the next cycle (R113, R131,
R235, R243, R244). -/
def Obligations.SelectionUnitsBegin : Prop :=
  (∀ (s0 s : State) (p : StreamId) (e : LoopEnd) (f : SeprF), Issues s0 s p e (.sepr f) →
    s.rangeBad p f.kreg.toNat ((32 * f.koff.toNat : Nat) : Int) (2 * seprN f) false = none →
    s.rangeBad p f.oreg.toNat ((32 * f.ooff.toNat : Nat) : Int) (seprArea f) true = none →
    s.unitBad p f.kreg.toNat (32 * f.koff.toNat) (min 512 (2 * seprN f)) = none →
    ∃ t, exec (.sepr p e f) s0 = .next t ∧ Quiet p s t ∧ { t.pool with churn := s.pool.churn } = s.pool ∧ t.basin = s.basin ∧
      t.ledger = s.ledger ∧ t.collector = s.collector ∧ Kept s t ∧ (t.stream p).ctx = ((s.stream p).ctx.step e).1 ∧
      (t.stream p).sepEnd = s.clock.offset + seprOcc f ∧ (t.stream p).poolReadEnd = s.clock.offset + seprOcc f ∧
      ∃ mark, ⟨s.clock.offset + 1, p, .sepr f 1 (s.stream p).ctx.pc (s.poolRead p f.kreg.toNat (32 * f.koff.toNat) (min 512 (2 * seprN f))) mark⟩ ∈ t.inflight) ∧
  (∀ (s0 s : State) (p : StreamId) (e : LoopEnd) (f : SkimF), Issues s0 s p e (.skim f) →
    let a : Int := 32 * ((f.off.toNat : Int) + f.stride.toInt * loopIndex (s.stream p).ctx.loop f.ilvl f.idxen)
    let n := fmtE f.fmt * skimM f
    s.rangeBad p f.region.toNat a n false = none → s.unitBad p f.region.toNat a.toNat (min (512 * fmtE f.fmt) n) = none →
    ∃ t mark, exec (.skim p e f) s0 = .next t ∧ Quiet p s t ∧ { t.pool with churn := s.pool.churn } = s.pool ∧ t.basin = s.basin ∧
      t.ledger = s.ledger ∧ t.collector = s.collector ∧ Kept s t ∧ Follows e (s.stream p).ctx (t.stream p).ctx ∧
      (t.stream p).skimEnd = s.clock.offset + skimOcc f ∧ (t.stream p).poolReadEnd = s.clock.offset + skimOcc f ∧
      (1 < skimOcc f → ⟨s.clock.offset + 1, p, .skim f a.toNat 1 (s.stream p).ctx.pc (s.poolRead p f.region.toNat a.toNat (min (512 * fmtE f.fmt) n)) mark⟩ ∈ t.inflight) ∧
      (skimOcc f = 1 → ∀ i < skimRegs s.lanes, Arrives s t p 41 (regAdd f.dst i) (lanesFrom 0
        (((skimArea f (elems (s.poolRead p f.region.toNat a.toNat n) (fmtE f.fmt) (skimM f))).drop (i * s.lanes)).take s.lanes)) mark))

/-- SKP and COMB: with unmarked sources, and wells that the stream has, the Basin is occupied, and the step with the products of R251
is on its way: 6 cycles after the occupancy for SKP, 8 for COMB; no well changes in the issue cycle (R113, R132, R250, R258). That the step
carries the bytes of SRC, GATE and WIDX of all summands as they stand in the issue cycle, where R250 reads summand a in cycle t + a, is the
model's choice (DESIGN CHOICE, log entry 43).
SKP and COMB with a marked source: the wells of the stream are marked, one effect is suppressed, no fault is raised, whatever else the
sources hold, and no step is on its way (R61, R259).
The step of a SKP: a well to which finite products are directed takes the largest of their exponents by the table of R252, every other well
stays. The step of a COMB: a well that its summands name counts them, and becomes NaN, ±INF or MISS with ACC 0 by the first rule of R254 that
applies, and else gains the sum of the contributions; every other well stays. A contribution is the product in units of U rounded to nearest,
ties to even (R253). -/
def Obligations.BasinSteps : Prop :=
  (∀ (s0 s : State) (p : StreamId) (e : LoopEnd) (f : CombF) (op : Op) (c : Instr) (tail : Nat) (act : List (Nat × Product) → Arrival),
    (c, op, tail, act) ∈ [(Instr.skp p e f, Op.skp f, 6, Arrival.skp), (.comb p e f, .comb f, 8, .comb)] →
    Issues s0 s p e op → s.slabBad p op = none → (∀ r ∈ slabSources op 0, s.tileMark p r = none) →
    s.basinFault p ((s.summands p f).map (·.1)) = none →
    ∃ t, exec c s0 = .next t ∧ Quiet p s t ∧ Still s t ∧ Kept s t ∧ (t.stream p).ctx = ((s.stream p).ctx.step e).1 ∧
      (t.stream p).basinEnd = s.clock.offset + basinOcc f.n ∧ (t.stream p).basinReady = s.clock.offset + basinOcc f.n + tail ∧
      ⟨s.clock.offset + (basinOcc f.n + tail), p, act (s.summands p f)⟩ ∈ t.inflight) ∧
  (∀ (s0 s : State) (p : StreamId) (e : LoopEnd) (f : CombF) (op : Op) (c : Instr),
    (c, op) ∈ [(Instr.skp p e f, Op.skp f), (.comb p e f, .comb f)] →
    Issues s0 s p e op → (joinMarks ((slabSources op 0).map (s.tileMark p))).isSome →
    ∃ t, exec c s0 = .next t ∧ Quiet p s t ∧ t.inflight = s.inflight ∧ t.pool = s.pool ∧ t.ledger = s.ledger ∧ t.collector = s.collector ∧
      (t.stream p).ctx = ((s.stream p).ctx.step e).1 ∧ t.basin = { s.basin with marks := t.basin.marks } ∧
      markGet t.basin.marks p.toNat = joinMark (markGet s.basin.marks p.toNat) (joinMarks ((slabSources op 0).map (s.tileMark p))) ∧
      (t.stream p).suppressed = (s.stream p).suppressed + 1) ∧
  (∀ (s : State) (p : StreamId) (ps : List (Nat × Product)) (w : Nat), (∀ x ∈ ps, x.1 < s.wellCount p) → w < s.wellCount p →
    let old := s.well (s.wellRead p w)
    let here := ps.filterMap (fun x => if x.1 = w then some x.2 else none)
    let es := here.filterMap (fun x => match x with | .fin _ m q => some (dyadicLog m q) | _ => none)
    let skp := (s.skpStep p ps).well ((s.skpStep p ps).wellRead p w)
    let comb := (s.combStep p ps).well ((s.combStep p ps).wellRead p w)
    (es = [] → skp = old) ∧
    (∀ m ∈ es, (∀ e ∈ es, e ≤ m) →
      (old.anchor = 0 → skp = { old with anchor := anchorCode m }) ∧ (old.anchor ≠ 0 → old.anchorOf = none → skp = old) ∧
      (∀ a, old.anchor ≠ 0 → old.anchorOf = some a → (m ≤ a → skp = old) ∧ (a < m → old.count = 0 → skp = { old with anchor := anchorCode m }) ∧
        (a < m → old.count ≠ 0 → skp = { old with acc := 0, anchor := anchorMiss }))) ∧
    (here = [] → comb = old) ∧
    (here ≠ [] →
      let pinf := old.anchor = anchorPInf ∨ Product.inf false ∈ here
      let ninf := old.anchor = anchorNInf ∨ Product.inf true ∈ here
      let isNan := old.anchor = anchorNan ∨ Product.nan ∈ here ∨ (pinf ∧ ninf)
      let missed := old.anchor = anchorMiss ∨ ∃ x ∈ here, ∃ g m q, x = .fin g m q ∧ ∀ a, old.anchorOf = some a → a < dyadicLog m q
      comb.count.toNat = min 1023 (old.count.toNat + here.length) ∧
      (isNan → comb.anchor = anchorNan ∧ comb.acc = 0) ∧
      (¬isNan → pinf → comb.anchor = anchorPInf ∧ comb.acc = 0) ∧ (¬isNan → ninf → comb.anchor = anchorNInf ∧ comb.acc = 0) ∧
      (¬isNan → ¬pinf → ¬ninf → missed → comb.anchor = anchorMiss ∧ comb.acc = 0) ∧
      (¬isNan → ¬pinf → ¬ninf → ¬missed → comb.anchor = old.anchor ∧
        comb.acc = old.acc + BitVec.ofInt 182 ((here.map (fun x => match x with
          | .fin g m q => contribution (old.anchorOf.getD 0) g m q
          | _ => 0)).sum)))) ∧
  (∀ (a : Int) (m : Nat) (q : Int) (g : Bool), contribution a true m q = -contribution a false m q ∧ 0 ≤ contribution a false m q ∧
    (a - 171 ≤ q → contribution a g m q = (if g then -1 else 1) * (m * 2 ^ (q - (a - 171)).toNat)) ∧
    (q < a - 171 →
      let k := (a - 171 - q).toNat
      let c := contribution a false m q
      2 * (c * 2 ^ k - m) ≤ 2 ^ k ∧ 2 * ((m : Int) - c * 2 ^ k) ≤ 2 ^ k ∧
        (2 * (c * 2 ^ k - m) = 2 ^ k ∨ 2 * ((m : Int) - c * 2 ^ k) = 2 ^ k → c % 2 = 0)))

/-- DRAIN: its wells lie in the stream's range, and in its issue cycle it reads the first 256 of them, or all; they read correct. With no
more than 256 wells their rounded results are on their way to DST, readable 10 cycles after the occupancy; with more, the next cycle goes
on with the others. The headroom and anchor-miss counts gain for the wells read; without CLR no well changes, and with CLR every well read
is clear afterwards while the stream's other wells read as before; later accesses of a well read go to its copy that is written (R133, R248,
R250, R255, R256). -/
def Obligations.DrainBegins : Prop :=
  ∀ (s0 s : State) (p : StreamId) (e : LoopEnd) (f : DrainF), Issues s0 s p e (.drain f) →
    f.woff.toNat + f.n.toNat + 1 ≤ s.wellCount p →
    let m := min 256 (f.n.toNat + 1)
    (∀ a < m, s.wellBad p (f.woff.toNat + a) = false) →
    let ws := (List.range m).map (fun a => s.well (s.wellRead p (f.woff.toNat + a)))
    let out := ws.map (·.result (fmtId f.fmt))
    ∃ t, exec (.drain p e f) s0 = .next t ∧ Quiet p s t ∧ t.pool = s.pool ∧ t.ledger = s.ledger ∧ t.collector = s.collector ∧ Kept s t ∧
      Follows e (s.stream p).ctx (t.stream p).ctx ∧ (t.stream p).basinEnd = s.clock.offset + basinOcc f.n ∧
      (f.n.toNat < 256 → Arrives s t p (basinOcc f.n + 10) f.dst (lanesFrom 0 (elemBytes (fmtE f.fmt) out)) (markGet s.basin.marks p.toNat)) ∧
      (256 ≤ f.n.toNat → ⟨s.clock.offset + 1, p, .drain f 1 (s.stream p).ctx.pc out⟩ ∈ t.inflight) ∧
      (t.stream p).stat.anchorMiss = (s.stream p).stat.anchorMiss + BitVec.ofNat 32 (ws.countP (fun w => decide (w.anchor = anchorMiss))) ∧
      (t.stream p).stat.headroom = (s.stream p).stat.headroom + BitVec.ofNat 32 (ws.countP (fun w => decide (512 < w.count.toNat))) ∧
      (∀ a < m, t.wellRead p (f.woff.toNat + a) = s.wellWrite p (f.woff.toNat + a)) ∧
      (f.clr = false → t.basin = { s.basin with touched := t.basin.touched } ∧ t.eccBad = s.eccBad ∧ t.eccOne = s.eccOne) ∧
      (f.clr = true → (∀ a < m, t.well (t.wellRead p (f.woff.toNat + a)) = Well.clear) ∧
        ∀ w < s.wellCount p, (w < f.woff.toNat ∨ f.woff.toNat + m ≤ w) → t.well (t.wellRead p w) = s.well (s.wellRead p w))

/-! ## The Ledger's instructions -/

/-- TSIG, TADD, COPEN, CCLOS and ALARM take the next effect number; one that no earlier attempt of the frame performed goes to the Ledger
two cycles later, with ALARM's target relative to the frame or its stamp where REL is 1; one that was performed is skipped (R64, R113,
R117, R134, R137, R140).
CSEND: NW + 1 words from LOFF of its source go to the Ledger three cycles later, under the next effect number; with a marked source
the send is suppressed instead, and one that an earlier attempt performed is skipped (R61, R64, R113, R117, R137). -/
def Obligations.LedgerInstructionsBegin : Prop :=
  (∀ (s0 s : State) (p : StreamId) (e : LoopEnd) (c : Instr) (op : Op) (l : LedgerOp),
    ((∃ f, c = .tsig p e f ∧ op = .tsig f ∧ l = .tsig f.tally f.cnt) ∨
     (∃ f, c = .tadd p e f ∧ op = .tadd f ∧ l = .tadd f.tally f.value) ∨
     (∃ f, c = .copen p e f ∧ op = .copen f ∧ l = .copen f.ep f.peer) ∨
     (∃ ep, c = .cclos p e ep ∧ op = .cclos ep ∧ l = .cclos ep) ∨
     (∃ f, c = .alarm p e f ∧ op = .alarm f ∧ l = .alarm f.timer f.kind f.carry f.tally f.period (s.alarmTarget f))) →
    Issues s0 s p e op →
    ∃ t, exec c s0 = .next t ∧ Quiet p s t ∧ Still s t ∧ Kept s t ∧ (t.stream p).next = s.clock.offset + 1 ∧
      (t.stream p).ctx = (Ctx.step { (s.stream p).ctx with effseq := (s.stream p).ctx.effseq + 1 } e).1 ∧
      ((s.stream p).performed (s.stream p).ctx.effseq = none →
        ⟨s.clock.offset + 2, p, .ledger l (s.stream p).ctx.effseq (s.stream p).ctx.pc⟩ ∈ t.inflight) ∧
      ((s.stream p).performed (s.stream p).ctx.effseq ≠ none → t.inflight = s.inflight)) ∧
  (∀ (s0 s : State) (p : StreamId) (e : LoopEnd) (f : CsendF), Issues s0 s p e (.csend f) → s.slabBad p (.csend f) = none →
    ∃ t, exec (.csend p e f) s0 = .next t ∧ Quiet p s t ∧ Still s t ∧ Kept s t ∧
      (t.stream p).ctx = (Ctx.step { (s.stream p).ctx with effseq := (s.stream p).ctx.effseq + 1 } e).1 ∧
      (if (s.stream p).performed (s.stream p).ctx.effseq ≠ none then
        t.inflight = s.inflight ∧ (t.stream p).suppressed = (s.stream p).suppressed
       else if s.tileMark p f.src = none then
        ⟨s.clock.offset + 3, p, .ledger (.csend f.ep (((s.share p f.src).drop f.loff.toNat).take (8 * (f.nw.toNat + 1))))
          (s.stream p).ctx.effseq (s.stream p).ctx.pc⟩ ∈ t.inflight
       else t.inflight = s.inflight ∧ (t.stream p).suppressed = (s.stream p).suppressed + 1))

/-- CRECV takes the oldest message of its endpoint: HEAD, COUNT and RECV move, DST gets the words from LOFF and, with SEN, SREG the status
word, four cycles later; the receipt is recorded under the effect number. A replay that finds it recorded writes what was recorded and takes
nothing (R64, R117, R137, R138, R287); that a replayed CRECV too writes four cycles after it issues is the model's reading (log entry 38,
DEDUCED). -/
def Obligations.CrecvReceives : Prop :=
  ∀ (s0 s : State) (p : StreamId) (e : LoopEnd) (f : CrecvF), Issues s0 s p e (.crecv f) →
    let ep := f.ep.toNat
    let no := (s.stream p).ctx.effseq
    ((s.stream p).performed no = none → s.ledgerBad (s.messageWords ep) = none) →
    ∃ t msg status, exec (.crecv p e f) s0 = .next t ∧ Base s t ∧ t.pool = s.pool ∧ t.basin = s.basin ∧ t.collector = s.collector ∧
      Kept s t ∧ (∀ r, r ≠ p → ∃ w, t.stream r = { s.stream r with waitOk := w }) ∧
      Follows e { (s.stream p).ctx with effseq := no + 1 } (t.stream p).ctx ∧
      Arrives s t p 4 f.dst (lanesFrom f.loff.toNat msg) none ∧ (f.sen = true → Arrives s t p 4 f.sreg (lanesFrom 0 status) none) ∧
      (match (s.stream p).performed no with
       | some x => msg = x.recv ∧ status = x.status ∧ t.ledger = s.ledger ∧ (t.stream p).effects = (s.stream p).effects
       | none => msg = s.headMessage ep ∧ status = recvStatus msg.length ∧ t.ledger = (s.receive ep).ledger ∧
          (t.stream p).effects = (s.stream p).effects ++ [⟨no, msg, status⟩])

/-- CHK: where the two words agree nothing follows; where they differ CONSERVE is on its way for cycle t + 6, with the word of A in
FADDR[31:0] and the compared word in FADDR[63:32] (R141, R157). -/
def Obligations.ChkCompares : Prop :=
  ∀ (s0 s : State) (p : StreamId) (e : LoopEnd) (f : ChkF), Issues s0 s p e (.chk f) → s.slabBad p (.chk f) = none →
    let a := s.shareWord p f.a
    let b := if f.mode = 1 then f.exp else s.shareWord p f.b
    ∃ t, exec (.chk p e f) s0 = .next t ∧ Quiet p s t ∧ Still s t ∧ Kept s t ∧ (t.stream p).ctx = ((s.stream p).ctx.step e).1 ∧
      (a = b → t.inflight = s.inflight) ∧
      (a ≠ b → ⟨s.clock.offset + 6, p, .fault faultCONSERVE (b ++ a) 0 (s.stream p).ctx.pc⟩ ∈ t.inflight)

/-- A tally gains by a TADD or a TSIG: modulo 2^32, with every other byte of the Ledger as before where no edge detector watches the
word (R134, R288).
A send: to an open endpoint whose peer's queue is not full it is delivered into the slot (HEAD + COUNT) mod 4 of the peer, and COUNT of
the peer and SENT of the endpoint gain one; a full queue refuses it, FULL gains one and COUNT stays; a closed endpoint changes nothing (R138,
R286).
An edge detector compares bit BIT of the word it watches with LEVEL: equal, the Ledger stays; else LEVEL takes the new value, and where MODE
selects the direction TALLY and EDGES gain 1 modulo 2^32, every other byte as before. A write inside one word is compared by the detectors that
watch that word as it leaves it: by none, or by the one (R288).
A wait that is evaluated for the first time succeeds where its condition holds, whatever the stamp; later a condition that holds succeeds where it
was met before or the stamp is at or before the deadline. A tally v meets T where (v - T) mod 2^32 < 2^31; TWAIT may issue once its wait has
succeeded, CRECV as well where its effect stands from an earlier attempt (R80, R134, R138, R284). -/
def Obligations.LedgerOperations : Prop :=
  (∀ (s : State) (n : BitVec 14) (v : BitVec 32), s.uncorrectable .ledger (tallyAt n.toNat / 8) = false →
    (∀ d < 256, s.ledgerLe (detectorAt d) 4 % 2 ^ 18 ≠ n.toNat / 2) →
    (s.tallyInc n.toNat v.toNat).tally n.toNat = (s.tally n.toNat + v.toNat) % 2 ^ 32 ∧
    ∀ a, (a < 4 * n.toNat ∨ 4 * n.toNat + 4 ≤ a) →
      memGet (s.tallyInc n.toNat v.toNat).ledger.bytes a = memGet s.ledger.bytes a) ∧
  (∀ (s : State) (e : BitVec 12) (msg : List Byte), msg.length ≤ 64 → 0 < msg.length → ChannelsUnwatched s →
    let p := s.peerOf e.toNat
    let head := field (s.ledgerLe (endpointAt p + 4) 4) 3 2
    let u := (s.send e.toNat msg).1
    (s.endpointOpen e.toNat = false → s.send e.toNat msg = (s, .closed)) ∧
    (s.endpointOpen e.toNat = true → s.queued p < 4 → (s.send e.toNat msg).2 = .delivered ∧ u.queued p = s.queued p + 1 ∧
      readBytes u.ledger.bytes (slotAt p ((head + s.queued p) % 4)) msg.length = msg ∧
      u.ledgerLe (endpointAt e.toNat + 16) 4 = (s.ledgerLe (endpointAt e.toNat + 16) 4 + 1) % 2 ^ 32) ∧
    (s.endpointOpen e.toNat = true → 4 ≤ s.queued p → (s.send e.toNat msg).2 = .full ∧ u.queued p = s.queued p ∧
      u.ledgerLe (endpointAt e.toNat + 24) 4 = (s.ledgerLe (endpointAt e.toNat + 24) 4 + 1) % 2 ^ 32)) ∧
  (∀ (s : State) (n : BitVec 8) (word : Nat),
    let a := detectorAt n.toNat
    let r := s.ledgerLe a 4
    let tally := field (s.ledgerLe (a + 4) 4) 0 14
    let bit := bitOf word (field r 18 6)
    let u := s.detector n.toNat word
    (bit = bitOf r 26 → u.ledger = s.ledger) ∧
    (bit ≠ bitOf r 26 → u.ledgerLe a 4 = (if bit then r + 2 ^ 26 else r - 2 ^ 26) ∧
      (bitOf r (if bit then 24 else 25) = false → ∀ x, (x < a ∨ a + 4 ≤ x) → memGet u.ledger.bytes x = memGet s.ledger.bytes x) ∧
      (bitOf r (if bit then 24 else 25) = true → s.uncorrectable .ledger (tallyAt tally / 8) = false →
        u.tally tally = (s.tally tally + 1) % 2 ^ 32 ∧ u.ledgerLe (a + 8) 4 = (s.ledgerLe (a + 8) 4 + 1) % 2 ^ 32 ∧
        ∀ x, (x < a ∨ a + 4 ≤ x) → (x < a + 8 ∨ a + 12 ≤ x) → (x < tallyAt tally ∨ tallyAt tally + 4 ≤ x) →
          memGet u.ledger.bytes x = memGet s.ledger.bytes x))) ∧
  (∀ (s : State) (x : Nat) (bs : List Byte), bs ≠ [] → (x + bs.length - 1) / 8 = x / 8 →
    let u := s.ledgerSet x bs
    ((∀ d < 256, u.ledgerLe (detectorAt d) 4 % 2 ^ 18 ≠ x / 8) → s.ledgerPut x bs = u) ∧
    (∀ n < 256, (∀ d < 256, u.ledgerLe (detectorAt d) 4 % 2 ^ 18 = x / 8 ↔ d = n) →
      s.ledgerPut x bs = (u.readLedger [8 * (x / 8)]).detector n (u.ledgerLe (8 * (x / 8)) 8))) ∧
  (∀ (s : State) (p : StreamId) (dl : BitVec 64) (e : LoopEnd) (op : Op), (s.stream p).waitDl = some dl → s.ledgerPending p = false →
    decodeWord (s.wordAt p) = some (e, op) →
    let u := s.evalWait p
    ((s.stream p).waitOk = none → (u.stream p).waitOk = some (s.waitHolds op)) ∧
    (∀ b, (s.stream p).waitOk = some b → (u.stream p).waitOk = some (s.waitHolds op && (b || decide (s.clock.centre ≤ dl)))) ∧
    (∀ q, q ≠ p → u.stream q = s.stream q) ∧ u.ledger = s.ledger ∧
    (∀ f, op = .twait f → (s.waitHolds op = true ↔ (s.tally f.tally.toNat + 2 ^ 32 - f.target.toNat) % 2 ^ 32 < 2 ^ 31) ∧
      (u.waitDone p op = true ↔ (u.stream p).waitOk = some true)) ∧
    (∀ f, op = .crecv f → (s.waitHolds op = true ↔ 0 < s.queued f.ep.toNat) ∧
      (u.waitDone p op = true ↔ (u.done? p ≠ none ∨ (u.stream p).waitOk = some true))))

/-- WAIT_TIMEOUT: past the deadline, with no arrival in time, a TWAIT or CRECV issues: the wait-timeout count gains one, and the stream goes
on, or with TOACT 1 completes as Halted; a CRECV takes its effect number, writes no lane of DST, and with SEN 1 writes a status word of
zeros (R80, R135, R138). Where the tally or the endpoint's record that it reads is uncorrectable the stream faults with ECC_UNCORR and the
Ledger offset of that word in place of the timeout (R115, R345). -/
def Obligations.WaitTimesOut : Prop :=
  ∀ (s0 s : State) (p : StreamId) (e : LoopEnd) (op : Op) (toact : Bool) (base : Ctx),
    s = s0.turn p → (s.reach p).sequencerFree p = true → (s.reach p).deadlinePassed p = true →
    (s.reach p).copyBad ((s.reach p).fetchWords p) = false → decodeWord ((s.reach p).wordAt p) = some (e, op) →
    ((∃ f, op = .twait f ∧ toact = f.toact ∧ base = (s.stream p).ctx) ∨
     (∃ f, op = .crecv f ∧ toact = f.toact ∧ base = { (s.stream p).ctx with effseq := (s.stream p).ctx.effseq + 1 } ∧
       (s.reach p).operandsReady p op = true ∧ (s.reach p).done? p = none ∧ (s.reach p).foreign p op = none)) →
    (∀ x, s.ledgerBad (waitWords op) = some x →
      ∃ t, exec (.waitTimeout p) s0 = .next t ∧ Quiet p s t ∧ t.pool = s.pool ∧ t.basin = s.basin ∧ t.ledger = s.ledger ∧ t.inflight = s.inflight ∧
        (t.stream p).stat.waitTo = (s.stream p).stat.waitTo ∧
        (t.stream p).ctx = { base with fault := faultECC, faddr := BitVec.ofNat 64 (8 * (x / 8)), state := .faulted } ∧
        t.collector = collectorInsert s.collector (p, ⟨s.clock.frame, s.clock.offset, true, false, s.unit.attempt⟩)) ∧
    (s.ledgerBad (waitWords op) = none →
    ∃ t l, exec (.waitTimeout p) s0 = .next t ∧ Quiet p s t ∧ t.pool = s.pool ∧ t.basin = s.basin ∧ t.ledger = s.ledger ∧ Kept s t ∧
      (t.stream p).stat.waitTo = (s.stream p).stat.waitTo + 1 ∧
      (toact = false → (t.stream p).ctx = { (base.step e).1 with latch := l } ∧ t.collector = s.collector) ∧
      (toact = true → (t.stream p).ctx = { (base.step e).1 with latch := l, state := .halted } ∧
        t.collector = collectorInsert s.collector (p, ⟨s.clock.frame, s.clock.offset, false, false, s.unit.attempt⟩)) ∧
      (∀ f, op = .twait f → t.inflight = s.inflight) ∧
      (∀ f, op = .crecv f → f.sen = true → Arrives s t p 4 f.sreg (lanesFrom 0 (recvStatus 0)) none) ∧
      (∀ f, op = .crecv f → f.sen = false → t.inflight = s.inflight))

/-! ## The Setter and the completion collector -/

/-- SETTER_INTAKE: a vector without an offending lane is accepted in its last intake cycle: its computation is placed in the stream's
slices of this frame or deferred, which PSI_SETDEFERCNT counts; nothing else changes (R162, R166). That the deferral counts in that cycle, and
not at the commit, is the model's choice (DESIGN CHOICE, log entry 84).
SETTER_COMPUTATION_END: the result of a computation whose last cycle has come waits for the commit; the Setter is free for the next
vector of the stream, and no setting changes; event 0x05 may count the cycle (R166, R167, R397). -/
def Obligations.SetterSteps : Prop :=
  (∀ (s : State) (p : StreamId) (j : SetterJob), (s.stream p).setter.job = some j → j.phase = .taken → framesRun s.unit.state = true →
    offendingLane s.lanes j.dst = none → j.issued + 4 + intakeCycles s.lanes ≤ s.clock.offset + 1 →
    ∃ t, exec (.setterIntake p) s = .next t ∧ t = { s with streams := t.streams, regs := t.regs } ∧
      (∀ q, q ≠ p → t.stream q = s.stream q) ∧
      t.stream p = { s.stream p with setter := { (s.stream p).setter with job := some (s.place p j) } } ∧
      t.counter .setDefer = s.counter .setDefer + (if (s.place p j).phase = .deferred then 1 else 0)) ∧
  (∀ (s : State) (p : StreamId) (j : SetterJob), (s.stream p).setter.job = some j → j.phase = .computing → framesRun s.unit.state = true →
    j.ends ≤ s.clock.offset →
    ∃ t, exec (.setterComputationEnd p) s = .next t ∧ t = { s with streams := t.streams, perf := t.perf } ∧ (∀ q, q ≠ p → t.stream q = s.stream q) ∧
      t.stream p = { s.stream p with setter := { (s.stream p).setter with job := none, results := (s.stream p).setter.results ++ [j] } })

/-- COMPLETION_WORD_WRITE, after the step of the tick and the accesses of port A: from the cycle after its completion on, the oldest queued completion is written, one word in a cycle, to the
general word that the image names for its stream: frame, offset, kind, attempt and STOPPED in their places (R54, R94). -/
def Obligations.CompletionWordWrites : Prop :=
  ∀ (s0 s : State) (p : StreamId) (c : Completion) (rest : List (StreamId × Completion)), s = s0.closeTick.portAEnd → s.collector = (p, c) :: rest →
    s.unit.state ≠ .frozen → s.collectAt ≤ s.clock.cycles →
    ¬(c.frame = s.clock.frame ∧ c.attempt = s.unit.attempt ∧ s.clock.offset ≤ c.offset) → c.offset < 2048 →
    0x40000 ≤ s.recAt p 64 8 → s.recAt p 64 8 < 0x100000 → s.recAt p 64 8 % 8 = 0 →
    ∃ t w, exec .completionWordWrite s0 = .next t ∧ t.collector = rest ∧ t.collectAt = s.clock.cycles + 1 ∧
      t = { s with streams := t.streams, collector := t.collector, collectAt := t.collectAt, ledger := t.ledger, regs := t.regs,
                   eccBad := t.eccBad, eccOne := t.eccOne, eccCover := t.eccCover } ∧
      (∀ q, ∃ v, t.stream q = { s.stream q with waitOk := v }) ∧
      t.ledgerLe (s.recAt p 64 8) 8 = w ∧ field w 0 48 = c.frame.toNat ∧ field w 48 11 = c.offset ∧ bitOf w 59 = c.faulted ∧
      field w 60 2 = c.attempt.toNat ∧ field w 62 2 = (if c.stopped then 1 else 0) ∧ w < 2 ^ 64

/-! ## The tick -/

/-- ROW_TICK where the row's clock is followed: the sampled frame number is the frame's, the offset is 0, the stamp is the timebase as the
Centre region read it, and the poison marks are cleared; the timebase itself, the queue and the event log's slots are as before (R43, R49,
R53, R71). A freeze that the tick releases leaves the streams, the Ledger, the Pool and the ports as they stood (R392, R393).
A frame that commits: the pair pointers of the registers and wells and the current half of the regions that it wrote move, the others stay
(R53, R63, R248, R434); the Setter's result enters the Setting Store and becomes valid, and the target of a deferred computation becomes
invalid while the computation begins with the stream's slice of the next frame (R166, R167); recorded effects are forgotten and suppressed ones
counted (R61, R64); no byte of the tile registers, the Pool or the Ledger changes. Such a frame is one without a replay request, of 2,048
cycles (R60). The step's end takes the snapshot: every context, the Setter and the shown counts (R53, R102). -/
def Obligations.RowTickOpensFrame : Prop :=
  (∀ (s : State) (frame : Frame), 0 < s.clock.offset → s.unit.state ≠ .off → s.unit.state ≠ .frozen → s.unit.state ≠ .reset →
    ∃ t, exec (.rowTick frame) s = .next t ∧ t.clock.frame = frame ∧ t.clock.offset = 0 ∧ t.clock.stamp = s.clock.centre ∧
      t.clock.tb = s.clock.tb ∧ t.clock.cycles = s.clock.cycles ∧ t.clock.ticks = s.clock.ticks + 1 ∧ t.cfg = s.cfg ∧
      t.pending = s.pending ∧ t.fuses = s.fuses ∧ t.defects = s.defects ∧ t.cores.sram = s.cores.sram ∧ t.log.slots = s.log.slots ∧
      (s.freezes = false → t.unit.window = true ∧ t.tileMarks = [] ∧ t.pool.marks = [] ∧ t.basin.marks = []) ∧
      (s.freezes = true → t.unit.state = .frozen ∧ t.streams = s.streams ∧ t.ledger = s.ledger ∧ t.pool = s.pool ∧ t.ports = s.ports)) ∧
  (∀ (s : State) (ended : Frame) (len : Nat),
    let t := s.commitFrame ended len
    t.tiles = s.tiles ∧ t.tileUse = s.tileUse ∧ t.ledger = s.ledger ∧ t.pool.bytes = s.pool.bytes ∧ t.basin = { s.basin with ptr := t.basin.ptr } ∧
    (s.tilesWritten.Nodup → ∀ (p : StreamId) (r : BitVec 8),
      (t.stream p).ctx.pairsel.getLsbD r.toNat = ((s.stream p).ctx.pairsel.getLsbD r.toNat != s.tilesWritten.contains (shareKey p r))) ∧
    (s.pool.written.Nodup → ∀ r, sparseGet 0 t.pool.half r =
      (if r ∈ s.pool.written then 1 - sparseGet 0 s.pool.half r else sparseGet 0 s.pool.half r)) ∧
    (s.basin.written.Nodup → ∀ k, sparseGet 0 t.basin.ptr k =
      (if k ∈ s.basin.written then 1 - sparseGet 0 s.basin.ptr k else sparseGet 0 s.basin.ptr k)) ∧
    (∀ p, (t.stream p).effects = [] ∧ (t.stream p).suppressed = 0) ∧
    t.counter .poisonDrop = s.counter .poisonDrop + BitVec.ofNat 32 ((allStreams.map (fun p => (s.stream p).suppressed)).sum) ∧
    (∀ (p : StreamId) (j : SetterJob),
      ((∀ q, ((s.stream q).setterEnd len).setter.results = if q = p then [j] else []) →
        (∀ q k, (s.stream q).setter.job = some k → k.phase ≠ .deferred) →
        t.settings.bytes = writeBytes s.settings.bytes (s.subSlotAt (subSlot j.slot j.sub)) (s.resultBytes j) ∧
        t.settings.valid = insertNat s.settings.valid (subSlot j.slot j.sub)) ∧
      ((s.stream p).setter.job = some j → j.phase = .deferred →
        subSlot j.slot j.sub ∉ t.settings.valid ∧ (t.stream p).setter.job = some (s.beginDeferred p j)))) ∧
  (∀ (s : State) (ended frame : Frame), s.unit.replayReq = false →
    let t := s.commitFrame ended 2048
    let u := s.closeFrame ended frame 2048
    u.unit.attempt = 0 ∧ u.unit.committing = true ∧ u.pool.half = t.pool.half ∧ u.basin.ptr = t.basin.ptr ∧ u.settings = t.settings) ∧
  (∀ (s : State) (p : StreamId),
    let x := s.snapshot.stream p
    x.snap = (s.stream p).ctx ∧ x.ctx = (s.stream p).ctx ∧ x.shown = (s.stream p).stat ∧ x.setterSnap = (s.stream p).setter)

/-- A rollback: every stream's context is the snapshot of the tick that opened the frame, its Setter's results of the frame are discarded,
and its recorded effects stay; the Pool's banks, the tile registers, the wells and the Ledger are not restored; PSI_REPLAYCNT gains one
(R63, R64). -/
def Obligations.RollbackRestores : Prop :=
  ∀ (s : State) (ended : Frame) (len : Nat) (early : Bool),
    let t := s.rollFrame ended len early
    (∀ p, (t.stream p).ctx = { (s.stream p).snap with latch := 0 } ∧ (t.stream p).setter = (s.stream p).setterSnap ∧
      (t.stream p).effects = (s.stream p).effects ∧ (t.stream p).snap = (s.stream p).snap ∧ (t.stream p).suppressed = 0) ∧
    t.pool.bytes = s.pool.bytes ∧ t.pool.half = s.pool.half ∧ t.tiles = s.tiles ∧ t.tileUse = s.tileUse ∧ t.basin = s.basin ∧
    t.ledger = s.ledger ∧ t.settings = s.settings ∧ t.counter .replay = s.counter .replay + 1

/-- CONTROL_CROSSING_RELEASE in the step of a tick: every entry that was enqueued at least 16 control cycles before is released and leaves
the crossing, the others stay in their order (R67).
A Start, Stop or Clear at its release (R91): a Running stream stops as Halted with STOPPED set; a completed one is cleared to its entry
context, keeping PAIRSEL; an Armed or Halted one runs from the tick that opens its frame, or from the releasing tick where the frame is
past or current and its domains show On, which sets start-late; each other combination only sets its status bit, which a write of the
same cycle does not clear (R16). That a Clear keeps PAIRSEL is the model's reading (DEDUCED, log entry 32), and that a Start replaces one
which still waits for its frame is its choice (DESIGN CHOICE, log entry 50). -/
def Obligations.CrossingAndStreamCommands : Prop :=
  (∀ (s : State), s.unit.window = true →
    ∃ t, exec .controlCrossingRelease s = .next t ∧ t.crossing = s.crossing.filter (fun x => decide (s.clock.ctl < x.at_ + 16)) ∧
      t.clock = s.clock ∧ t.pending = s.pending ∧ t.cfg = s.cfg ∧ t.tiles = s.tiles ∧ t.fuses = s.fuses) ∧
  (∀ (s : State) (p : StreamId), p.toNat < s.parts →
    ((s.stream p).ctx.state = .running →
      ((s.doStop p).stream p).ctx = { (s.stream p).ctx with state := .halted } ∧
      (s.doStop p).collector = collectorInsert s.collector (p, ⟨s.clock.frame, s.clock.offset, false, true, s.unit.attempt⟩)) ∧
    ((s.stream p).ctx.state = .halted ∨ (s.stream p).ctx.state = .faulted →
      ((s.doClear p).stream p).ctx = s.freshCtx p (s.stream p).ctx.pairsel ∧ s.doClear p = { s with streams := (s.doClear p).streams }) ∧
    (∀ f, (s.stream p).ctx.state = .armed ∨ (s.stream p).ctx.state = .halted → framePast f s.clock.frame = false →
      s.doStart p f = s.modStream p (fun x => { x with start := some f, startNow := false })) ∧
    (∀ f, (s.stream p).ctx.state = .armed ∨ (s.stream p).ctx.state = .halted → framePast f s.clock.frame = true → s.domainsOn p = true →
      ((s.doStart p f).stream p).ctx = { (s.stream p).ctx with state := .running } ∧ ((s.doStart p f).stream p).startLate = true ∧
      (∀ q, q ≠ p → (s.doStart p f).stream q = s.stream q) ∧
      (s.doStart p f).unit.state = (if s.unit.state = .armed then .running else s.unit.state)) ∧
    (∀ f, (s.stream p).ctx.state = .faulted → s.doStart p f = (s.modStream p (fun x => { x with refused := true })).freshBit 0x88 p.toNat) ∧
    (∀ f, (s.stream p).ctx.state = .running →
      s.doStart p f = (s.modStream p (fun x => { x with noEffect := true })).freshBit 0x88 (16 + p.toNat)) ∧
    ((s.stream p).ctx.state = .running → s.doClear p = (s.modStream p (fun x => { x with refused := true })).freshBit 0x88 p.toNat) ∧
    ((s.stream p).ctx.state = .armed ∨ (s.stream p).ctx.state = .halted ∨ (s.stream p).ctx.state = .faulted →
      s.doStop p = (s.modStream p (fun x => { x with noEffect := true })).freshBit 0x88 (16 + p.toNat)) ∧
    ((s.stream p).ctx.state = .armed → s.doClear p = (s.modStream p (fun x => { x with noEffect := true })).freshBit 0x88 (16 + p.toNat)) ∧
    ((s.stream p).ctx.state = .idle → ∀ f, let u := (s.modStream p (fun x => { x with refused := true })).freshBit 0x88 p.toNat
      s.doStart p f = u ∧ s.doStop p = u ∧ s.doClear p = u))

/-- FRAME_TIMER_FIRE: a one-shot timer that is due when actions 4 and the timers before it are done fires in the step of the tick: it adds 1
to its tally, counts the firing, shows Fired with LATENESS 0 where it is on time and LATE where it is not, with the frames from TARGET to the
present one as LATENESS, or for the timebase kind d of R75 by the tick's stamp, 65,535 at most, and is no longer Armed; the others stay Armed
as they were (R53, R75, R76). A periodic one fires the same way and stays Armed: its TARGET gains PERIOD frames, and where that is past or
current too it becomes the present frame plus PERIOD (R77); bits 63 to 48 of TARGET, which the frame kinds ignore, are then 0 (the model's
choice, log entry 51). -/
def Obligations.FrameTimerFires : Prop :=
  ∀ (s0 s : State) (n : BitVec 10), s = s0.beforeTimer n.toNat → s0.unit.window = true → s.timerDue n.toNat = true →
    s.timerCfg n.toNat % 4 < 3 → NoEdges s → (∀ w, s.uncorrectable .ledger w = false) →
    let periodic := s.timerCfg n.toNat % 4 = 2
    let next : Frame := BitVec.ofNat 48 (s.timerTarget n.toNat + field (s.timerCfg n.toNat) 18 14)
    let tally := field (s.timerCfg n.toNat) 4 14
    let onTime := s.ledger.lateArmed.contains n.toNat = false ∧
      (s.timerCfg n.toNat % 4 = 1 ∨ s.timerTarget n.toNat % 2 ^ 48 = s.clock.frame.toNat)
    ∃ t, exec (.frameTimerFire n) s0 = .next t ∧ t.tally tally = (s.tally tally + 1) % 2 ^ 32 ∧
      field (t.timerMid n.toNat) 24 8 = (field (s.timerMid n.toNat) 24 8 + 1) % 256 ∧
      (onTime → field (t.timerMid n.toNat) 0 8 = 2 ∧ field (t.timerMid n.toNat) 8 16 = 0) ∧
      (¬onTime → field (t.timerMid n.toNat) 0 8 = 3 ∧ field (t.timerMid n.toNat) 8 16 = min 65535
        (if s.timerCfg n.toNat % 4 = 1 then (s.clock.stamp.toNat - s.timerTarget n.toNat) * coreMHz s.clock.point / 2048000
         else (s.clock.frame - BitVec.ofNat 48 (s.timerTarget n.toNat)).toNat)) ∧ t.timerArmed n.toNat = decide periodic ∧
      (∀ k, k ≠ n.toNat → t.timerArmed k = s.timerArmed k) ∧
      t.timerTarget n.toNat = (if periodic then
          (if framePast next s.clock.frame then s.clock.frame + BitVec.ofNat 48 (field (s.timerCfg n.toNat) 18 14) else next).toNat
        else s.timerTarget n.toNat) ∧ t.pool = s.pool ∧ t.clock = s.clock ∧ t.inflight = s.inflight

/-! ## The row -/

/-- What the row does in a cycle meets the state that the step of its tick leaves (R53).
REPLAY_REQUEST where frames run: a request for the frame in progress is accepted twice; any other frame number, or a third request, is
refused, counted in PSI_REPLAYERRCNT and shown by bit 0 of PSI_ALERT; where no frame commits or rolls back it is ignored without a count (R62,
R65).
INBOUND_VECTOR: at the offset of a landing the bytes of the stream's flumes reach its register four cycles later, without a mark where
every flume carries a valid, unpoisoned vector whose conservation half matches, and with origin upstream otherwise; nothing else than
counters changes in the cycle (R23, R28, R31, R58, R343).
WEIR_RELEASE three cycles before a scheduled release: the weir reads its source; the release carries POISON 0 where every directed write
has arrived and the register is not marked, POISON 1 otherwise, with ROW_SLIP but where the mark's origin is upstream. A register that
reads uncorrectable faults its stream with ECC_UNCORR and is released as one that is not ready (R345; DEDUCED, log entry 67); an entry of the
schedule that does so stops its stream, with cause IMAGE_COPY, and names no release (DESIGN CHOICE, log entry 80). In Recovery the
release carries VALID 1, POISON 1 and CONS 0 with ROW_SLIP, and is counted in PSI_RECOVSLIPCNT (R27, R28, R352); with an entry that
reads uncorrectable nothing is released, and IMAGE_COPY joins the causes shown (log entry 80).
In a cycle without a release every flume drives VALID, POISON, CONS and data 0 with the pair declared for its partition (R58, R85). -/
def Obligations.RowEvents : Prop :=
  (∀ (s0 s : State) (frame : Frame), s = s0.closeTick →
    (framesRun s.unit.state = false → exec (.replayRequest frame) s0 = .next s) ∧
    (framesRun s.unit.state = true → frame = s.clock.frame → s.unit.attempt.toNat < 2 →
      exec (.replayRequest frame) s0 = .next { s with unit := { s.unit with replayReq := true } }) ∧
    (framesRun s.unit.state = true → frame ≠ s.clock.frame ∨ 2 ≤ s.unit.attempt.toNat →
      ∃ t, exec (.replayRequest frame) s0 = .next t ∧ t = { s with unit := t.unit, regs := t.regs } ∧
        t.unit = { s.unit with thirdReq := s.unit.thirdReq || decide (frame = s.clock.frame) } ∧
        t.counter .replayErr = s.counter .replayErr + 1 ∧ t.regs.alert = s.regs.alert ||| 1)) ∧
  (∀ (s0 s : State) (vs : List FlumeIn), s = s0.closeTick → (∀ v ∈ vs, v.data.length = flumeBytes s.cfg) →
    (framesRun s.unit.state = false → exec (.inboundVector vs) s0 = .next s) ∧
    (framesRun s.unit.state = true → (∀ p, s.copyBad (s.landWords p) = false) →
      ∃ t, exec (.inboundVector vs) s0 = .next t ∧ t = { s with inflight := t.inflight, regs := t.regs } ∧ Kept s t ∧
        ∀ (p : StreamId) (r : BitVec 8), p.toNat < s.parts → s.landingNow p = some r →
          ⟨s.clock.offset + 4, p, .landing r (s.landShare p vs)
            (if ∀ f ∈ s.flumesOf p, sbValid (flumeOf s.cfg vs f).1 = true ∧ sbPoison (flumeOf s.cfg vs f).1 = false ∧
                consHalf s.clock.offset (flumeOf s.cfg vs f).2 = sbCons (flumeOf s.cfg vs f).1 then none else some .upstream)⟩ ∈ t.inflight)) ∧
  (∀ (s0 s : State) (p : StreamId) (r : BitVec 8), s = s0.closeTick →
    (s.unit.state ≠ .recovery → s.scheduled p = false ∨ s.releaseNow p = none ∧ s.copyBad (s.releaseWords p) = false →
      exec (.weirRelease p) s0 = .next s) ∧
    (s.unit.state ≠ .recovery → s.scheduled p = true → s.copyBad (s.releaseWords p) = true →
      exec (.weirRelease p) s0 = .next { (s.modStream p (fun x => { x with stuck := true })) with
        unit := { s.unit with causes := s.unit.causes ||| causeImageCopy, copyBad := true } }) ∧
    (s.unit.state ≠ .recovery → s.releaseNow p = some r → s.scheduled p = true →
      let ready := decide (s.directedWrites p r s.clock.offset ≤ (s.stream p).arrived.count r) && !s.tileBad p r
      ∃ t, exec (.weirRelease p) s0 = .next t ∧
        t = { s with streams := t.streams, collector := t.collector, inflight := t.inflight, regs := t.regs } ∧ Kept s t ∧
        (∀ q, q ≠ p → t.stream q = s.stream q) ∧
        (s.tileBad p r = false ∨ (s.stream p).ctx.state ≠ .running → t.streams = s.streams ∧ t.collector = s.collector) ∧
        (s.tileBad p r = true → (s.stream p).ctx.state = .running →
          (t.stream p).ctx = { (s.stream p).ctx with fault := faultECC, faddr := BitVec.ofNat 64 r.toNat, state := .faulted } ∧
          t.collector = collectorInsert s.collector (p, ⟨s.clock.frame, s.clock.offset, true, false, s.unit.attempt⟩)) ∧
        ⟨s.clock.offset + 3, p, .release (s.share p r) (!ready || (s.tileMark p r).isSome)
          (!ready || s.tileMark p r == some .internal)⟩ ∈ t.inflight) ∧
    (s.unit.state = .recovery → (s.image.bank.releases.any (fun x => x.stream == p && x.offset == s.clock.offset)) = true →
      s.image.bank.present p = true → s.copyBad (s.releaseWordsAt p s.clock.offset) = true →
      exec (.weirRelease p) s0 = .next { s with unit := { s.unit with copyBad := true }
                                                recov := { s.recov with cause := s.recov.cause ||| causeImageCopy } }) ∧
    (s.unit.state = .recovery → (s.image.bank.releases.any (fun x => x.stream == p && x.offset == s.clock.offset)) = true →
      s.image.bank.present p = true → s.copyBad (s.releaseWordsAt p s.clock.offset) = false →
      ∃ t, exec (.weirRelease p) s0 = .next t ∧ t = { s with pins := t.pins, regs := t.regs, perf := t.perf } ∧ t.pins.slip = true ∧
        t.counter .recovSlip = s.counter .recovSlip + 1 ∧ t.counter .slip = s.counter .slip ∧
        ∀ f : Fin 16, f.val % s.parts = p.toNat → (∀ b < 512, memGet t.pins.data (f.val * 512 + b) = 0) ∧
          sbValid t.pins.sb[f] = true ∧ sbPoison t.pins.sb[f] = true ∧ sbCons t.pins.sb[f] = 0 ∧
          sbPair t.pins.sb[f] = s.recAt p 6 1 % 16)) ∧
  (∀ (s : State) (f : Fin 16),
    sbValid s.idlePins.pins.sb[f] = false ∧ sbPoison s.idlePins.pins.sb[f] = false ∧ sbCons s.idlePins.pins.sb[f] = 0 ∧
      sbPair s.idlePins.pins.sb[f] = s.recAt (BitVec.ofNat 4 (f.val % s.parts)) 6 1 % 16 ∧
      s.idlePins.pins.data = [] ∧ s.idlePins.pins.slip = false ∧ s.idlePins.pins.resp = s.pins.resp)

/-! ## The Sluice and its memory ports -/

/-- SLUICE_CHECK_PASS of the instruction on a stream's ways, in a cycle after its issue and after the request pass before it: the pass is
decided; without a failure the plan holds the requests of its blocks in order, and the request pass may begin after ⌈n/g⌉ cycles for the n
blocks that make a request, a count that R197 only bounds (DEDUCED, log entry 59); with one the instruction transfers nothing and its fault
waits for the next committing tick (R127, R191, R192). A late index or owner entry suppresses every request that is not transferred yet, and is
counted once (R203).
SLUICE_REQUEST_PASS, its first cycle, after the request pass before it in its direction: of the requests of the plan that are due and whose
addresses carry no mark the first g are formed, in order; the pass ends where that were all, and else goes on in the next cycle. A late BCST
pattern forms none, and is counted once (R203). The port of request number n of stream p is (n + p) mod P, and
a write carries the Pool's bytes as other agents see them, converted on its path (R125, R197, R198, R199, R205). -/
def Obligations.SluicePasses : Prop :=
  (∀ (s : State) (p : StreamId) (write : Bool) (j : SluiceJob), (s.stream p).onWays write = some j →
    (s.stream p).job j.order = some j → s.sluiceActive p = true → s.wayFree p write = true → j.phase = .issued → j.at_ < s.clock.cycles →
    let d := s.image.bank.desc j.f.desc.toNat
    let cs := s.checkBlocks p j d (s.image.bank.memRegion d.region) j.f.count.toNat 0
    let late := cs.any (fun c => c.used.any (fun u => s.landLateIn j.frame p u.1 u.2.1 u.2.2))
    ∃ t j', exec (.sluiceCheckPass p write) s = .next t ∧ t = { s with streams := t.streams, regs := t.regs, perf := t.perf } ∧
      t.counter .landLate = s.counter .landLate + (if late then 1 else 0) ∧
      (∀ q, q ≠ p → t.stream q = s.stream q) ∧ (t.stream p).ctx = (s.stream p).ctx ∧
      (t.stream p).job j.order = some j' ∧ j'.phase = .checked ∧
      (match cs.findSome? (·.fault) with
       | none => j'.failed = j.failed ∧ (t.stream p).faultsDue = (s.stream p).faultsDue ∧
          j'.plan.map (fun b => (b.block, b.bytes)) = (cs.flatMap (·.plan)).map (fun b => (b.block, b.bytes)) ∧
          (late = true → ∀ b ∈ j'.plan, b.taint = true ∨ b.st = .formed ∨ b.st = .sent ∨ b.st = .answered) ∧
          j'.from_ = s.clock.cycles + ceilDiv (j'.plan.countP (fun b => !b.bytes.isEmpty)) (16 / s.parts)
       | some (code, faddr, cause) => j'.failed = true ∧ j'.plan = [] ∧ ∃ due, (t.stream p).faultsDue = (s.stream p).faultsDue ++ [due] ∧
          due.code = code ∧ due.faddr = BitVec.ofInt 64 faddr ∧ due.cause = cause ∧ due.pc = j.pc)) ∧
  (∀ (s : State) (p : StreamId) (j : SluiceJob), (s.stream p).onWays false = some j → (s.stream p).job j.order = some j →
    s.sluiceActive p = true → s.wayFree p false = true → j.phase = .checked → j.at_ < s.clock.cycles → j.from_ ≤ s.clock.cycles → j.fills = [] →
    (∀ b ∈ j.plan, b.taint = false ∧ b.bytes ≠ []) → (∀ o ∈ (s.stream p).jobs, o.defer = []) →
    let due := j.plan.filter (fun b => decide (b.st = .waiting ∨ b.st = .held))
    let now := due.take (16 / s.parts)
    ∃ t j', exec (.sluiceRequestPass p false) s = .next t ∧ t = { s with streams := t.streams, ports := t.ports } ∧
      (∀ q, q ≠ p → t.stream q = s.stream q) ∧ (t.stream p).ctx = (s.stream p).ctx ∧
      (t.stream p).job j.order = some j' ∧ j'.phase = (if due.length ≤ 16 / s.parts then .formed else .forming) ∧
      (t.stream p).formedR = (s.stream p).formedR + now.length ∧
      ∀ i (h : i < now.length), ∃ r ∈ (t.port (((s.stream p).formedR + i + p.toNat) % s.cfg.ports)).reads,
        r.from_ = .stream p j.order ∧ r.block = now[i].block ∧ r.bytes = now[i].bytes ∧ r.num = (s.stream p).formedR + i ∧
          r.formed = s.clock.cycles) ∧
  (∀ (s : State) (p : StreamId) (j : SluiceJob), (s.stream p).onWays true = some j → (s.stream p).job j.order = some j →
    s.formsNow p j = true → s.wayFree p true = true → j.phase = .checked → j.at_ < s.clock.cycles → j.from_ ≤ s.clock.cycles →
    (∀ b ∈ j.plan, b.taint = false) → (∀ o ∈ (s.stream p).jobs, o.defer = []) →
    (s.patternLate p j = true →
      ∃ t, exec (.sluiceRequestPass p true) s = .next t ∧ t = { s with streams := t.streams, regs := t.regs, perf := t.perf } ∧
        (∀ q, q ≠ p → t.stream q = s.stream q) ∧ (t.stream p).formedW = (s.stream p).formedW ∧
        t.counter .landLate = s.counter .landLate + 1) ∧
    (s.patternLate p j = false → s.eccBad = [] → s.eccOne = [] → s.pool.marks = [] →
      (∀ i, (s.port i).wbuf.length + j.plan.length ≤ 5120) →
    let due := j.plan.filter (fun b => decide ((b.st = .waiting ∨ b.st = .held) ∧ b.bytes ≠ []))
    let now := due.take (16 / s.parts)
    let src := fun (b : BlockPlan) => convertBytes j.f.cvt (match j.op with
      | .bcst _ => s.poolView none p j.f.region.toNat j.half j.f.off.toNat 512
      | _ => s.poolView none p j.f.region.toNat j.half (j.f.off.toNat + b.k * scatBlock j.f) (scatBlock j.f))
    ∃ t j', exec (.sluiceRequestPass p true) s = .next t ∧ t = { s with streams := t.streams, ports := t.ports } ∧
      (∀ q, q ≠ p → t.stream q = s.stream q) ∧ (t.stream p).ctx = (s.stream p).ctx ∧
      (t.stream p).job j.order = some j' ∧ j'.phase = (if due.length ≤ 16 / s.parts then .formed else .forming) ∧
      (t.stream p).formedW = (s.stream p).formedW + now.length ∧
      ∀ i (h : i < now.length), ∃ r ∈ (t.port (((s.stream p).formedW + i + p.toNat) % s.cfg.ports)).writes,
        r.from_ = .stream p j.order ∧ r.block = now[i].block ∧ r.num = (s.stream p).formedW + i ∧ r.formed = s.clock.cycles ∧
          (∀ c ∈ r.cells, c.1 ∈ now[i].bytes.map (·.1)) ∧
          ((now[i].bytes.map (·.1)).Nodup → ∀ b ∈ now[i].bytes, (b.1, (src now[i]).getD (b.2 % 512) 0) ∈ r.cells)))

/-- On a machine whose domain SL is On and stays so (R378), a port presents the oldest request that is not held, or else one of the loader or
the scrub engine, with the lowest free tag, and holds request and tag until their transfer, whatever has become ready since (R37, R199).
MEMORY_READ_REQUEST and MEMORY_WRITE_REQUEST: the presented request is transferred with its tag and leaves its queue; the tag is
outstanding from then on; the other ports are as before (R37, R39, R199). -/
def Obligations.MemoryRequestTransfers : Prop :=
  ∀ (s : State) (port : BitVec 3) (r : Req) (tag : BitVec 10), s.portLive port.toNat = true →
    let k := port.toNat
    let q := s.port k
    let shown := (s.presentAt k).port k
    (q.shownR = some (r, tag) → shown.shownR = some (r, tag)) ∧
    (q.shownW = some (r, tag) → shown.shownW = some (r, tag)) ∧
    (s.unit.state ≠ .frozen → s.domReq domSL = 0 → q.freeTag s.clock.cycles = some tag →
      (q.shownR = none → q.afterR ≤ s.clock.cycles → s.shownRead k = some r → shown.shownR = some (r, tag)) ∧
      (q.shownW = none → (q.shownR.isSome ∨ s.shownRead k = none) → q.afterW ≤ s.clock.cycles → s.shownWrite k = some r →
        shown.shownW = some (r, tag))) ∧
    (∀ i, i ≠ k → (s.presentAt k).port i = s.port i) ∧
    (shown.shownR = some (r, tag) →
      ∃ t, exec (.memoryReadRequest port) s = .next t ∧
        (t.port k).tags = q.tags ++ [⟨tag, false, r, s.clock.centre, none⟩] ∧ (t.port k).reads = q.reads.erase r ∧
        (t.port k).writes = q.writes ∧ (t.port k).shownR = none ∧ (t.port k).afterR = s.clock.cycles + 1 ∧ (t.port k).wbuf = q.wbuf ∧
        (∀ i, i ≠ k → t.port i = s.port i) ∧
        t = { s with ports := t.ports, streams := t.streams, regs := t.regs, perf := t.perf, image := t.image }) ∧
    (shown.shownW = some (r, tag) →
      ∃ t, exec (.memoryWriteRequest port) s = .next t ∧
        (t.port k).tags = q.tags ++ [⟨tag, true, r, s.clock.centre, none⟩] ∧ (t.port k).writes = q.writes.erase r ∧
        (t.port k).reads = q.reads ∧ (t.port k).shownW = none ∧ (t.port k).afterW = s.clock.cycles + 1 ∧ (t.port k).wbuf = q.wbuf ∧
        (∀ i, i ≠ k → t.port i = s.port i) ∧
        t = { s with ports := t.ports, streams := t.streams, regs := t.regs, perf := t.perf, image := t.image, scrub := t.scrub })

/-- MEMORY_READ_RESPONSE to a request of a GATH: the tag is free from the next cycle on; with status 0 the bytes of its positions land four
cycles later at the addresses of the job's landing half, the stream's own earlier writes merged in, and with a conversion every element whose
bytes the response brings whole lands converted; with another status nothing lands and the fault waits for the next committing tick (R40, R180,
R201, R202, R208, R225). To the loader: a status other than 0 ends the load with FETCH_ERROR, with DETAIL 0 (DESIGN CHOICE, log entry 41), and an image byte of the step goes to the shadow
store, whose words written whole hold correct code (R319, R320, R345). To the page-in of an overlay: its bytes are kept, or it has failed (R334, R335).
MEMORY_WRITE_RESPONSE to a stream's request: the tag is free from the next cycle on, and the entry of the request in its port's write buffer
is answered; a status other than 0 lets a fault wait for the next committing tick (R40, R199, R205, R207). To one of the scrub engine: a status
other than 0 adds to its error count, and the first of an entry makes an event record, while that scrub has not been cut off (R217; log
entry 52). -/
def Obligations.MemoryResponses : Prop :=
  (∀ (s : State) (port : BitVec 3) (tag : BitVec 10) (stat : BitVec 2) (data : List Byte) (e : Tag) (p : StreamId) (order : Nat)
    (j : SluiceJob), s.respLive port.toNat = true → s.unit.state ≠ .frozen → data.length = 512 →
    (s.port port.toNat).tags.find? (fun x => x.tag == tag && !x.write && x.held.isNone) = some e → e.req.from_ = .stream p order →
    e.req.old = false → (s.stream p).job order = some j → (e.req.bytes.map (·.2)).Nodup → e.req.bytes ≠ [] →
    (s.stream p).writesBefore order = false →
    let em := fmtBytes (cvtSrc j.f.cvt)
    ∃ t, exec (.memoryReadResponse port tag stat data) s = .next t ∧
      t = { s with ports := t.ports, streams := t.streams, regs := t.regs, inflight := t.inflight } ∧
      (t.port port.toNat).tags = (s.port port.toNat).tags.filter (fun x => x.tag != tag) ∧
      (tag, s.clock.cycles) ∈ (t.port port.toNat).freed ∧ (∀ q, q ≠ p → t.stream q = s.stream q) ∧
      (if stat = 0 then
        (j.f.cvt = 0 → ⟨s.clock.offset + 4, p, .land order
          (e.req.bytes.map (fun b => (s.poolAddr j.f.region.toNat p j.half (j.f.off.toNat + b.2), s.merged p order e.req.block data b.1)))
          (e.req.bytes.map (·.2))⟩ ∈ t.inflight) ∧
        (j.f.cvt ≠ 0 → 0 < em → j.raw = [] → (∃ h, h % em = 0 ∧ ∀ i < em, h + i ∈ e.req.bytes.map (·.2)) →
          ∃ cells done, ⟨s.clock.offset + 4, p, .land order cells done⟩ ∈ t.inflight ∧
            ∀ (h : Nat) (vals : List Byte), h % em = 0 → vals.length = em → (∀ i < em, h + i ∈ e.req.bytes.map (·.2)) →
              (∀ i < em, ∀ b ∈ e.req.bytes, b.2 = h + i → vals[i]? = some (s.merged p order e.req.block data b.1)) →
              (∀ i < em, h + i ∈ done) ∧
              ∀ i < (convertBytes j.f.cvt vals).length,
                (s.poolAddr j.f.region.toNat p j.half (j.f.off.toNat + (h / em * fmtBytes (cvtDst j.f.cvt) + i)),
                  (convertBytes j.f.cvt vals).getD i 0) ∈ cells)
       else t.inflight = s.inflight ∧ ∃ due, (t.stream p).faultsDue = (s.stream p).faultsDue ++ [due] ∧
          due.code = (if stat = 2 then faultPROT else faultECC) ∧ due.faddr = BitVec.ofNat 64 (512 * e.req.block) ∧ due.pc = j.pc)) ∧
  (∀ (s : State) (port : BitVec 3) (tag : BitVec 10) (stat : BitVec 2) (e : Tag) (p : StreamId) (order : Nat),
    s.respLive port.toNat = true → s.unit.state ≠ .frozen →
    (s.port port.toNat).tags.find? (fun x => x.tag == tag && x.write && x.held.isNone) = some e → e.req.from_ = .stream p order →
    ∃ t, exec (.memoryWriteResponse port tag stat) s = .next t ∧ t = { s with ports := t.ports, streams := t.streams, regs := t.regs } ∧
      (t.port port.toNat).tags = (s.port port.toNat).tags.filter (fun x => x.tag != tag) ∧
      (tag, s.clock.cycles) ∈ (t.port port.toNat).freed ∧ (∀ q, q ≠ p → t.stream q = s.stream q) ∧
      (∀ i, ∀ w ∈ (t.port i).wbuf, w.stream = p → w.order = order → w.block = e.req.block → w.num = e.req.num → w.tick = e.req.tick →
        w.answered = true) ∧
      (stat = 0 → (t.stream p).faultsDue = (s.stream p).faultsDue) ∧
      (stat ≠ 0 → ∃ due, (t.stream p).faultsDue = (s.stream p).faultsDue ++ [due] ∧
        due.code = (if stat = 2 then faultPROT else faultECC) ∧ due.faddr = BitVec.ofNat 64 (512 * e.req.block))) ∧
  (∀ (s : State) (port : BitVec 3) (tag : BitVec 10) (stat : BitVec 2) (data : List Byte) (e : Tag),
    s.respLive port.toNat = true → s.unit.state ≠ .frozen → data.length = 512 →
    (s.port port.toNat).tags.find? (fun x => x.tag == tag && !x.write && x.held.isNone) = some e →
    (∀ gen step m, e.req.from_ = .loader gen step m → ∀ l, s.image.loader = some l → l.gen = gen → l.step = step → l.verdict = none →
      ∃ t, exec (.memoryReadResponse port tag stat data) s = .next t ∧
        t = { s with ports := t.ports, image := t.image, regs := t.regs, eccBad := t.eccBad, eccOne := t.eccOne, eccCover := t.eccCover } ∧
        (t.port port.toNat).tags = (s.port port.toNat).tags.filter (fun x => x.tag != tag) ∧
        (stat = 0 → step < 2 → ∀ r, loadRange s.image.shadow.bytes step = some r → ∀ w,
          (∀ b < 8, 512 * m ≤ 8 * w + b ∧ 8 * w + b < 512 * m + 512 ∧ r.1 ≤ 8 * w + b ∧ 8 * w + b < r.2) →
          (Store.imageStores, w + 2 ^ 21) ∉ t.eccBad) ∧
        (stat ≠ 0 → t.regs = s.regs ∧ t.eccBad = s.eccBad ∧ t.image = { s.image with loader := some { l with verdict := some (codeFetchError, 0) } }) ∧
        (stat = 0 → step < 2 → ∀ r, loadRange s.image.shadow.bytes step = some r → ∀ a, memGet t.image.shadow.bytes a =
          (if 512 * m ≤ a ∧ a < 512 * m + 512 ∧ r.1 ≤ a ∧ a < r.2 then data.getD (a - 512 * m) 0 else memGet s.image.shadow.bytes a))) ∧
    (∀ gen m, e.req.from_ = .overlay gen m →
      ∃ t, exec (.memoryReadResponse port tag stat data) s = .next t ∧ t = { s with ports := t.ports, image := t.image } ∧
        (t.port port.toNat).tags = (s.port port.toNat).tags.filter (fun x => x.tag != tag) ∧
        t.image = { s.image with overlays := t.image.overlays } ∧
        ∀ (i : Nat) (c : OverlayCmd), s.image.overlays[i]? = some c → ∃ d, t.image.overlays[i]? = some d ∧
          (if c.gen = gen ∧ c.bad = none then (if stat = 0 then d = { c with got := d.got, bytes := d.bytes } ∧ m ∈ d.got ∧
              ∀ a, memGet d.bytes a = (if 512 * m ≤ a ∧ a < 512 * m + 512 then data.getD (a - 512 * m) 0 else memGet c.bytes a)
            else d = { c with bad := some 2 }) else d = c))) ∧
  (∀ (s : State) (port : BitVec 3) (tag : BitVec 10) (stat : BitVec 2) (e : Tag) (entry : Nat),
    s.respLive port.toNat = true → s.unit.state ≠ .frozen →
    (s.port port.toNat).tags.find? (fun x => x.tag == tag && x.write && x.held.isNone) = some e → e.req.from_ = .scrub entry →
    ∃ t, exec (.memoryWriteResponse port tag stat) s = .next t ∧
      t = { s with ports := t.ports, scrub := { s.scrub with errTgt := t.scrub.errTgt, errData := t.scrub.errData, failed := t.scrub.failed },
                   crossing := t.crossing } ∧
      (t.port port.toNat).tags = (s.port port.toNat).tags.filter (fun x => x.tag != tag) ∧
      (e.req.old = true → t.scrub = s.scrub ∧ t.crossing = s.crossing) ∧
      (e.req.old = false →
      t.scrub.errTgt = (if stat = 2 then sat16 s.scrub.errTgt else s.scrub.errTgt) ∧
      t.scrub.errData = (if stat ≠ 0 ∧ stat ≠ 2 then sat16 s.scrub.errData else s.scrub.errData) ∧
      (stat ≠ 0 → entry ∈ t.scrub.failed) ∧
      t.crossing = (if stat = 0 ∨ entry ∈ s.scrub.failed then s.crossing
        else s.crossing ++ [⟨s.clock.ctl, .record (mkRec 0x000B 3 0xFF entry (512 * e.req.block) stat.toNat 0)⟩])))

/-- A response whose tag is not outstanding on its port and channel is discarded and counted in PSI_PORTERRCNT; every outstanding tag, one on
the other channel with the same number among them, stays outstanding (R41). -/
def Obligations.UnknownTagDiscarded : Prop :=
  ∀ (s : State) (port : BitVec 3) (tag : BitVec 10) (stat : BitVec 2) (data : List Byte), s.respLive port.toNat = true →
    ((∀ x ∈ (s.port port.toNat).tags, x.tag = tag → x.write = false → x.held ≠ none) → data.length = 512 →
      ∃ t, exec (.memoryReadResponse port tag stat data) s = .next t ∧ t = { s with regs := t.regs } ∧
        t.counter .portErr = s.counter .portErr + 1) ∧
    ((∀ x ∈ (s.port port.toNat).tags, x.tag = tag → x.write = true → x.held ≠ none) →
      ∃ t, exec (.memoryWriteResponse port tag stat) s = .next t ∧ t = { s with regs := t.regs } ∧
        t.counter .portErr = s.counter .portErr + 1)

/-! ## Pool and patrol -/

/-- POOL_WRITE_DRAIN, in a cycle in which the word's bank serves no read of the set's stream and has served nothing: the oldest word of the set's
write buffer, once every agent sees it, goes to its bank: the bytes of that word take the entry's values, every other byte of the banks is as
before, and no other entry changes; where the bank has served, nothing drains (R271, R272), and that nothing drains either where the stream
may yet read that bank in the cycle is the model's reading of a bank that serves a read (DEDUCED, log entry 63).
CHURN_REKEY_STEP in the freeboard offsets 2,000 to 2,031, with the banks of its words idle: one step of the re-key under way moves its words
and uses their banks, and the frame has no further one: every byte of the region, which R266 finds at its new place, reads as before to every agent, and so does every byte outside the
set-rows r with r mod 8 = q; the last step puts the new key in force, with PSI_CHURNCNT and a record (R52, R277). That all words of a step
move at its first cycle is the model's choice (DESIGN CHOICE, log entry 63).
PATROL of a word with one flipped bit: it is corrected and counted for its store; a Pool word with a pending write is not
written back (R346). -/
def Obligations.PoolBackground : Prop :=
  (∀ (s0 s : State) (set : StreamId) (pre post : List PoolEntry) (x : PoolEntry), s = s0.closeTick → s.coresLive = true →
    s.pool.wbuf = pre ++ x :: post → (∀ y ∈ pre, y.set ≠ set) → x.set = set → x.others ≤ s.clock.offset → (x.cells.map (·.1)).Nodup →
    (∀ c ∈ x.word.1, s.bankAt c.1 ∉ s.nextReads set ∧ s.bankAt c.1 ∉ s.cycle.banks) →
    ∃ t, exec (.poolWriteDrain set) s0 = .next t ∧
      t = { s with pool := t.pool, cycle := t.cycle, eccBad := t.eccBad, eccOne := t.eccOne, eccCover := t.eccCover } ∧
      (∀ c ∈ x.word.1, s.bankAt c.1 ∈ t.cycle.banks) ∧
      (∀ c ∈ x.word.1, memGet t.pool.bytes c.1 = c.2) ∧
      (∀ a, (∀ c ∈ x.word.1, c.1 ≠ a) → memGet t.pool.bytes a = memGet s.pool.bytes a) ∧
      t.pool.wbuf = pre ++ (if x.word.2 = [] then [] else [{ x with cells := x.word.2 }]) ++ post ∧
      (∀ c ∈ x.cells, c ∈ x.word.1 ∨ c ∈ x.word.2)) ∧
  (∀ (s0 s : State) (set : StreamId), s = s0.closeTick →
    (∃ b, s.drainBank set = some b ∧ (b ∈ s.nextReads set ∨ b ∈ s.cycle.banks)) → exec (.poolWriteDrain set) s0 = .next s) ∧
  (∀ (s : State) (k : Rekey), framesRun s.unit.state = true → 2000 ≤ s.clock.offset → s.clock.offset ≤ 2031 → s.rekeyDue = some k →
    (s.rekeyFits k = false → exec .churnRekeyStep s = .next s) ∧
    (s.rekeyFits k = true →
    ∃ t, exec .churnRekeyStep s = .next t ∧ t.cycle.banks = s.cycle.banks ++ s.rekeyBanks k ∧
      t = { s with pool := t.pool, cycle := t.cycle, regs := t.regs, crossing := t.crossing, power := t.power, log := t.log, ao := t.ao, eccBad := t.eccBad,
                   eccOne := t.eccOne, eccCover := t.eccCover } ∧ t.pool.churn.stepTick = some s.clock.ticks ∧ t.rekeyDue = none ∧
      (k.step ≠ 7 → t.pool.churn.step = some { k with step := k.step + 1 } ∧ t.pool.churn.keys = s.pool.churn.keys ∧
        t.crossing = s.crossing) ∧
      (k.step = 7 → t.pool.churn.step = none ∧ sparseGet 0 t.pool.churn.keys k.region.toNat = k.key ∧
        t.counter .churn = s.counter .churn + 1 ∧ t.crossing.length = s.crossing.length + 1) ∧
      (Memory.wf s.pool.bytes = true →
        let g := s.image.bank.region k.region.toNat
        (∀ (set : StreamId) (h o : Nat) (viewer : Option StreamId) (cycle : Nat), set ∈ s.copySets k.region.toNat →
          h < (if g.halved then 2 else 1) → o < 32 * s.setBanks * g.rows →
          t.poolByte viewer cycle (t.poolAddr k.region.toNat set h o) = s.poolByte viewer cycle (s.poolAddr k.region.toNat set h o)) ∧
        (∀ (a : Nat) (viewer : Option StreamId) (cycle : Nat),
          (∀ h row, h < (if g.halved then 2 else 1) → row < g.rows → row % 8 = k.step →
            a / (32 * s.cfg.banks) ≠ g.row + h * (g.nrow / 2) + row) → t.poolByte viewer cycle a = s.poolByte viewer cycle a)))) ∧
  (∀ (s : State) (store : Store) (word : Nat), s.coresLive = true → (store, word) ∈ s.eccOne → (store, word) ∉ s.eccBad →
    ∃ t, exec (.patrol store word) s = .next t ∧ t = { s with regs := t.regs, eccBad := t.eccBad, eccOne := t.eccOne, eccCover := t.eccCover } ∧
      sparseGet 0 t.regs.counts (0x0860 + 4 * storeIndex store) = sparseGet 0 s.regs.counts (0x0860 + 4 * storeIndex store) + 1 ∧
      (if store = .pool ∧ s.pendingWord word = true then t.eccOne = s.eccOne
       else t.eccOne = s.eccOne.filter (fun x => x ≠ (store, word))))

/-! ## The image's events -/

/-- LOAD_COMPLETE: the verdict of the checks and of admission stands in CODE and DETAIL, the shadow image is present and admitted exactly where it
names no breach, the loader is free, and in Hold a failed load names itself as the REASON (R320 to R322, R325); that a failed load leaves the
shadow store not present is the model's reading (DEDUCED, log entry 41).
OVERLAY_CHECKED: the buffered copy whose blocks have all come is compared with its digest; a match makes it installable, a mismatch is
due as OVERLAY_FAULT at the next tick; no stream and no program changes (R334, R335). -/
def Obligations.LoaderChecks : Prop :=
  (∀ (s : State) (l : Loader), s.image.loader = some l → loading s.unit.state = true → loadEnded s.image.shadow l = true →
    let v := match l.verdict with | some v => some v | none => s.admission
    ∃ t, exec .loadComplete s = .next t ∧ t.image.loader = none ∧ t.image.shadow.admitted = v.isNone ∧ t.image.shadow.present = v.isNone ∧
      t.regs.imgCode = (v.elim 0 (·.1)) ∧ t.regs.imgDetail = (v.elim 0 (·.2)) ∧ t.unit.state = s.unit.state ∧
      t.unit.reason = (if s.unit.state = .hold ∧ v.isSome then v.elim 0 (·.1) else s.unit.reason) ∧
      t.image.active = s.image.active ∧ t.image.bank = s.image.bank ∧ t.streams = s.streams ∧ t.pool = s.pool ∧ t.ledger = s.ledger) ∧
  (∀ (s : State) (pre post : List OverlayCmd) (c : OverlayCmd) (o : OverlayInfo), s.unit.state ≠ .frozen → s.unit.matrixOff = false →
    s.image.overlays = pre ++ c :: post → (∀ d ∈ pre, d.checked = true ∨ d.bad.isSome) → c.checked = false → c.bad = none →
    (∀ d ∈ pre ++ post, d.gen ≠ c.gen) → s.overlayKept c.overlay = some o → (blocksOf (overlayRange o)).all c.got.contains = true →
    exec .overlayChecked s = .next { s with image := { s.image with overlays := pre ++
      (if sha384 (readBytes c.bytes (o.offset % 512) o.size) = o.digest then { c with checked := true } else { c with bad := some 0 }) :: post } })

/-- The clear engine: in a cycle in which it may run and no bank has served, it writes 0 to one set-row of every set, and to nothing else, and goes
on to the next until all 2,048 are clear (R275, R328); that it goes from set-row r to r + 1 is the model's choice (DESIGN CHOICE, log
entry 81).
INITIALISATION_COMPLETE, once the clear engine has ended and every domain is On with no other request: the internal stores hold the active
image's sections; the Pool's write buffers and marks, the wells and the in-use flags are clear, no sub-slot is valid but those of the settings
section, whose bytes are written in the form of the Store, the Ledger is zero but for the initial entries in their order, and every stream is
Idle (R152, R328, R380). Half 0 of every region is current (DESIGN CHOICE, log entry 5). The next tick enters Armed, with the RWL fields
locked and the context of R89 in every stream that the image gives a program (R15, R89, R328); that its PAIRSEL is 0 is the model's reading
(DEDUCED, log entry 32).
STAGING_COMPLETE: the staged banks hold the shadow image's sections; the running image's banks and valid sub-slots are as before (R336). -/
def Obligations.ImageStores : Prop :=
  (∀ (s : State) (r : Nat), s.unit.clear = some r → s.clearing = true → s.cycle.banks = [] →
    let n := 32 * s.cfg.banks
    let t := s.clearStep
    t.unit = { s.unit with clear := if r + 1 < 2048 then some (r + 1) else none } ∧
      (∀ a, n * r ≤ a → a < n * (r + 1) → memGet t.pool.bytes a = 0) ∧
      (∀ a, a < n * r ∨ n * (r + 1) ≤ a → memGet t.pool.bytes a = memGet s.pool.bytes a) ∧
      t = { s with unit := t.unit, pool := { s.pool with bytes := t.pool.bytes }, cycle := t.cycle, eccBad := t.eccBad, eccOne := t.eccOne,
                   eccCover := t.eccCover }) ∧
  (∀ (s : State), s.unit.initAt.isSome → s.unit.initDone = false → s.unit.clear = none → s.unit.state = .hold →
    (∀ d ∈ s.switchable, s.domReq d = 0 ∧ s.domCur d = 0) →
    let m := s.image.active.bytes
    ∃ t, exec .initialisationComplete s = .next t ∧ t.unit = { s.unit with initDone := true } ∧ t.image.bank = imageBank m ∧
      t.image.active = s.image.active ∧ t.pool.bytes = s.pool.bytes ∧ t.pool.wbuf = [] ∧ t.pool.half = [] ∧ t.tileUse = [] ∧ t.basin.wells = [] ∧
      t.ledger.armed = [] ∧ t.ledger.bytes = (ledgerEntries m).foldl (fun b x => writeBytes b x.write.1 x.write.2) [] ∧
      t.settings.bytes = (settingEntries s.cfg m).foldl (fun b x => writeBytes b (slotPlace s.cfg t.cut (x.slot * 16 + x.sub))
        (reformBytes (s.cfg.laneBits - t.cut) none (localStage s.storeForm t.cut) x.bytes)) s.settings.bytes ∧
      (∀ n, t.settingValid n = true ↔ ∃ x ∈ settingEntries s.cfg m, x.slot * 16 + x.sub = n) ∧
      (∀ p, (t.stream p).ctx = Ctx.idle ∧ (t.stream p).effects = [] ∧ (t.stream p).jobs = [] ∧ (t.stream p).stat = (s.stream p).stat) ∧
      t.log = s.log ∧ t.clock = s.clock) ∧
  (∀ (s : State) (frame : Frame), s.unit.initDone = true → s.unit.state = .hold → s.unit.limpDue = false → s.unit.noCore = false →
    0 < s.clock.offset → s.freezes = false → s.image.overlays = [] → (∀ p, (s.stream p).start = none) →
    ∃ t, exec (.rowTick frame) s = .next t ∧ t.unit.state = .armed ∧ t.unit.locked = true ∧
      ∀ p, s.present p = true → (t.stream p).ctx = s.freshCtx p 0) ∧
  (∀ (s : State) (x : Exchange), s.image.exchange = some x → x.staged = false → s.unit.state ≠ .frozen → s.unit.matrixOff = false →
    ∃ t, exec .stagingComplete s = .next t ∧ t.image.staged = imageBank s.image.shadow.bytes ∧ t.image.exchange = some { x with staged := true } ∧
      t.image.bank = s.image.bank ∧ t.settings.valid = s.settings.valid ∧
      t = { s with image := t.image, settings := t.settings, regs := t.regs, eccBad := t.eccBad, eccOne := t.eccOne, eccCover := t.eccCover })

/-- ON_LINE_EXCHANGE at a committing tick at or after the named frame, with staging complete, after what the tick releases (R53): the staged
banks are in force, active and shadow change roles, the staged sub-slots are the valid ones, the wells are clear, the overlays are dropped, and
every stream has the context of R89 under the new image, Running where its record says so (R89, R103, R246, R336, R337). That its PAIRSEL is kept
is the model's reading (DEDUCED, log entry 32). -/
def Obligations.ExchangeHappens : Prop :=
  ∀ (s0 s : State) (x : Exchange), s = s0.crossingStep → s0.unit.window = true →
    s.image.exchange = some x → x.staged = true → s.unit.window = true → s.unit.committing = true →
    framePast x.frame s.clock.frame = true → (s.unit.state = .armed ∨ s.unit.state = .running) →
    let new := s.image.staged
    ∃ t, exec .onLineExchange s0 = .next t ∧ t.image.bank = new ∧ t.image.active = s.image.shadow ∧ t.image.shadow = s.image.active ∧
      t.image.exchange = none ∧ t.image.overlays = [] ∧ t.settings.valid = s.settings.staged ∧ t.settings.bytes = s.settings.bytes ∧
      t.basin.wells = [] ∧ t.pool.bytes = s.pool.bytes ∧ t.tiles = s.tiles ∧ t.clock = s.clock ∧
      (∀ p, new.present p = false → (t.stream p).ctx = Ctx.idle) ∧
      (∀ p, new.present p = true → (t.stream p).ctx =
        { t.freshCtx p (s.stream p).ctx.pairsel with state := if bitOf (new.recAt p 0 1) 1 then .running else .armed })

/-- DRAIN_COMPLETE at a tick after the one at which Draining began, with no request and no Setter computation left, after what the tick releases
(R53): DRAIN ends in Armed, with every stream that the image gives a program in the context of R89, UNLOAD in Hold with REASON 9 (R89, R326,
R327). That the context keeps PAIRSEL is the model's reading (DEDUCED, log entry 32). -/
def Obligations.DrainCompletes : Prop :=
  ∀ (s0 s : State) (a : AfterDrain), s = s0.crossingStep.exchangeStep → s0.unit.window = true → s.unit.drainTo = some a → s.unit.state = .draining → s.unit.window = true → s.unit.drainTick < s.clock.ticks →
    s.anyRequest = false → (∀ p ∈ allStreams, (s.stream p).setterOpen = false) →
    ∃ t, exec .drainComplete s0 = .next t ∧ t.clock = s.clock ∧ t.pool = s.pool ∧ t.ledger = s.ledger ∧
      (a = .hold → t.unit.state = .hold ∧ t.unit.reason = 9 ∧ t.unit.locked = false ∧ ∀ p, (t.stream p).ctx = Ctx.idle) ∧
      (a = .armed → t.unit.state = .armed ∧ t.unit.locked = true ∧ ∀ p,
        (t.stream p).ctx = (if s.present p then s.freshCtx p (s.stream p).ctx.pairsel else (s.stream p).ctx))

/-! ## Recovery, cores and the fast matrix -/

/-- A frame number that is not the expected one is counted in PSI_ROWERRCNT, shown by bit 1 of PSI_ALERT, and a cause (R66); a tick with a cause
enters Recovery once, after the frame has committed or rolled back, with all causes shown, the contexts held and G the frame that it would have
opened (R351, R422). The first tick that presents G, of the 65,536 from READY on, leaves Recovery for Running, or for Armed where no held
context is Running (R353); that the contexts stay as held also where Armed follows is the model's reading of R353 against R89 (DEDUCED, log entry
75).
PROBE_RESULT at or after offset 140 of the probe frame: PSI_PROBESTAT shows the outcome, and Hold is due at the next tick exactly where a row of
R350 names a reason; the first tick at which the log has room for F2's record enters it with that REASON and the recovery bit of PSI_ALERT (R304,
R311, R326, R349, R350, R356); that Hold waits from tick to tick for that room is the model's reading (DEDUCED, log entry 61).
Without a defect every output lane has, under each probe setting, the lane that the setting sends there, whatever SXPOS replaces; a setting
passes exactly where in all four passes every lane shows the byte of that lane; so a sound Cascade passes, and the firmware goes on (R349, R350).
RESUME_TIMEOUT, after what the tick releases: Hold with RESUME_TIMEOUT 65,536 ticks after READY (R53, R353). REFORM_COMPLETE: each valid sub-slot under the cut in force, and each
staged one under the cut of its image, has the three steps of R161 done on its bytes; every other byte of the Store is as before (R161, R336).
IMAGE_COPY_REWRITE: the banks that hold an uncorrectable word are those of the active image, the others as before, or Hold with IMAGE_ECC is
due at the next tick (R351). -/
def Obligations.RecoveryEvents : Prop :=
  (∀ (s : State), s.unit.state = .recovery → s.recov.probeTick = some s.clock.ticks → 140 ≤ s.clock.offset →
    ∃ t, exec .probeResult s = .next t ∧ t.recov.probeDone = true ∧ t.recov.probeTick = none ∧
      t.recov.probeFail = BitVec.ofNat 26 (s.probeOutcome.foldl (fun v x => v + 2 ^ x.1) 0) ∧
      (match s.probeVerdict s.probeOutcome with
       | none => t = { s with recov := t.recov }
       | some r => t.unit = { s.unit with holdDue := some r } ∧ t = { s with recov := t.recov, unit := t.unit })) ∧
  (∀ (s : State) (r : BitVec 8), s.unit.holdDue = some r → s.unit.state = .recovery → s.unit.limpDue = false →
    (s.logRoom = false → s.dueTransitions = s) ∧
    (s.logRoom = true → s.dueTransitions.unit.state = .hold ∧ s.dueTransitions.unit.reason = r ∧ s.dueTransitions.regs.alert.getLsbD 5 = true)) ∧
  (∀ (s : State),
    (∀ g < 2 * s.cfg.laneBits,
      (s.defects = [] → ∀ lane < 2 ^ s.cfg.laneBits,
        s.sourceLane s.settings.sxpos.toNat (probeBit g) s.stagesBack lane = probeSource s.cfg.laneBits g lane) ∧
      ((∃ l, (g, l) ∈ s.probeOutcome) ↔ ∃ lane < 2 ^ s.cfg.laneBits, ∃ d < 4,
        probeByte d (s.sourceLane s.settings.sxpos.toNat (probeBit g) s.stagesBack lane) ≠ probeByte d (probeSource s.cfg.laneBits g lane))) ∧
    (s.defects = [] → s.probeOutcome = [] ∧ s.probeVerdict s.probeOutcome = none)) ∧
  (∀ (s : State) (ended frame : Frame) (len : Nat),
    let rolled := s.unit.replayReq || decide (len < 2048)
    let expected := if rolled then ended else ended + 1
    let causes := s.causesNow (decide (len < 2048)) (decide (frame ≠ expected))
    let t := s.closeFrame ended frame len
    (frame ≠ expected → causes.getLsbD 1 = true ∧ t.counter .rowErr = s.counter .rowErr + 1 ∧ t.regs.alert.getLsbD 1 = true) ∧
    (causes ≠ 0 → s.unit.state ≠ .limp → t.unit.state = .recovery ∧ t.recov.cause = causes ∧ t.unit.resumeG = expected ∧ t.unit.ready = false ∧
      t.unit.gReplay = rolled ∧ t.regs.alert.getLsbD 5 = true ∧ ∀ p, (t.stream p).ctx =
        (if rolled then { (s.stream p).snap with latch := 0 } else ((s.commitFrame ended len).stream p).ctx))) ∧
  (∀ (s : State), s.unit.state = .recovery →
    (s.unit.ready = true → s.clock.frame = s.unit.resumeG → s.clock.ticks < s.unit.readyTick + 65536 →
      s.tryResume.unit.state = (if s.anyRunning then .running else .armed) ∧ s.tryResume.unit.ready = false ∧ s.tryResume.streams = s.streams ∧
      s.tryResume.unit.attempt = (if s.unit.gReplay then s.unit.attempt else 0)) ∧
    (s.unit.ready = false ∨ s.clock.frame ≠ s.unit.resumeG → s.tryResume = s)) ∧
  (∀ (s0 s : State), s = s0.crossingStep.exchangeStep.drainStep → s.unit.state = .recovery → s.unit.ready = true → s.unit.window = true →
    s.unit.readyTick + 65536 ≤ s.clock.ticks →
    ∃ t, exec .resumeTimeout s0 = .next t ∧ t.unit.state = .hold ∧ t.unit.reason = 0x44 ∧ t.regs.alert.getLsbD 5 = true) ∧
  (∀ (s : State),
    (∀ q, s.settings.reform = some q → 2047 ≤ s.clock.offset → s.unit.state ≠ .frozen → s.unit.matrixOff = false →
      sxLegal s.cfg q.toNat = true → sxLegal s.cfg s.settings.sxpos.toNat = true → s.cut ≤ 4 → s.image.staged.cut ≤ 4 →
      let l := s.settings.valid.map (fun n => (s.cut, n)) ++ s.settings.staged.map (fun n => (s.image.staged.cut, n))
      let place := fun (x : Nat × Nat) => slotPlace s.cfg x.1 x.2
      let used := fun (x : Nat × Nat) => usedBytes s.cfg x.1
      l.Pairwise (fun x y => rangesMeet (place x) (used x) (place y) (used y) = false) →
      ∃ t, exec .reformComplete s = .next t ∧
        t = { s with settings := { s.settings with bytes := t.settings.bytes, reform := none }, regs := t.regs, eccBad := t.eccBad,
                     eccOne := t.eccOne, eccCover := t.eccCover } ∧
        (∀ x ∈ l, readBytes t.settings.bytes (place x) (used x) =
          reformBytes (s.cfg.laneBits - x.1) (localStage q x.1) (localStage s.settings.sxpos x.1) (readBytes s.settings.bytes (place x) (used x))) ∧
        ∀ a, (∀ x ∈ l, a < place x ∨ place x + used x ≤ a) → memGet t.settings.bytes a = memGet s.settings.bytes a) ∧
    (s.unit.state = .recovery → s.unit.copyBad = true → s.imageBad = true →
      exec .imageCopyRewrite s = .next { s with unit := { s.unit with holdDue := some 0x45 } }) ∧
    (s.unit.state = .recovery → s.unit.copyBad = true → s.imageBad = false →
      let new := imageBank s.image.active.bytes
      let from_ := fun (n : Nat) => if n ∈ s.badBanks then new else s.image.bank
      ∃ t, exec .imageCopyRewrite s = .next t ∧ t.unit = { s.unit with copyBad := false } ∧ (∀ w, (Store.imageCopies, w) ∉ t.eccBad) ∧
        t = { s with image := t.image, unit := t.unit, regs := t.regs, eccBad := t.eccBad, eccOne := t.eccOne, eccCover := t.eccCover } ∧
        t.image = { s.image with bank := t.image.bank } ∧ t.image.bank.streamTable = s.image.bank.streamTable ∧
        t.image.bank.descs = (from_ 16).descs ∧ t.image.bank.memRegions = (from_ 17).memRegions ∧
        t.image.bank.poolRegions = (from_ 18).poolRegions ∧
        ∀ p < 16, t.image.bank.programs.filter (fun e => e.1 / 8192 == p) = (from_ p).programs.filter (fun e => e.1 / 8192 == p) ∧
          t.image.bank.seeds.filter (fun e => e.1 / 256 == p) = (from_ (19 + p)).seeds.filter (fun e => e.1 / 256 == p) ∧
          t.image.bank.landings.filter (fun e => e.stream.toNat == p) = (from_ (35 + p)).landings.filter (fun e => e.stream.toNat == p) ∧
          t.image.bank.releases.filter (fun e => e.stream.toNat == p) = (from_ (35 + p)).releases.filter (fun e => e.stream.toNat == p)))

/-- WATCHDOG_EXPIRY: 100,000,000 tb after its last write the core is marked failed and its functions pass to the standby, or else to the lowest
core that has not failed, with bit 4 of PSI_ALERT; with no core left bit 2 is set, and from the states that R326 names for it Hold is due at the
next tick; the failure of CC0 in Limp leads to Hold with NO_CORE at once, also where no core
remains (log entry 24, DEDUCED: R293 has it at the next tick) (R293, R326). No stream changes but in that Hold.
MATRIX_FAULT: in a state with a fast matrix it leads to Limp with CC0 holding F0 and F2, at the next tick from the states that are left at ticks
only, and to Hold for want of a core at the next tick where CC0 has failed; bit 3 of PSI_ALERT is set; elsewhere nothing happens (R301, R326). -/
def Obligations.CoresAndMatrixFail : Prop :=
  (∀ (s : State) (c : BitVec 2), s.unit.state ≠ .off → s.unit.state ≠ .reset → s.unit.state ≠ .frozen → s.holdsFunction c = true →
    s.cores.failed.getLsbD c.toNat = false →
    (s.cores.kicked[c.toNat]'(by have := c.isLt; omega)).toNat + 100000000 ≤ s.clock.control.toNat →
    let failed := s.cores.failed ||| BitVec.ofNat 4 (2 ^ c.toNat)
    ∃ t, exec (.watchdogExpiry c) s = .next t ∧ t.cores.failed = failed ∧
      (s.unit.state ≠ .limp ∨ c ≠ 0 → t.streams = s.streams ∧ t.unit.state = s.unit.state) ∧
      (s.unit.state = .limp → c = 0 → t.unit.state = .hold ∧ t.unit.reason = 7 ∧ ∀ p, (t.stream p).ctx = Ctx.idle) ∧
      (match s.cores.receiver failed with
       | none => t.unit.noCore = (s.unit.noCore || coreState s.unit.state) ∧ t.regs.alert.getLsbD 2 = true ∧ t.cores.f0 = s.cores.f0
       | some r => t.cores.failed.getLsbD r.toNat = false ∧ t.regs.alert.getLsbD 4 = true ∧
          t.cores.f0 = (if s.cores.f0 = c then r else s.cores.f0) ∧ t.cores.f1 = (if s.cores.f1 = c then r else s.cores.f1) ∧
          t.cores.f2 = (if s.cores.f2 = c then r else s.cores.f2) ∧ t.holdsFunction c = false)) ∧
  (∀ (s : State),
    (limpable s.unit.state = true → tickState s.unit.state = false → s.cores.failed.getLsbD 0 = false →
      ∃ t, exec .matrixFault s = .next t ∧ t.unit.state = .limp ∧ t.unit.matrixOff = true ∧ t.cores.f0 = 0 ∧ t.cores.f2 = 0 ∧ t.regs.alert.getLsbD 3 = true ∧
        t.streams = s.streams ∧ t.ledger = s.ledger ∧ t.pool = s.pool) ∧
    (tickState s.unit.state = true → s.cores.failed.getLsbD 0 = false →
      ∃ t, exec .matrixFault s = .next t ∧ t.unit = { s.unit with limpDue := true } ∧ t.regs.alert.getLsbD 3 = true ∧ t.cores = s.cores ∧
        t.streams = s.streams) ∧
    (s.unit.limpDue = true → s.unit.holdDue = none → s.cores.failed.getLsbD 0 = false →
      s.dueTransitions.unit.state = .limp ∧ s.dueTransitions.unit.matrixOff = true ∧ s.dueTransitions.cores.f0 = 0 ∧ s.dueTransitions.cores.f2 = 0 ∧
        s.dueTransitions.streams = s.streams) ∧
    (limpable s.unit.state = true → s.cores.failed.getLsbD 0 = true →
      ∃ t, exec .matrixFault s = .next t ∧ t.unit = { s.unit with noCore := true, matrixOff := true } ∧ t.regs.alert.getLsbD 3 = true) ∧
    (limpable s.unit.state = false → exec .matrixFault s = .next s))

/-! ## Image and stream commands of a master -/

/-- LOAD, ARM, RELEASE, EXCHANGE, DRAIN, UNLOAD and ABORT, written by the operator or by a core: the command enters the Control crossing with its
frame, one record of kind image-command is made, and the write is answered (R67, R304). At its release each is accepted by the table of R327:
LOAD empties the shadow store and starts the loader; ARM flips active and shadow, and ARM and RELEASE begin the initialisation with its clear engine
(R328); EXCHANGE waits for F with the staging, for which SL is woken; DRAIN and UNLOAD of a future F wait, and one of a past or current F takes effect at a committing tick:
every Running stream stops, and Draining is entered; ABORT ends a load or drops an exchange; late, stale and refused ones set their bits, and the last two
change nothing else (R326, R327). In Hold with 0x46 LOAD, ARM and RELEASE are refused (log entry 52, DEDUCED).
START, STOP and CLEAR, written by the operator or by a core, enter the Control crossing; the operator's make one record of kind stream-command;
no stream changes before the release (R67, R91, R304).
OVERLAY_PAGE_IN of an overlay that the loader kept, with fewer than 16 commands queued, is queued with its frame (R333, R334). -/
def Obligations.ControlCommandsEnter : Prop :=
  (∀ (s0 s : State) (m : Master) (f : Frame) (c : Instr) (cmd : ImgCmd) (code : Nat) (g : Frame), Ready s0 s m → mayWrite m 0x40 = true →
    (c, cmd, code, g) ∈ [(Instr.load m, ImgCmd.load, 1, 0), (.arm m, .arm, 2, 0), (.release m, .release, 3, 0), (.exchange m f, .exchange, 4, f),
      (.imageDrain m f, .drain, 5, f), (.unload m f, .unload, 6, f), (.abort m, .abort, 7, 0)] →
    ∃ t, exec c s0 = .next t ∧ t = { s with crossing := t.crossing, log := t.log, ao := t.ao, pins := t.pins } ∧
      t.crossing = s.crossing ++ [⟨s.clock.ctl, .image cmd g⟩] ∧ Logs s t 7 0 (masterId m) code g.toNat 0 0 ∧ Answers s t m 0 []) ∧
  (∀ (s : State) (a : Nat) (x : Crossing), s.unit.window = true → s.crossing = [⟨a, x⟩] → a + 16 ≤ s.clock.ctl → s.image.waiting = [] →
    (∀ r, x ≠ .record r) →
    exec .controlCrossingRelease s = .next ((State.applyEntry { s with crossing := [] } ⟨a, x⟩).beginProbe.snapshot)) ∧
  (∀ (s : State) (a : Nat) (cmd : ImgCmd) (f : Frame), let t := s.applyEntry ⟨a, .image cmd f⟩
    let on := s.unit.state = .armed ∨ s.unit.state = .running
    let hold := s.unit.state = .hold ∧ s.unit.reason.toNat ∉ [5, 6, 7, 8, 0x46] ∧ s.unit.matrixOff = false
    let free := s.image.loader = none ∧ s.image.exchange = none
    let refused := t = (({ s with regs := { s.regs with imgRefused := true } } : State)).freshBit 0x50 13
    let init := t.unit = { s.unit with initAt := some s.clock.control, initDone := false, clear := some 0 } ∧ t.streams = s.streams ∧ t.pool = s.pool
    let drains := cmd = .drain ∨ cmd = .unload
    (cmd = .load → (hold ∨ on) ∧ free →
      (∃ l, t.image = { s.image with shadow := .empty, gen := t.image.gen, loader := some l } ∧ l.gen = t.image.gen ∧ l.verdict = none ∧ l.asked = [] ∧
        l.source.toNat = s.regs.imgSrc.toNat / 512 * 512 ∧ l.key = s.regs.imgSrc.setWidth 8) ∧ t.unit = s.unit ∧ t.streams = s.streams ∧
      ∀ w, 2 ^ 21 ≤ w → (Store.imageStores, w) ∉ t.eccBad) ∧
    (cmd = .load → ¬((hold ∨ on) ∧ free) → refused) ∧
    (cmd = .arm → hold ∧ s.image.shadow.admitted = true →
      t.image = { s.image with active := s.image.shadow, shadow := { s.image.active with admitted := false } } ∧ init) ∧
    (cmd = .arm → ¬(hold ∧ s.image.shadow.admitted = true) → refused) ∧
    (cmd = .release → s.unit.state = .hold → s.unit.matrixOff = false → s.image.active.present = true →
      (s.unit.reason.toNat = 9 ∨ 0x40 ≤ s.unit.reason.toNat ∧ s.unit.reason.toNat ≤ 0x7F ∧ s.unit.reason.toNat ≠ 0x46) → t.image = s.image ∧ init) ∧
    (cmd = .release → (s.unit.state ≠ .hold ∨ s.unit.matrixOff = true ∨ s.image.active.present = false ∨ s.unit.reason.toNat ≠ 9 ∧
      (s.unit.reason.toNat < 0x40 ∨ 0x7F < s.unit.reason.toNat ∨ s.unit.reason.toNat = 0x46)) → refused) ∧
    (cmd = .exchange → on → s.image.shadow.admitted = true → s.image.exchange = none → stale f s.clock.frame = false → s.exchangeFits = true →
      t = { s with image := { s.image with exchange := some ⟨f, false⟩ }, regs := t.regs, power := t.power,
                   log := t.log, ao := t.ao, pins := t.pins } ∧ (s.domReq domSL = s.domCur domSL → t.domReq domSL = 0) ∧
        t.regs.imgLate = (s.regs.imgLate || framePast f s.clock.frame)) ∧
    (cmd = .exchange → ¬(on ∧ s.image.shadow.admitted = true ∧ s.image.exchange = none) → refused) ∧
    (drains → on → stale f s.clock.frame = false → framePast f s.clock.frame = false →
      t = { s with image := { s.image with waiting := s.image.waiting ++ [(cmd, f)] } }) ∧
    (drains → on → stale f s.clock.frame = false → framePast f s.clock.frame = true → s.unit.committing = true →
      t.unit.state = .draining ∧ t.unit.drainTo = some (if cmd = .drain then .armed else .hold) ∧ t.unit.drainTick = s.clock.ticks ∧
      t.regs.imgLate = true ∧ (∀ p, (t.stream p).ctx.state = (if (s.stream p).ctx.state = .running then .halted else (s.stream p).ctx.state)) ∧
      (∀ p, (s.stream p).ctx.state = .running → (t.stream p).done = some ⟨s.clock.frame, s.clock.offset, false, true, s.unit.attempt⟩)) ∧
    (drains → ¬on → refused) ∧
    (drains ∧ on ∨ cmd = .exchange ∧ on ∧ s.image.shadow.admitted = true ∧ s.image.exchange = none → stale f s.clock.frame = true →
      t = (({ s with regs := { s.regs with imgStale := true } } : State)).freshBit 0x50 12) ∧
    (cmd = .exchange → on → s.image.shadow.admitted = true → s.image.exchange = none → stale f s.clock.frame = false → s.exchangeFits = false →
      t = { s with regs := t.regs } ∧ t.regs.imgCode = 0x18 ∧ t.regs.imgRefused = true) ∧
    (cmd = .abort → s.image.loader.isSome = true → t.image = { s.image with loader := none, shadow := .empty } ∧ t.unit = s.unit ∧
      t.streams = s.streams ∧ ∀ w, 2 ^ 21 ≤ w → (Store.imageStores, w) ∉ t.eccBad) ∧
    (cmd = .abort → s.image.loader = none → s.image.exchange.isSome = true → t.image = { s.image with exchange := none, staged := .empty } ∧
      t.settings = { s.settings with staged := [] } ∧ t.unit = s.unit ∧ t.streams = s.streams) ∧
    (cmd = .abort → free → refused)) ∧
  (∀ (s : State) (cmd : ImgCmd) (f : Frame) (rest : List (ImgCmd × Frame)), s.image.waiting = (cmd, f) :: rest → framePast f s.clock.frame = true →
    s.unit.committing = true → (s.unit.state = .armed ∨ s.unit.state = .running) →
    let t := s.takeDrain
    t.unit.state = .draining ∧ t.unit.drainTo = some (if cmd = .drain then .armed else .hold) ∧ t.image.waiting = rest ∧
      ∀ p, (t.stream p).ctx.state = (if (s.stream p).ctx.state = .running then .halted else (s.stream p).ctx.state)) ∧
  (∀ (s0 s : State) (m : Master) (p : StreamId) (f : Frame) (c : Instr) (x : Crossing) (code : Nat) (g : Frame), Serves s0 s m →
    (isHost m = true → s.logRoom = true) → mayWrite m 0x80 = true →
    (c, x, code, g) ∈ [(Instr.start m p f, Crossing.start p f, 1, f), (.stop m p, .stop p, 2, 0), (.clear m p, .clear p, 3, 0)] →
    ∃ t, exec c s0 = .next t ∧ t = { s with crossing := t.crossing, log := t.log, ao := t.ao, pins := t.pins, power := t.power, regs := t.regs } ∧
      t.crossing = s.crossing ++ [⟨s.clock.ctl, x⟩] ∧ Answers s t m 0 [] ∧
      (∀ id, m = .host 0 id → (code ≠ 1 ∨ ∀ d, s.domReq d = 0) → Logs s t 8 0 6 p.toNat code g.toNat 0)) ∧
  (∀ (s0 s : State) (m : Master) (overlay : BitVec 8) (f : Frame), Serves s0 s m → mayWrite m 0x58 = true →
    (s.overlayKept overlay).isSome → s.image.overlays.length < 16 →
    ∃ t c, exec (.overlayPageIn m overlay f) s0 = .next t ∧ t.image.overlays = s.image.overlays ++ [c] ∧ c.overlay = overlay ∧ c.frame = f ∧
      c.at_ = s.clock.ctl ∧ c.ready = false ∧ c.checked = false ∧ c.bad = none ∧ Answers s t m 0 [] ∧
      t.image.bank = s.image.bank ∧ t.streams = s.streams ∧ t.crossing = s.crossing)

/-! ## Scrub, tenant switch and security -/

/-- SCRUB_START of the installer in Hold, or of the core that holds F0 in phase MAPPED of a switch: a list that R216 accepts is taken, and
Scrub is entered, where every in-use flag is clear; a list that it refuses is reported with its reason and entry, and Hold stays, or follows
where a switch ends (R216, R279, R326, R362, R416, R417; that the refusal in Hold leaves the unit in Hold is log entry 26, DEDUCED), once the log has room for
the records of the switch's end (R304, R311; log entry 61). The
installer's START outside Hold is refused, and nothing else follows (R416).
SCRUB_CANCEL while a scrub runs stops the forming of writes (R216, R217); SCRUB_COMPLETE with every response come ends it: DONE with one record
of kind scrub, which holds the role of its list (3 for a list of F0: DESIGN CHOICE, log entry 86), the count of entries, the blocks written and the counts of the failed writes, and Hold with
NO_IMAGE; or cancelled, with Hold (R217, R312, R326). -/
def Obligations.ScrubRuns : Prop :=
  (∀ (s0 s : State) (id : BitVec 5) (list : BitVec 22), Ready s0 s (.host 1 id) →
    (s.unit.state = .hold → s.unit.reason ≠ 8 → s.scrub.switch = none →
      ∃ t, exec (.scrubStart (.host 1 id) list) s0 = .next t ∧ Answers s t (.host 1 id) 0 [] ∧ t.cores.sram = s.cores.sram ∧
        (match s.scrubList (16 * list.toNat) 4096 0 [] with
         | .inr l => t.scrub.status = 2 ∧ t.scrub.list = l ∧ t.scrub.sent = [] ∧ t.scrub.role = 1 ∧ t.unit.state = .scrub ∧ t.tileUse = []
         | .inl (reason, entry) => t.scrub.status = 5 ∧ t.scrub.reason = BitVec.ofNat 4 reason ∧ t.scrub.entry = BitVec.ofNat 12 entry ∧
            t.scrub.list = [] ∧ t.unit = s.unit)) ∧
    (s.unit.state ≠ .hold →
      ∃ t, exec (.scrubStart (.host 1 id) list) s0 = .next t ∧ Answers s t (.host 1 id) 0 [] ∧ t.scrub = { s.scrub with refused := true } ∧
        t.unit = s.unit)) ∧
  (∀ (s0 s : State) (list : BitVec 22) (tenant : BitVec 32), Ready s0 s (.core s.cores.f0) → s.scrub.switch = some (.mapped, tenant) →
    s.unit.state = .scrub →
    ∃ t, exec (.scrubStart (.core s.cores.f0) list) s0 = .next t ∧ Answers s t (.core s.cores.f0) 0 [] ∧
      (match s.scrubList (16 * list.toNat) 4096 0 [] with
       | .inr l => t.scrub.status = 2 ∧ t.scrub.list = l ∧ t.scrub.role = 3 ∧ t.scrub.switch = some (.scrubbing, tenant) ∧ t.unit = s.unit
       | .inl (reason, entry) => t.scrub.status = 5 ∧ t.scrub.reason = BitVec.ofNat 4 reason ∧ t.scrub.entry = BitVec.ofNat 12 entry ∧
          (s.log.queue.length ≤ 253 → t.scrub.switch = none ∧ t.unit.state = .hold ∧ t.unit.reason = 1) ∧
          (253 < s.log.queue.length → t.scrub.switch = s.scrub.switch ∧ t.unit = s.unit ∧ .firmware s.cores.f0 (.switchFail 5) ∈ t.held))) ∧
  (∀ (s0 s : State) (id : BitVec 5), Ready s0 s (.host 1 id) → s.unit.state = .scrub → (s.scrub.status = 1 ∨ s.scrub.status = 2) →
    ∃ t, exec (.scrubCancel (.host 1 id)) s0 = .next t ∧ t.scrub = { s.scrub with stopped := true } ∧ t.unit = s.unit ∧
      Answers s t (.host 1 id) 0 []) ∧
  (∀ (s : State), s.scrub.status = 2 → s.scrubOpen = false → s.unit.state = .scrub → s.scrub.switch = none →
    (s.scrub.stopped = true →
      ∃ t, exec .scrubComplete s = .next t ∧ t.scrub = { s.scrub with status := 4 } ∧ t.unit.state = .hold ∧ t.unit.reason = 1) ∧
    (s.scrub.stopped = false → scrubBlocks s.scrub.list ≤ s.scrubSent →
      ∃ t, exec .scrubComplete s = .next t ∧ t.scrub = { s.scrub with status := 3 } ∧ t.unit.state = .hold ∧ t.unit.reason = 1 ∧
        (s.logRoom = true → ∃ u, t = u.goto .hold 1 ∧ u = { s with scrub := t.scrub, ao := u.ao, log := u.log } ∧
          Logs s u 0x000A s.scrub.role 0xFF s.scrub.list.length (scrubBlocks s.scrub.list) s.scrubErrors 0)))

/-- SWITCH in Hold with no delivery in progress: phase BEGIN, in which the tenant, the consent flags, an open session, test mode and a load end,
and Scrub is entered (R360; that a load ends with the switch is the model's, log entries 41 and 52, DEDUCED).
STORES_CLEARED then leaves every store of R361 empty: the Pool with its write buffers, the tile registers and their flags, the wells, the
Ledger, the Setting Store, the image stores and copies with the loader's and the overlays' buffers, the Sluice's requests, write buffers and
landing data, what was on its way, the tenant area of working SRAM, every counter but that of records lost, the streams' status registers,
and the mailbox, with the current halves as after reset (log entry 5, DESIGN CHOICE); the log's slots, the fuses, the repair maps, SXPOS, the installer's registers and the clocks stay; KEY_ERASE goes out with
every key id from 1 to 255 (R360, R361, R365).
SCRUB_COMPLETE of a switch without an error binds the new tenant: Hold with NO_IMAGE, the continuity flag 1 (R360); where the log has no room
for F0's three records behind that of the scrub, the binding waits in Scrub (R304, R311; log entry 61, DEDUCED). -/
def Obligations.TenantSwitches : Prop :=
  (∀ (s0 s : State) (m : Master) (tenant : BitVec 32), Ready s0 s m → mayWrite m 0x158 = true → tenant ≠ 0 → s.unit.state = .hold →
    s.unit.reason ≠ 8 → s.sec.busy = false →
    ∃ t, exec (.switch m tenant) s0 = .next t ∧ t.scrub.switch = some (.begin, tenant) ∧ t.ao.tenant = 0 ∧ t.ao.consent = 0 ∧
      t.sec.session = none ∧ t.sec.mailbox = (if s.sec.session.isSome then [] else s.sec.mailbox) ∧ t.cores.testMode = false ∧ t.image.loader = none ∧ t.unit.state = .scrub ∧ t.tileUse = [] ∧
      Answers s t m 0 []) ∧
  (∀ (s : State) (tenant : BitVec 32), s.scrub.switch = some (.begin, tenant) → s.sec.req = none → s.unit.state = .scrub →
    (∀ d ∈ s.switchable, s.domCur d = 0) → (∀ i, (s.port i).shownR = none ∧ (s.port i).shownW = none) →
    ∃ t r, exec .storesCleared s = .next t ∧ t.scrub.switch = some (.cleared, tenant) ∧
      (t.pool.bytes = [] ∧ t.pool.wbuf = [] ∧ t.pool.marks = [] ∧ t.pool.half = []) ∧ t.tiles = [] ∧ t.tileUse = [] ∧ t.tileMarks = [] ∧
      t.basin.wells = [] ∧ t.ledger.bytes = [] ∧ t.ledger.armed = [] ∧
      t.settings = { s.settings with bytes := [], valid := [], staged := [] } ∧
      (t.image.active = .empty ∧ t.image.shadow = .empty ∧ t.image.bank = .empty ∧ t.image.staged = .empty ∧ t.image.loader = none ∧
        t.image.overlays = []) ∧
      (∀ i, (t.port i).reads = [] ∧ (t.port i).writes = [] ∧ (t.port i).wbuf = [] ∧
        ∀ x ∈ (t.port i).tags, x.held = none ∧ x.req.cells = []) ∧
      (∀ p, (t.stream p).jobs = [] ∧ (t.stream p).effects = [] ∧ (t.stream p).stat = .zero ∧ (t.stream p).shown = .zero) ∧ t.inflight = [] ∧
      (∀ a, memGet t.cores.sram a = if tenantArea ≤ a ∧ a < tenantArea + 0x100000 then 0 else memGet s.cores.sram a) ∧
      (∀ o, o ≠ counterOffset .logLost → sparseGet 0 t.regs.counts o = 0) ∧ t.perf.counts = Vector.replicate 8 0 ∧ t.sec.mailbox = [] ∧
      (t.log.slots = s.log.slots ∧ t.log.commit = s.log.commit ∧ t.fuses = s.fuses ∧ t.repair = s.repair ∧ t.clock = s.clock ∧
        t.regs.partLimit = s.regs.partLimit ∧ t.regs.memRead = s.regs.memRead ∧ t.regs.memWrite = s.regs.memWrite ∧ t.unit = s.unit ∧
        t.ao.tenant = s.ao.tenant ∧ ∀ i, i ≠ 0 → t.ao.value i = s.ao.value i) ∧
      t.sec.req = some r ∧ r.opcode = 7 ∧ leNat r.operands = 2 ^ 256 - 2 ∧ r.sent = 0) ∧
  (∀ (s : State) (tenant : BitVec 32), s.scrub.switch = some (.scrubbing, tenant) → s.scrub.status = 2 → s.scrubOpen = false →
    s.unit.state = .scrub → s.scrub.stopped = false → scrubBlocks s.scrub.list ≤ s.scrubSent → s.scrubErrors = 0 →
    ∃ t, exec .scrubComplete s = .next t ∧
      (s.log.queue.length ≤ 252 → t.scrub = { s.scrub with status := 3, switch := none } ∧ t.ao.tenant = tenant ∧
        t.ao.continuity = true ∧ t.ao.truncated = false ∧ t.unit.state = .hold ∧ t.unit.reason = 1) ∧
      (252 < s.log.queue.length → t.scrub = { s.scrub with status := 3 } ∧ t.ao.tenant = s.ao.tenant ∧ t.unit = s.unit ∧
        .firmware s.cores.f0 (.switchBound tenant) ∈ t.held))

/-- ATTEST with a tenant bound and nothing outstanding sends ECDH_GEN; DELIVER that no check refuses sends ECDH with the tenant's point and scalar
source 0; PSI_SECSTAT is BUSY from then on (R364, R365, R368).
A request crosses in beats of 64 bytes, the header with OPCODE and LEN first, one in a control cycle in which SEC_REQ_READY is 1; the last is
stamped (R37, R46, R364). How the operands are laid out in the beats, one behind the other, and how many beats carry operands of more than 64
beats are the model's choice (log entry 53, DESIGN CHOICE).
SECURITY_RESPONSE is taken where a request is outstanding whose last beat has transferred, and has no effect before SECURITY_FIXED_TIME; at the
fixed time of a KEY_INSTALL that succeeded the session ends with its mailbox written to 0, and the delivery is no longer BUSY; a session that has
stood 10,000,000,000 tb ends (R46, R365, R368). -/
def Obligations.SecurityCommands : Prop :=
  (∀ (s0 s : State) (id : BitVec 5), Serves s0 s (.host 0 id) → s.romOnly = false → s.sec.busy = false → s.sec.req = none →
    (s.ao.tenant ≠ 0 → s.sec.session = none →
      ∃ t, exec (.attest (.host 0 id)) s0 = .next t ∧ t.sec.busy = true ∧ t.sec.req = some ⟨4, [], 0, none, .attestGen⟩ ∧
        t.sec.mailbox = s.sec.mailbox ∧ t.ao = s.ao ∧ t.log = s.log ∧ Answers s t (.host 0 id) 0 []) ∧
    (s.deliverRefusal = none →
      ∃ t, exec (.deliver (.host 0 id)) s0 = .next t ∧ t.sec.busy = true ∧
        t.sec.req = some ⟨5, pointBytes (readBytes s.sec.mailbox 0 97) ++ [0], 0, none, .deliverEcdh⟩ ∧
        t.sec.offer = s.sec.digest ++ (List.range s.recordCount).flatMap s.keyRecord ∧
        t.sec.mailbox = s.sec.mailbox ∧ t.ao = s.ao ∧ t.log = s.log ∧ Answers s t (.host 0 id) 0 [])) ∧
  (∀ (s : State) (r : SecReq), s.sec.req = some r →
    (∀ b ∈ r.beats, b.length = 64) ∧ r.beats.length = 1 + (r.operands.length + 63) / 64 ∧
    leNat (r.beats.headD []) = (r.opcode.toNat + 256 * ((r.operands.length + 63) / 64)) % 2 ^ 512 ∧
    (s.inputs.secReady = false → s.secBeat = s) ∧ (r.beats.length ≤ r.sent → s.secBeat = s) ∧
    (s.inputs.secReady = true → r.sent < r.beats.length →
      s.secBeat = { s with sec := { s.sec with req := some { r with
        sent := r.sent + 1, sentTb := if r.sent + 1 = r.beats.length then some s.clock.control else none } } })) ∧
  (∀ (s : State),
    (∀ status data r, s.sec.req = some r → r.sentTb.isSome = true → s.sec.rsp = none → s.unit.state ≠ .off → s.unit.state ≠ .reset →
      exec (.securityResponse status data) s = .next { s with sec := { s.sec with rsp := some (status, data, s.clock.control) } }) ∧
    (∀ r data at_, s.sec.req = some r → s.sec.rsp = some (0, data, at_) → r.use = .deliverInstall →
      (r.sentTb.getD 0).toNat + fixedTime r.opcode ≤ s.clock.control.toNat → s.unit.state ≠ .frozen → s.unit.state ≠ .off →
      s.unit.state ≠ .reset →
      ∃ t, exec .securityFixedTime s = .next t ∧ t.sec.session = none ∧ t.sec.mailbox = [] ∧ t.sec.busy = false ∧ t.sec.status = 0 ∧
        t.sec.req = none ∧ t.pool = s.pool ∧ t.ledger = s.ledger ∧
        ((∀ x ∈ s.sec.offered, keyUse x ≠ 3) → t.ao.consent = s.ao.consent)) ∧
    (∀ opened d, s.sec.session = some (opened, d) → opened.toNat + 10000000000 ≤ s.clock.control.toNat → s.unit.state ≠ .frozen →
      exec .sessionExpiry s = .next { s with sec := { s.sec with session := none, mailbox := [] } }))

/-! ## Registers -/

/-- RESUME, RECOVERY_REQUEST, PROBE_RUN, SXPOS_WRITE and LANE_SPARE_ASSIGN of a core, in the unit states that accept them: each enters the Control
crossing and is answered, RESUME and RECOVERY_REQUEST where the log has room (R304; log entry 61, DEDUCED); SXPOS makes a record of kind setting-spare, a spare assignment one
of kind register-write (R67, R159, R348, R349, R353, R420, R423).
At its release in Recovery: a resume request sets READY, and where the tick presents G the unit leaves Recovery at once, with the streams' contexts as
they are held (R353; log entry 75, DEDUCED); a probe begins once no re-form is under way; SXPOS takes its value, with a re-form of the Setting Store where
that changes (R161); a spare assignment waits for the next tick, at which it is in force (R348). A change, and it alone, is an action after which
a failing probe decides no more (R350). -/
def Obligations.RecoveryCommandsEnter : Prop :=
  (∀ (s : State) (a : Nat), s.unit.state = .recovery →
    (s.unit.ready = false → s.clock.frame ≠ s.unit.resumeG →
      s.applyEntry ⟨a, .resume⟩ = { s with unit := { s.unit with ready := true, readyTick := s.clock.ticks } }) ∧
    (s.unit.ready = false → s.clock.frame = s.unit.resumeG → let t := s.applyEntry ⟨a, .resume⟩
      t.unit.state = (if s.anyRunning then .running else .armed) ∧ t.unit.ready = false ∧ t.streams = s.streams ∧ t.image = s.image ∧ t.pool = s.pool) ∧
    (s.unit.ready = true → s.applyEntry ⟨a, .resume⟩ = s) ∧
    ((s.applyEntry ⟨a, .probe⟩).beginProbe = (if s.settings.reform.isSome then { s with recov := { s.recov with probeDue := true } } else
      { s with recov := { s.recov with probeDue := false, probeTick := some s.clock.ticks, probeFail := 0, probeDone := false, probeLane := 0, probePass := 0 } })) ∧
    (∀ v : BitVec 5, let t := s.applyEntry ⟨a, .sxpos v⟩
      t = { s with settings := t.settings, recov := { s.recov with acted := s.recov.acted || v != s.settings.sxpos } } ∧
        t.settings = { s.settings with sxpos := v, reform := t.settings.reform } ∧ (v = s.settings.sxpos → t.settings = s.settings) ∧
        (v ≠ s.settings.sxpos → s.settings.reform = none → t.settings.reform = some s.settings.sxpos)) ∧
    (∀ (w : BitVec 3) (v : BitVec 32), s.repair.lanesNext = [] → let t := s.applyEntry ⟨a, .laneSpare w v⟩
      t = { s with repair := { s.repair with lanesNext := [(w, v)] },
                   recov := { s.recov with acted := s.recov.acted || v != s.repair.lanes[w.toNat]'(by have := w.isLt; omega) } } ∧
        t.laneTick = { t with repair := { s.repair with lanes := s.repair.lanes.set w.toNat v (by have := w.isLt; omega) } })) ∧
  (∀ (s0 s : State) (c : BitVec 2), Serves s0 s (.core c) →
    (s.logRoom = true → s.unit.state = .recovery → ∃ t, exec (.resume (.core c)) s0 = .next t ∧ t.crossing = s.crossing ++ [⟨s.clock.ctl, .resume⟩] ∧
      t.log = s.log ∧ t.unit = s.unit ∧ Answers s t (.core c) 0 []) ∧
    (s.logRoom = true → s.unit.state ∈ [UnitState.armed, .running, .replay, .draining] →
      ∃ t, exec (.recoveryRequest (.core c)) s0 = .next t ∧ t.crossing = s.crossing ++ [⟨s.clock.ctl, .recovery⟩] ∧ t.log = s.log ∧
        t.unit = s.unit ∧ Answers s t (.core c) 0 []) ∧
    (s.unit.state = .recovery → ∃ t, exec (.probeRun (.core c)) s0 = .next t ∧ t.crossing = s.crossing ++ [⟨s.clock.ctl, .probe⟩] ∧
      t.log = s.log ∧ t.unit = s.unit ∧ Answers s t (.core c) 0 []) ∧
    (∀ v : BitVec 32, s.logRoom = true → s.unit.state = .recovery → sxLegal s.cfg (v.toNat % 32) = true →
      ∃ t, exec (.sxposWrite (.core c) v) s0 = .next t ∧ t.crossing = s.crossing ++ [⟨s.clock.ctl, .sxpos (v.setWidth 5)⟩] ∧
        Logs s t 0x10 3 c.toNat (v.toNat % 32) s.settings.sxpos.toNat 0 0 ∧ t.settings = s.settings ∧ Answers s t (.core c) 0 []) ∧
    (∀ (w : BitVec 3) (v : BitVec 32), s.logRoom = true → s.unit.state = .recovery → s.legalWord (0x1A0 + 4 * w.toNat) v.toNat = true →
      ∃ t, exec (.laneSpareAssign (.core c) w v) s0 = .next t ∧ t.crossing = s.crossing ++ [⟨s.clock.ctl, .laneSpare w v⟩] ∧
        Logs s t 5 3 c.toNat (0x1A0 + 4 * w.toNat) v.toNat (s.repair.lanes[w.toNat]'(by have := w.isLt; omega)).toNat 0 ∧ t.repair = s.repair ∧
        Answers s t (.core c) 0 []))

/-- The maker's actions, each accepted with nothing outstanding at the security block: UPDATE and REPAIR send FW_FETCH, RESOLVE, PERMSPARE and FUSEWRITE
send their first write; the action's BUSY bit is set, and one record of kind register-write is made, with the offset, the value written and the
value before (R304, R312, R332, R348, R376, R377, R427). The bytes in which the operands are carried, the slot, the fuse word with its value, the
set with its copy, are the model's choice (log entry 53, DESIGN CHOICE). -/
def Obligations.MakerActionsBegin : Prop :=
  ∀ (s0 s : State) (id : BitVec 5), Ready s0 s (.host 2 id) → s.sec.req = none →
    let m := Master.host 2 id
    let sends := fun (t : State) (off value : Nat) (wide : Bool) (opcode : BitVec 8) (operands : List Byte) (use : SecUse) =>
      t.sec.req = some ⟨opcode, operands, 0, none, use⟩ ∧ t.unit = s.unit ∧ t.fuses = s.fuses ∧ t.repair.maps = s.repair.maps ∧
        Logs s t 5 2 6 off value (s.wasValue m off wide) 0 ∧ Answers s t m 0 []
    (∀ slot, s.repair.fwBusy = false →
      ∃ t, exec (.update m slot) s0 = .next t ∧ t.repair.fwBusy = true ∧
        sends t 0x250 (1 + 256 * slot.toNat) false 0x0D [slot] (.updateFetch slot)) ∧
    (∀ set slot, s.repair.fwBusy = false → s.unit.state = .hold → s.unit.reason = 6 →
      ∃ t, exec (.repair m set slot) s0 = .next t ∧ t.repair.fwBusy = true ∧
        sends t 0x250 (2 + natBit set 4 + 256 * slot.toNat) false 0x0D [slot] (.repairFetch set slot)) ∧
    (∀ set (copy : BitVec 2), s.repair.fuseBusy = false → copy ≠ 3 → s.unit.state = .hold → s.unit.reason = 5 →
      copyIntact ((s.repair.copies set).getD copy.toNat []) = true →
      ∃ t, exec (.resolve m set copy) s0 = .next t ∧ t.repair.fuseBusy = true ∧
        sends t 0x258 (1 + natBit set 4 + 32 * copy.toNat) true 0x0C (repairOperands set 0 (s.resolvedCopy set copy.toNat)) (.resolveWrite set copy.toNat 0)) ∧
    (s.repair.fuseBusy = false → s.ao.tenant = 0 → s.romOnly = false →
      ∃ t, exec (.permspare m) s0 = .next t ∧ t.repair.fuseBusy = true ∧
        sends t 0x258 2 true 0x0C (repairOperands false 0 s.permCopy) (.permWrite 0)) ∧
    (∀ word value, s.repair.fuseBusy = false → s.ao.tenant = 0 → s.romOnly = false →
      ∃ t, exec (.fusewrite m word value) s0 = .next t ∧ t.repair.fuseBusy = true ∧
        sends t 0x258 (3 + 256 * word.toNat + 2 ^ 32 * value.toNat) true 0x0A ([word] ++ leBytes 4 value.toNat) (.fuseWrite word value))

/-- KICK restarts the watchdog of the core that writes its own bit; REMAP by CC0 in Boot, once the boot ROM has verified the firmware, places
working SRAM at the zero window (R293, R294, R426).
PERFCTL_WRITE of the operator or the maker with PROFILE in effect, of one word or of two: every performance counter clears, and the new words,
their reserved bits 0, are in force from the next tick (R17, R397, R398, R429). -/
def Obligations.CoreAndCounterWrites : Prop :=
  (∀ (s0 s : State) (c : BitVec 2), Serves s0 s (.core c) →
    (∀ mask : BitVec 4, ∃ t, exec (.kick (.core c) mask) s0 = .next t ∧ t.cores = { s.cores with kicked := t.cores.kicked } ∧
      (mask.getLsbD c.toNat = true → t.cores.kicked = s.cores.kicked.set c.toNat s.clock.control (by have := c.isLt; omega)) ∧
      (mask.getLsbD c.toNat = false → t.cores.kicked = s.cores.kicked) ∧ t.unit = s.unit ∧ t.log = s.log ∧ Answers s t (.core c) 0 []) ∧
    (c = 0 → s.unit.state = .boot →
      ∃ t, exec (.remap (.core c)) s0 = .next t ∧ t.cores = { s.cores with remap := s.cores.remap || s.cores.verified } ∧ t.unit = s.unit ∧
        Answers s t (.core c) 0 [])) ∧
  (∀ (s0 s : State) (role : BitVec 2) (id : BitVec 5) (w : BitVec 3) (wide : Bool) (data : BitVec 64), Serves s0 s (.host role id) →
    role = 0 ∨ role = 2 ∧ s.logRoom = true → s.profileOn = true → (wide = true → w.toNat % 2 = 0) →
    (∀ x ∈ wordsOfWrite (0x300 + 4 * w.toNat) wide data, s.legalWord x.1 x.2 = true) →
    ∃ t words, exec (.perfctlWrite (.host role id) w wide data) s0 = .next t ∧ t.perf.next = some words ∧ t.perf.words = s.perf.words ∧
      (∀ i : Fin 8, words[i] = (if i.val = w.toNat then data.setWidth 32 &&& perfMask i.val
        else if wide = true ∧ i.val = w.toNat + 1 then data.extractLsb' 32 32 &&& perfMask i.val
        else (s.perf.next.getD s.perf.words)[i])) ∧ t.perf.counts = Vector.replicate 8 0 ∧
      (role = 0 → t.log = s.log) ∧
      (role = 2 → Logs s t 5 2 6 (0x300 + 4 * w.toNat) (if wide then data.toNat else data.toNat % 2 ^ 32)
        (s.wasValue (.host role id) (0x300 + 4 * w.toNat) wide) 0) ∧ Answers s t (.host role id) 0 [])

/-- REGISTER_WRITE of the installer: each RWL register, PSI_PARTLIMIT, PSI_MEMSHARE and PSI_MEMLAT, takes a legal value while it is not locked, and
keeps its value while it is; each makes one record, of kind register-write and of kind locked-write; a reserved or out-of-range value changes nothing
and is counted in PSI_BADWRCNT (R15, R18, R304, R414; that it does so while the field is locked too, where R15 and R18 meet, is the model's choice:
log entry 49, DESIGN CHOICE). PSI_PWRPOLICY, a plain register, takes what is written, with one record.
PSI_ALERT: a written 1 clears its bit, but for one that hardware set in the same cycle; every other bit stays (R16, R408).
A write without the right: it is refused, with one record of kind role-refused and HS_STAT 0b01, and changes nothing else (R304 to R306). -/
def Obligations.RegisterWrites : Prop :=
  (∀ (s0 s : State) (id : BitVec 5) (off : BitVec 16) (v : BitVec 64) (legal : Prop) (takes : Regs) (mask : Nat), Ready s0 s (.host 1 id) →
    let w := v.toNat % 2 ^ 32
    let lo := v.toNat % 65536
    let hi := v.toNat % 2 ^ 32 / 65536
    (off, legal, takes, mask) ∈
      [((0x100 : BitVec 16), v.toNat % 8 ≤ 4, { s.regs with partLimit := v.setWidth 3 }, 7),
       (0x104, lo ≤ 2000 * s.cfg.ports ∧ hi ≤ 2000 * s.cfg.ports,
         { s.regs with memRead := v.setWidth 16, memWrite := v.extractLsb' 16 16 }, 0xFFFFFFFF),
       (0x108, 1 ≤ lo ∧ 1 ≤ hi, { s.regs with latLocal := v.setWidth 16, latRemote := v.extractLsb' 16 16 }, 0xFFFFFFFF)] →
    (legal → s.unit.locked = false →
      ∃ t, exec (.registerWrite (.host 1 id) off false v) s0 = .next t ∧
        t = { s with regs := takes, log := t.log, ao := t.ao, pins := t.pins } ∧
        Logs s t 5 1 6 off.toNat w (s.regWord 6 off.toNat) 0 ∧ Answers s t (.host 1 id) 0 []) ∧
    (legal → s.unit.locked = true →
      ∃ t, exec (.registerWrite (.host 1 id) off false v) s0 = .next t ∧ t = { s with log := t.log, ao := t.ao, pins := t.pins } ∧
        Logs s t 3 1 6 off.toNat w mask 0 ∧ Answers s t (.host 1 id) 0 []) ∧
    (¬ legal →
      ∃ t, exec (.registerWrite (.host 1 id) off false v) s0 = .next t ∧ t = { s with regs := { s.regs with counts := t.regs.counts }, pins := t.pins } ∧
        t.counter .badWr = s.counter .badWr + 1 ∧ Answers s t (.host 1 id) 0 [])) ∧
  (∀ (s0 s : State) (id : BitVec 5) (v : BitVec 64), Ready s0 s (.host 1 id) → v.toNat % 8 ≤ v.toNat / 16 % 8 →
    ∃ t, exec (.registerWrite (.host 1 id) 0x10C false v) s0 = .next t ∧
      t = { s with regs := { s.regs with fastest := v.setWidth 3, slowest := v.extractLsb' 4 3, forceSlow := v.getLsbD 8, tmax := v.extractLsb' 16 16 }
                   log := t.log, ao := t.ao, pins := t.pins } ∧
      Logs s t 5 1 6 0x10C (v.toNat % 2 ^ 32) (s.regWord 6 0x10C) 0 ∧ Answers s t (.host 1 id) 0 []) ∧
  (∀ (s0 s : State) (id : BitVec 5) (v : BitVec 64), Serves s0 s (.host 0 id) →
    ∃ t, exec (.registerWrite (.host 0 id) 0x20 false v) s0 = .next t ∧
      t = { s with regs := { s.regs with alert := t.regs.alert }, pins := t.pins } ∧ Answers s t (.host 0 id) 0 [] ∧
      ∀ b < 8, t.regs.alert.getLsbD b = (s.regs.alert.getLsbD b && !(v.getLsbD b && !s.regs.fresh.contains (32 * 0x20 + b)))) ∧
  (∀ (s0 s : State) (m : Master) (off : BitVec 16) (v : BitVec 64), Ready s0 s m → off.toNat % 4 = 0 → regExists off.toNat = true →
    isSelection off.toNat = false → mayWrite m off.toNat = false →
    ∃ t, exec (.registerWrite m off false v) s0 = .next t ∧ t = { s with log := t.log, ao := t.ao, pins := t.pins } ∧
      Logs s t 2 (roleOf m) (masterId m) (0x20000000 + off.toNat) (v.toNat % 2 ^ 32) 1 0 ∧ Answers s t m 1 [])

/-- A 4-byte write of PSI_IMGCTL, PSI_OVLCTL or PSI_STRMCTL by a master with the right is discarded and counted, and each reads 0 (R401). -/
def Obligations.CommandRegistersWide : Prop :=
  ∀ (s0 s : State) (m : Master) (off : BitVec 16) (v : BitVec 64), off ∈ [0x40, 0x44, 0x58, 0x5C, 0x80, 0x84] →
    (Serves s0 s m → mayWrite m off.toNat = true →
      ∃ t, exec (.registerWrite m off false v) s0 = .next t ∧ t = { s with regs := t.regs, pins := t.pins } ∧
        t.counter .badWr = s.counter .badWr + 1 ∧ Answers s t m 0 []) ∧
    (wideReg off.toNat = some (off.toNat / 8 * 8, 2)) ∧ ∀ id, s.regWord id off.toNat = 0

/-- A register of more than one word is captured by the read of its word 0: the reads of its other words by the same master return the captured
words, whatever has changed since (R400). REGISTER_CAPTURE_READ answers with its word, or with both words where it is wide; of the event log's
registers the operator reads none, and the refused read is counted (R302, R306, R400). -/
def Obligations.CaptureReads : Prop :=
  (∀ (s u : State) (id base n i : Nat), wideReg base = some (base, n) → base % 4 = 0 → 0 < i → i < n → wideReg (base + 4 * i) = some (base, n) →
    u.regs.capture = (s.readReg id base).1.regs.capture →
    (u.readReg id (base + 4 * i)).2 = s.regWord id (base + 4 * i) % 2 ^ 32) ∧
  (∀ (s0 s : State) (m : Master) (off : BitVec 16), Serves s0 s m →
    (off.toNat % 4 = 0 → ((∀ id, m ≠ .host 0 id) ∨ off.toNat < 0x260 ∨ 0x2C0 ≤ off.toNat) →
      ∃ t, exec (.registerCaptureRead m off false) s0 = .next t ∧ Answers s t m 0 (leBytes 4 (s.readReg (masterId m) off.toNat).2) ∧
        t = { s with regs := t.regs, recov := t.recov, pins := t.pins }) ∧
    (off.toNat % 8 = 0 → ((∀ id, m ≠ .host 0 id) ∨ off.toNat < 0x260 ∨ 0x2C0 ≤ off.toNat) →
      ∃ t, exec (.registerCaptureRead m off true) s0 = .next t ∧
        Answers s t m 0 (leBytes 4 (s.readReg (masterId m) off.toNat).2 ++
          leBytes 4 ((s.readReg (masterId m) off.toNat).1.readReg (masterId m) (off.toNat + 4)).2) ∧
        t = { s with regs := t.regs, recov := t.recov, pins := t.pins }) ∧
    (∀ id, m = .host 0 id → off.toNat % 4 = 0 → 0x260 ≤ off.toNat → off.toNat < 0x2C0 →
      ∃ t, exec (.registerCaptureRead m off false) s0 = .next t ∧ Answers s t m 1 [] ∧ t.counter .roleRef = s.counter .roleRef + 1 ∧
        t = { s with regs := t.regs, pins := t.pins }))

/-! ## Port B of the Ledger and the windows -/

/-- The accepted writes of port B, in a cycle in which it is free and after the accesses of port A: each changes the Ledger as its operation
says, wakes the waits that observe it, and is answered (R79, R282 to R288). A host's record, where its role makes one, has room. A detector
record's reserved bits are written as 0 (R17; log entry 36, DEDUCED).
RECEIVE_ALIAS_READ: the oldest message and zeros to 64 bytes, and the message is taken; 64 zeros with nothing taken where the queue is empty
(R287). -/
def Obligations.PortBAccesses : Prop :=
  (∀ (s0 s : State) (m : Master) (addr : Nat), TakesPortB s0 s m addr → HasRoom s m →
    let does := fun (c : Instr) (l : Ledger) => ∃ t, exec c s0 = .next t ∧ t.ledger = l ∧ Answers s t m 0 [] ∧ t.pool = s.pool ∧
      (∀ q, ∃ w, t.stream q = { s.stream q with waitOk := w })
    (∀ (n : BitVec 14) (v : BitVec 32), addr = 0x03200000 + 4 * n.toNat →
      (s.ownerOf 4 8 n.toNat = .host ∨ (s.ownerOf 4 8 n.toNat = .control ∧ agentOf m = .control)) →
      does (.tallyAdd m n v) (s.tallyInc n.toNat v.toNat).ledger) ∧
    (∀ (e : BitVec 12) (data : List Byte), addr = 0x03300000 + 64 * e.toNat → data.length % 8 = 0 → 0 < data.length → data.length ≤ 64 →
      s.ownerOf 8 12 e.toNat = agentOf m → s.endpointOpen e.toNat = true →
      s.ledgerBad (s.sendWords e.toNat) = none →
      does (.sendAliasWrite m e data) (s.send e.toNat data).1.ledger) ∧
    (∀ (n : BitVec 10) (data : List Byte), addr = 0x03000000 + timerAt n.toNat + 8 → data.length = 4 → s.ownerOf 12 16 n.toNat = agentOf m →
      s.ledgerBad (s.timerReads n.toNat (leNat data % 16)) = none →
      (leNat data % 16 = 1 → does (.timerWrite m n 8 data) (s.armTimer n.toNat).ledger) ∧
      (leNat data % 16 = 5 → does (.timerWrite m n 8 data) (s.cancelTimer n.toNat).ledger)) ∧
    (∀ (n : BitVec 10) (o : BitVec 4) (data : List Byte), addr = 0x03000000 + timerAt n.toNat + o.toNat → o ∈ [0, 4, 12] → data.length = 4 →
      s.ownerOf 12 16 n.toNat = agentOf m → s.timerArmed n.toNat = false →
      does (.timerWrite m n o data) (s.timerPut n.toNat o.toNat data).ledger) ∧
    (∀ (e : BitVec 12) (data : List Byte), addr = 0x03000000 + endpointAt e.toNat → data.length = 4 → s.ownerOf 8 12 e.toNat = agentOf m →
      does (.endpointRecordWrite m e 0 data) (s.setOpen e.toNat (bitOf (leNat data) 0) (field (leNat data) 1 12)).ledger) ∧
    (∀ (n : BitVec 8) (data : List Byte), addr = 0x03000000 + detectorAt n.toNat → data.length = 4 → agentOf m = .control →
      does (.detectorRecordWrite m n 0 data) (s.ledgerPut (detectorAt n.toNat) (leBytes 4 (leNat data % 2 ^ 27))).ledger) ∧
    (∀ (x : BitVec 21) (data : List Byte), addr = 0x03000000 + x.toNat → data.length = 8 → x.toNat % 8 = 0 → 0x40000 ≤ x.toNat →
      x.toNat < 0x100000 →
      does (.ledgerWordWrite m x data) (s.ledgerPut x.toNat data).ledger)) ∧
  (∀ (s0 s : State) (m : Master) (e : BitVec 12), TakesPortB s0 s m (0x03400000 + 64 * e.toNat) → s.ownerOf 8 12 e.toNat = agentOf m →
    s.ledgerBad [endpointAt e.toNat, endpointAt e.toNat + 8] = none →
    ∃ t, exec (.receiveAliasRead m e) s0 = .next t ∧
      (0 < s.queued e.toNat → s.ledgerBad (s.messageWords e.toNat) = none →
        t.ledger = (s.receive e.toNat).ledger ∧ Answers s t m 0 (padTo 64 (s.headMessage e.toNat))) ∧
      (0 < s.queued e.toNat → s.ledgerBad (s.messageWords e.toNat) ≠ none → t.ledger = s.ledger ∧ Answers s t m 2 (List.replicate 64 0)) ∧
      (s.queued e.toNat = 0 → t.ledger = s.ledger ∧ Answers s t m 0 (List.replicate 64 0)))

/-- SETTING_STORE_WRITE, of any master and role, is discarded with one record and HS_STAT 0b01 (R152).
POOL_WINDOW_ACCESS of a core or of the host, 1 to 64 bytes, with its banks idle and no access before it waiting for the Pool: a write puts each
byte at the same offset of every copy, of a byte in no valid region nowhere; a read returns the bytes as agents other than the streams see
them, and zero outside every valid region; a host's is refused with HS_STAT 0b01 and no effect where one byte lies in a region that lacks HOSTR
or HOSTW (R271, R275, R278).
HOST_CONTROL_REQUEST: to working SRAM by a core or the maker, at its alias and with REMAP 1 at the zero window: a write puts its bytes and
changes no other byte, a read of correct words returns them; with REMAP 0 the first 256 KiB of the zero window read as the boot ROM and all else
of it is no target; an operator or an installer is refused with 0b01 (R294, R306). A read of an image store returns its bytes, with an
uncorrectable word 0b10 and zeros; a write to one, and an access that breaks the table of R295 or falls on no target, has no effect and gets 0b10
(R295, R299, R345). A host's record, where its role makes one, has room. That the record of an accepted write outside the registers carries the
whole address and AUX 0, where R312 speaks of a register's offset and previous value, is the model's reading (DEDUCED, log entry 17); whose Pool
access goes first of those of one cycle is log entry 42. -/
def Obligations.WindowAccesses : Prop :=
  (∀ (s0 s : State) (m : Master) (addr : BitVec 32) (data : List Byte), s = s0.closeTick →
    s.gate m = .run ∨ s.gate m = .deny 1 → s.unblocked m = true → s.logRoom = true → inSettings addr.toNat data.length = true →
    ∃ t, exec (.settingStoreWrite m addr data) s0 = .next t ∧ t = { s with log := t.log, ao := t.ao, pins := t.pins } ∧
      Logs s t 4 (roleOf m) (masterId m) addr.toNat (leNat (data.take 8)) 0 0 ∧ Answers s t m 1 []) ∧
  (∀ (s0 s : State) (m : Master) (addr : BitVec 26) (size : BitVec 7), Serves s0 s m → s.unit.matrixOff = false →
    s.poolWaits m (0x10000000 + addr.toNat) = false → wellSized addr.toNat size.toNat = true →
    let right := fun (write : Bool) => ∀ i < size.toNat, ∀ r h o, s.poolWhere (addr.toNat + i) = some (r, h, o) →
      (if write then (s.image.bank.region r).hostW else (s.image.bank.region r).hostR) = true
    (∀ data : List Byte, data.length = size.toNat →
      let cells := (data.mapIdx (fun i b => s.poolCopies (addr.toNat + i) b)).flatten
      (((∃ c, m = .core c) ∨ right true) → s.dmaReady true addr.toNat size.toNat = true → HasRoom s m →
        ∃ t, exec (.poolWindowAccess m true addr size data) s0 = .next t ∧ Answers s t m 0 [] ∧
          LogsWrite s t m (0x10000000 + addr.toNat) data ∧
          (∀ a, memGet t.pool.bytes a = (((cells.filter (fun x => x.1 == a)).getLast?).map (·.2)).getD (memGet s.pool.bytes a)) ∧
          t = { s with pool := t.pool, eccBad := t.eccBad, eccOne := t.eccOne, eccCover := t.eccCover, cycle := t.cycle, pins := t.pins,
                       log := t.log, ao := t.ao }) ∧
      ((∀ c, m ≠ .core c) → ¬right true → ∃ t, exec (.poolWindowAccess m true addr size data) s0 = .next t ∧ Answers s t m 1 [] ∧
        t = { s with pins := t.pins })) ∧
    (((∃ c, m = .core c) ∨ right false) → s.dmaReady false addr.toNat size.toNat = true → (∀ w, s.uncorrectable .pool w = false) →
      ∃ t, exec (.poolWindowAccess m false addr size []) s0 = .next t ∧
        t = { s with regs := t.regs, cycle := t.cycle, pins := t.pins } ∧
        Answers s t m 0 ((List.range size.toNat).map (fun i =>
          if (s.poolWhere (addr.toNat + i)).isSome then s.poolByte none s.clock.offset (addr.toNat + i) else 0))) ∧
    ((∀ c, m ≠ .core c) → ¬right false → ∃ t, exec (.poolWindowAccess m false addr size []) s0 = .next t ∧ Answers s t m 1 [] ∧
      t = { s with pins := t.pins })) ∧
  (∀ (s0 s : State) (m : Master) (size : BitVec 7) (a : Nat), Serves s0 s m → wellSized a size.toNat = true →
    a + size.toNat ≤ 0x400000 →
    let request := fun (write : Bool) (addr : Nat) (data : List Byte) => exec (.hostControlRequest m write (BitVec.ofNat 32 addr) size data) s0
    (∀ addr, (addr = 0x01000000 + a ∨ addr = a ∧ s.cores.remap = true) →
      (∀ data : List Byte, data.length = size.toNat →
        (sramRight m = true → HasRoom s m → ∃ t, request true addr data = .next t ∧ Answers s t m 0 [] ∧ LogsWrite s t m addr data ∧
          readBytes t.cores.sram a size.toNat = data ∧
          (∀ x, (x < a ∨ a + size.toNat ≤ x) → memGet t.cores.sram x = memGet s.cores.sram x) ∧
          t = { s with cores := { s.cores with sram := t.cores.sram }, eccBad := t.eccBad, eccOne := t.eccOne, eccCover := t.eccCover,
                       pins := t.pins, log := t.log, ao := t.ao }) ∧
        (sramRight m = false → s.logRoom = true → ∃ t, request true addr data = .next t ∧ Answers s t m 1 [] ∧
          Logs s t 2 (roleOf m) (masterId m) addr (leNat (data.take 8)) 1 0 ∧ t = { s with log := t.log, ao := t.ao, pins := t.pins })) ∧
      (sramRight m = true → (∀ w, s.uncorrectable .sram w = false) → ∃ t, request false addr [] = .next t ∧
        Answers s t m 0 (readBytes s.cores.sram a size.toNat) ∧ t = { s with regs := t.regs, pins := t.pins }) ∧
      (sramRight m = false → ∃ t, request false addr [] = .next t ∧ Answers s t m 1 [] ∧ t.counter .roleRef = s.counter .roleRef + 1 ∧
        t = { s with regs := t.regs, pins := t.pins })) ∧
    (s.cores.remap = false →
      (∀ data, ∃ t, request true a data = .next t ∧ Answers s t m 2 [] ∧ t = { s with pins := t.pins }) ∧
      (0x40000 ≤ a → ∃ t, request false a [] = .next t ∧ Answers s t m 2 [] ∧ t = { s with pins := t.pins }) ∧
      (a < 0x40000 → sramRight m = true → (∀ w, s.uncorrectable .bootRom w = false) → ∃ t, request false a [] = .next t ∧
        Answers s t m 0 ((List.range size.toNat).map (fun i => Config.bootRom (a + i))) ∧ t = { s with regs := t.regs, pins := t.pins }))) ∧
  (∀ (s0 s : State) (m : Master) (size : BitVec 7) (a : Nat) (shadow : Bool), Serves s0 s m → s.unit.matrixOff = false →
    wellSized a size.toNat = true → a + size.toNat ≤ 0x1000000 →
    let addr := BitVec.ofNat 32 ((if shadow then 0x05000000 else 0x04000000) + a)
    let bad := (wordsOf a size.toNat).any (fun w => s.uncorrectable .imageStores (w + if shadow then 0x200000 else 0))
    (∀ data, ∃ t, exec (.hostControlRequest m true addr size data) s0 = .next t ∧ Answers s t m 2 [] ∧ t = { s with pins := t.pins }) ∧
    ∃ t, exec (.hostControlRequest m false addr size []) s0 = .next t ∧ t = { s with regs := t.regs, pins := t.pins } ∧
      (if bad then Answers s t m 2 (List.replicate size.toNat 0)
       else Answers s t m 0 (readBytes (if shadow then s.image.shadow else s.image.active).bytes a size.toNat))) ∧
  (∀ (s0 s : State) (m : Master) (write : Bool) (addr : BitVec 32) (size : BitVec 7) (data : List Byte), Serves s0 s m →
    inPortB addr.toNat = false → s.poolWaits m addr.toNat = false → OffMap write addr.toNat size.toNat →
    ∃ t, exec (.hostControlRequest m write addr size data) s0 = .next t ∧ Answers s t m 2 [] ∧ t = { s with pins := t.pins })

/-! ## Reset, the always-on block and power -/

/-- POR_N, WARM_REQ and POWER_REMOVED: Reset, or Off, with every store empty and every stream Idle, while the always-on block, the fuses,
the log's slots and the timebase stay; while POR_N is 0, and in Off and Reset, the level of WARM_REQ is only followed (R47, R326, R329; that
Reset and Off follow at once in every state, what they keep, and that a domain whose fields disagree is asked for On once they agree, is log
entry 21, DEDUCED; that Off leaves the debug port in Test-Logic-Reset is the same entry, PRESUMED). The Pool's pointers are cleared with it, so
half 0 of every persistent region is current after both (DESIGN CHOICE, log entry 5).
RESET_COMPLETE: Boot begins 50,000 control cycles after the reset inputs are quiet; working SRAM is clear, CC0 alone runs, and FW_FETCH goes out
(R329, R330).
SECURITY_FIXED_TIME in Boot: nothing before the command's time (R365); a bundle that arrives goes to VERIFY; one that the boot ROM refuses leads
to Hold with 8; one that it accepts runs, with the cores assigned, out of reset, and REMAP set, and the copies of the repair map and then of the
trim records are read, one after the other (R292, R326, R330, R375). The model's choices (log entry 23, DEDUCED): a bundle that FW_FETCH does not
obtain counts as refused, Hold with 8; a copy whose read fails counts as none; the order of the reads.
BOOT_COMPLETE, once all six copies are there: a set without a copy to adopt leads to Hold with 5 or 6, the repair map's reason before the trim
records' (log entry 23, DEDUCED); with both sets selectable Hold follows with REASON 1 and RETLOST 0 (R326, R330, R331, R370, R371). Before that it
does nothing; its operands decide nothing. A decision whose records have no room waits, with the unit where it was (R304, R311; log entry 61). -/
def Obligations.ResetAndBoot : Prop :=
  (∀ (s : State),
    (s.unit.state ≠ .reset → ∃ t, exec (.porN false) s = .next t ∧ t.unit.state = .reset ∧ t.unit.porN = false ∧ Cleared s t) ∧
    (s.unit.state = .reset → exec (.porN false) s = .next { s with unit := { s.unit with porN := false } }) ∧
    (s.unit.state ≠ .reset → exec (.porN true) s = .next { s with unit := { s.unit with porN := true } }) ∧
    (s.unit.state = .reset → exec (.porN true) s = .next { s with unit := { s.unit with porN := true, resetAt := if s.unit.porN then s.unit.resetAt else s.clock.ctl } }) ∧
    (s.unit.porN = true → s.unit.state ≠ .reset → s.unit.state ≠ .off →
      ∃ t, exec (.warmReq true) s = .next t ∧ t.unit.state = .reset ∧ t.unit.warmReq = true ∧ Cleared s t) ∧
    (s.unit.porN = false ∨ s.unit.state = .off → ∀ b, exec (.warmReq b) s = .next { s with unit := { s.unit with warmReq := b } }) ∧
    (s.unit.porN = true → s.unit.state ≠ .reset → exec (.warmReq false) s = .next { s with unit := { s.unit with warmReq := false } }) ∧
    (s.unit.porN = true → s.unit.state = .reset → ∀ b, exec (.warmReq b) s =
      .next { s with unit := { s.unit with warmReq := b, resetAt := if b || !s.unit.warmReq then s.unit.resetAt else s.clock.ctl } }) ∧
    (s.unit.state ≠ .off → ∃ t, exec .powerRemoved s = .next t ∧ t.unit.state = .off ∧ t.dbg.ir = 0x01 ∧ Cleared s t) ∧
    (s.unit.state = .reset → s.unit.porN = true → s.unit.warmReq = false → s.unit.resetAt + 50000 ≤ s.clock.ctl → s.sec.req = none →
      ∃ t, exec .resetComplete s = .next t ∧ t.unit = { s.unit with state := .boot } ∧
        t.cores = { s.cores with sram := [], ctx := s.cores.ctx.set 0 .start } ∧
        t.sec.req = some ⟨0x0D, [Config.bootSlot], 0, none, .bootFetch⟩ ∧
        t = { s with unit := t.unit, log := t.log, ao := t.ao, regs := t.regs, cores := t.cores, sec := t.sec }) ∧
    (s.unit.state = .reset → s.clock.ctl < s.unit.resetAt + 50000 → exec .resetComplete s = .next s)) ∧
  (∀ (s : State) (r : SecReq) (status : BitVec 8) (data : List Byte) (at_ : BitVec 64), s.unit.state = .boot → s.sec.req = some r →
    s.sec.rsp = some (status, data, at_) →
    (s.clock.control.toNat < (r.sentTb.getD 0).toNat + fixedTime r.opcode → exec .securityFixedTime s = .next s) ∧
    ((r.sentTb.getD 0).toNat + fixedTime r.opcode ≤ s.clock.control.toNat →
      let refused := fun (t : State) => t.cores = s.cores ∧ t.sec.req = none ∧
        (if s.logRoom then t.unit.state = .hold ∧ t.unit.reason = 8 else t.unit = s.unit ∧ .firmware 0 .bootRefused ∈ t.held)
      let reads := fun (t : State) (set : Bool) (copy : BitVec 8) =>
        t.unit = s.unit ∧ t.sec.req = some ⟨0x0B, [if set then 1 else 0, copy], 0, none, .bootRead set copy.toNat⟩
      let version := Config.bundleVersion s.sec.draft
      (r.use = .bootFetch →
        ∃ t, exec .securityFixedTime s = .next t ∧ (status ≠ 0 → refused t) ∧
          (status = 0 → t.unit = s.unit ∧ t.cores = s.cores ∧ t.sec.draft = data ∧
            t.sec.req = some ⟨3, verifyOperands data, 0, none, .bootVerify⟩)) ∧
      (r.use = .bootVerify →
        ∃ t, exec .securityFixedTime s = .next t ∧ (status ≠ 0 ∨ version < s.ao.value 3 → refused t) ∧
          (status = 0 → s.ao.value 3 ≤ version → reads t false 0 ∧ t.cores.assigned = true ∧ t.cores.verified = true ∧ t.cores.remap = true ∧
            t.cores.f0 = 0 ∧ t.cores.f1 = 1 ∧ t.cores.f2 = 2 ∧ t.cores.stby = 3 ∧ t.cores.sram = s.cores.sram ∧
            t.cores.fwVersion = version ∧ t.cores.fwDigest = sha384 s.sec.draft ∧
            ∀ c : Fin 4, s.cores.failed.getLsbD c = false → t.cores.ctx[c] = .start)) ∧
      (∀ (set : Bool) (copy : Fin 3), r.use = .bootRead set copy →
        ∃ t, exec .securityFixedTime s = .next t ∧ (t.repair.copies set).getD copy [] = (if status = 0 then data else []) ∧
          t.repair.copies (!set) = s.repair.copies (!set) ∧ t.unit = s.unit ∧
          (copy < 2 → reads t set (BitVec.ofNat 8 (copy + 1))) ∧ (copy = 2 → set = false → reads t true 0) ∧
          (copy = 2 → set = true → t.repair.setsRead = true ∧ t.sec.req = none)))) ∧
  (∀ (s : State) (fw : BundleIn) (repairs trims : List (List Byte)),
    (s.unit.state = .boot → s.cores.verified = true → s.repair.setsRead = true → 254 < s.log.queue.length →
      ∃ t, exec (.bootComplete fw repairs trims) s = .next t ∧ t = { s with held := t.held } ∧ .firmware s.cores.f0 .bootRest ∈ t.held) ∧
    (s.unit.state = .boot → s.cores.verified = true → s.repair.setsRead = true → s.log.queue.length ≤ 254 →
      ∃ t, exec (.bootComplete fw repairs trims) s = .next t ∧ t.unit.state = .hold ∧ t.cores = s.cores ∧
        t.repair.maps = s.repair.maps ∧ t.repair.trims = s.repair.trims ∧ (∀ p, (t.stream p).ctx = Ctx.idle) ∧
        t.unit.reason = BitVec.ofNat 8 (if selectReason s.repair.maps ≠ 0 then selectReason s.repair.maps
          else if selectReason s.repair.trims ≠ 0 then selectReason s.repair.trims else 1) ∧
        (selectReason s.repair.maps = 0 → selectReason s.repair.trims = 0 → t.ao.retLost = false)) ∧
    (s.unit.state ≠ .boot ∨ s.cores.verified = false ∨ s.repair.setsRead = false →
      exec (.bootComplete fw repairs trims) s = .next s))

/-- RETENTION_LOSS: RETLOST is set, and the timebase resumes at (counter 1 + 1)·2^30, whichever cells and slots stay intact, with the regions'
readings at most 4 tb behind it (R70, R370, R374; log entries 4 and 22); each counter keeps its value, or has lost both cells, stands at 2^63,
or 2^33 − 1 for counter 1, and reports show CONTINUITY 0 (R373, R374; that it never falls back to its lower cell is log entry 22, DEDUCED). TIMEBASE_CHECKPOINT: counter 1 follows the timebase (R374).
LOG_RECORD_WRITE, at most once in 16 control cycles: the oldest queued record goes to slot SEQ mod 8,192, then its commit word (R310, R311). -/
def Obligations.AlwaysOnActs : Prop :=
  ∀ (s : State),
    (∃ t, exec .retentionLoss s = .next t ∧ t = { s with ao := t.ao, clock := t.clock, log := t.log } ∧ t.ao.retLost = true ∧
      t.ao.tenant = s.ao.tenant ∧ t.log.slots = s.log.slots ∧ t.log.queue = s.log.queue ∧
      t.clock = { s.clock with tb := t.clock.tb, centre := t.clock.centre, control := t.clock.control, drawn := t.clock.drawn } ∧
      (∀ v ∈ [t.clock.centre, t.clock.control], v.toNat ≤ t.clock.tb.toNat ∧ t.clock.tb.toNat ≤ v.toNat + 4) ∧
      t.clock.tb.toNat = ((t.ao.value 1).toNat + 1) * 2 ^ 30 % 2 ^ 64 ∧
      (∀ i : Fin 4, if t.ao.cellA[i].intact || t.ao.cellB[i].intact then t.ao.value i = s.ao.value i
        else t.ao.value i = BitVec.ofNat 64 (if i = 1 then 2 ^ 33 - 1 else 2 ^ 63) ∧ t.ao.continuity = false)) ∧
    ((s.ao.value 1).toNat < s.clock.tb.toNat / 2 ^ 30 → (∃ t, exec .timebaseCheckpoint s = .next t ∧ t = { s with ao := t.ao } ∧
      t.ao.value 1 = s.ao.value 1 + 1 ∧ t.ao.value 0 = s.ao.value 0 ∧ t.ao.value 2 = s.ao.value 2 ∧ t.ao.value 3 = s.ao.value 3)) ∧
    (∀ r rest, s.log.queue = r :: rest → s.log.lost = 0 → s.unit.state ≠ .off → s.unit.state ≠ .reset → s.unit.state ≠ .frozen →
      (s.clock.ctl < s.log.nextAt → exec .logRecordWrite s = .next s) ∧
      (s.log.nextAt ≤ s.clock.ctl →
        ∃ t : State, exec .logRecordWrite s = .next t ∧ t = { s with log := t.log } ∧
          t.log.queue = rest ∧ t.log.lost = 0 ∧ t.log.nextAt = s.clock.ctl + 16 ∧
          (r.seq.toNat % 8192, r) ∈ t.log.slots ∧ sparseGet 0 t.log.commit (r.seq.toNat % 8192) = r.seq ∧
          ∀ x ∈ s.log.slots, x.1 ≠ r.seq.toNat % 8192 → x ∈ t.log.slots))

/-- DOMAIN_STATE_CHANGE: PM_DOM_CUR comes to show the requested state. Where that is not Off, nothing but the domains' fields, the records and
the counters changes. In Off a lane array loses its Pool banks and tile lanes with the write buffers and in-use flags, ST the Setting Store, SK
what the Separator and the Skimmer had in work, SL its ports, queues and write buffers with the descriptors and memory regions, CS the programs,
schedules and seed tables, and BA the wells; no word of them is without correct code afterwards (R45, R378, R379); that the first copies of
persistent wells are current after Off of BA is the model's choice (log entry 5, DESIGN CHOICE).
PM_OP_ACK: the acknowledgement is late from the named frame on, and after offset 1,983 of the frame before (R386).
POLICY_PASS: the installer's settings are put in force, and FORCE_SLOW asks for SLOWEST eight frames ahead, at most once in 64 frames (R307, R386,
R387, R415); R386 asks for 8 frames at least, and exactly 8 is the model's choice (log entry 42, DESIGN CHOICE). -/
def Obligations.PowerActs : Prop :=
  ∀ (s : State),
    (∀ d : BitVec 5, d.toNat < 24 → s.unit.state ≠ .off → s.domReq d.toNat ≠ s.domCur d.toNat →
      ∃ t, exec (.domainStateChange d) s = .next t ∧ t.domCur d.toNat = s.domReq d.toNat ∧
        (∀ k, k ≠ d.toNat → t.domCur k = s.domCur k) ∧ t.ledger = s.ledger ∧ t.clock = s.clock ∧ t.unit = s.unit ∧ t.cores = s.cores ∧
        (s.power.wake.contains d.toNat = false → t.power.req = s.power.req) ∧
        (s.domReq d.toNat ≠ 3 → t = { s with power := t.power, log := t.log, ao := t.ao, regs := t.regs }) ∧
        (s.domReq d.toNat = 3 →
          (∀ x ∈ t.eccBad, s.wordIn d.toNat x = false) ∧ (∀ x ∈ t.eccOne, s.wordIn d.toNat x = false) ∧
          (d.toNat < 16 → (∀ a, memGet t.pool.bytes a = if s.inArray d.toNat a then 0 else memGet s.pool.bytes a) ∧ t.pool.wbuf = [] ∧
            t.pool.marks = [] ∧ (∀ a, memGet t.tiles a = if a % 8192 / 512 = d.toNat then 0 else memGet s.tiles a) ∧ t.tileUse = []) ∧
          (16 ≤ d.toNat → t.pool = s.pool ∧ t.tiles = s.tiles ∧ t.tileUse = s.tileUse) ∧
          (d.toNat = 16 → t.image.bank = { s.image.bank with programs := [], fill := 0, landings := [], releases := [], seeds := [] }) ∧
          (d.toNat = 17 → t.settings = { s.settings with bytes := [], valid := [], staged := [] }) ∧
          (d.toNat = 18 → ∀ a ∈ t.inflight, match a.act with
            | .sepr _ _ _ _ _ => False | .skim _ _ _ _ _ _ => False | .output _ _ _ _ _ => False | _ => a ∈ s.inflight) ∧
          (d.toNat = 19 → t.basin = { wells := [], ptr := [], touched := [], written := [], marks := [] }) ∧
          (d.toNat = 21 → t.image.bank = { s.image.bank with descs := [], memRegions := [] } ∧ (∀ i, t.port i = .idle) ∧
            (∀ p, (t.stream p).jobs = [] ∧ (t.stream p).ctx = (s.stream p).ctx) ∧
            ∀ a ∈ t.inflight, match a.act with | .land _ _ _ => False | _ => a ∈ s.inflight))) ∧
    (s.power.opOut = true → s.power.opAck = false → s.unit.state ≠ .off →
      ∃ t, exec .pmOpAck s = .next t ∧ t = { s with power := { s.power with opAck := true, opLate := t.power.opLate } } ∧
        (t.power.opLate = true ↔ framePast s.power.opFrame s.clock.frame = true ∨
          (s.power.opFrame = s.clock.frame + 1 ∧ 1983 < s.clock.offset))) ∧
    (s.power.passAt ≤ s.clock.control → s.coreRuns s.cores.f1 = true →
      ∃ t, exec .policyPass s = .next t ∧ t.power.budgets = s.regs.budgets ∧ t.pool.churn.enable = s.regs.churnOn ∧
        t.pool.churn.thresh = s.regs.thresh ∧ t.streams = s.streams ∧ t.ledger = s.ledger ∧
        t.power.passAt = BitVec.ofNat 64 ((s.clock.control.toNat / 1000000 + 1) * 1000000) ∧
        (s.regs.forceSlow = true → s.regs.fastest ≤ s.regs.slowest → s.logRoom = true → s.power.opOut = false →
          (∀ x, s.power.opTick = some x → x + 64 ≤ s.clock.ticks) → s.clock.point ≠ s.regs.slowest →
          t.power.opOut = true ∧ t.power.opReq = s.regs.slowest ∧ t.power.opFrame = s.clock.frame + 8))

/-- SENSOR_READING and PSI_SENSE: word i / 2 holds the latest DATA of identifier i, in its low half where i is even and in its high half
where i is odd, as delivered; no master writes it, and it resets to 0 (R430). -/
def Obligations.SensorReadings : Prop :=
  (∀ (s : State) (id : BitVec 6) (data : BitVec 16), id.toNat < 0x1A → s.unit.state ≠ .off → s.unit.state ≠ .reset →
    ∃ t, exec (.sensorReading id data) s = .next t ∧ t = { s with power := t.power, regs := t.regs } ∧
      ∀ m, field (t.regWord m (0x360 + 4 * (id.toNat / 2))) (if id.toNat % 2 = 0 then 0 else 16) 16 = data.toNat ∧
        ∀ j < 0x1A, j ≠ id.toNat → field (t.regWord m (0x360 + 4 * (j / 2))) (if j % 2 = 0 then 0 else 16) 16 =
          field (s.regWord m (0x360 + 4 * (j / 2))) (if j % 2 = 0 then 0 else 16) 16) ∧
  (∀ m, ∀ w < 13, mayWrite m (0x360 + 4 * w) = false) ∧
  ∀ m, ∀ w < 13, State.reset.regWord m (0x360 + 4 * w) = 0

/-! ## The debug port -/

/-- The codes of the IEEE 1149.1 port's instruction register, with every other code as BYPASS, and Test-Logic-Reset, which selects IDCODE (R395).
FREEZE where DEBUG is in effect is admitted to the Control crossing; an edge that is not admitted makes one record of kind consent-refused with
ADDR 1 (R391). IDCODE, EXTEST, SAMPLE/PRELOAD, BYPASS, FZSTAT, FZADDR and FZDATA select their data register and change nothing else; their captures
are those of R395; FZADDR issues the next read of the window while DEBUG is in effect, FZDATA always (R395, R396); a capture of FZDATA before 16 control cycles have passed always misses, and FZADDR's capture leaves the value shifted in:
log entries 35 (DEDUCED) and 65 (DESIGN CHOICE). FZSTAT sees what the step of a tick leaves (R53). FREEZE_READOUT shows the window to the debug
port alone (R394). -/
def Obligations.DebugPortActs : Prop :=
  (debugIr 0x00 = .extest ∧ debugIr 0x01 = .idcode ∧ debugIr 0x02 = .sample ∧ debugIr 0x20 = .fzstat ∧ debugIr 0x21 = .fzaddr ∧ debugIr 0x22 = .fzdata ∧
    (∀ c : BitVec 8, c ∉ [0x00, 0x01, 0x02, 0x20, 0x21, 0x22] → debugIr c = .bypass) ∧ ∀ s : State, debugIr s.testLogicReset.dbg.ir = .idcode) ∧
  ∀ (s : State),
    (s.debugOn = true → s.unit.state ≠ .off → s.unit.state ≠ .reset → s.unit.state ≠ .frozen →
      exec .freeze s = .next { s with crossing := s.crossing ++ [⟨s.clock.ctl, .freeze⟩] }) ∧
    (s.debugOn = false ∨ s.unit.state = .reset → s.unit.state ≠ .off → s.unit.state ≠ .frozen → s.logRoom = true →
      ∃ t, exec .freeze s = .next t ∧ t = { s with log := t.log, ao := t.ao } ∧ Logs s t 0x12 3 0xFF 1 0 0 0) ∧
    exec .idcode s = .next { s with dbg := { s.dbg with ir := 0x01, dr := leBytes 4 s.idWord } } ∧
    field s.idWord 0 1 = 1 ∧ field s.idWord 1 11 = s.fuses.manufacturer.toNat ∧ field s.idWord 12 16 = s.cfg.part.toNat ∧
    field s.idWord 28 4 = s.fuses.revision.toNat ∧
    exec .extest s = .next { s with dbg := { s.dbg with ir := 0x00, dr := [0] } } ∧
    exec .samplePreload s = .next { s with dbg := { s.dbg with ir := 0x02, dr := [0] } } ∧
    exec .bypass s = .next { s with dbg := { s.dbg with ir := 0xFF, dr := [0] } } ∧
    (∀ s0 : State, s = s0.closeTick → ∃ t, exec .fzstat s0 = .next t ∧ t = { s with dbg := { s.dbg with ir := 0x20, dr := t.dbg.dr } } ∧
      (s.debugOn = false → leNat t.dbg.dr = 0) ∧
      (s.debugOn = true → field (leNat t.dbg.dr) 0 4 = unitCode s.unit.state ∧ bitOf (leNat t.dbg.dr) 4 = s.dbg.frozen ∧
        bitOf (leNat t.dbg.dr) 5 = true ∧ bitOf (leNat t.dbg.dr) 6 = s.dbg.rdmiss ∧ field (leNat t.dbg.dr) 7 9 = 0 ∧
        field (leNat t.dbg.dr) 16 48 = s.dbg.frame.toNat)) ∧
    (∀ v : BitVec 32, ∃ t, exec (.fzaddr v) s = .next t ∧ t = { s with dbg := t.dbg } ∧ t.dbg.addr.toNat = v.toNat % 2 ^ 24 / 64 * 64 ∧ t.dbg.ir = 0x21 ∧
      t.dbg.page = v.extractLsb' 24 4 ∧ (s.debugOn = true → t.dbg.readAt = some s.clock.ctl) ∧
      (s.debugOn = false → t.dbg.readAt = s.dbg.readAt)) ∧
    (∃ t, exec .fzdata s = .next t ∧ t = { s with dbg := t.dbg } ∧ t.dbg.ir = 0x22 ∧
      t.dbg.addr.toNat = (s.dbg.addr.toNat + 64) % 2 ^ 24 ∧ t.dbg.readAt = some s.clock.ctl ∧
      (s.debugOn = false → t.dbg.dr = List.replicate 64 0 ∧ t.dbg.rdmiss = s.dbg.rdmiss) ∧
      (∀ at_, s.debugOn = true → s.dbg.readAt = some at_ → at_ + 16 ≤ s.clock.ctl → s.dbg.read.length = 64 →
        t.dbg.dr = s.dbg.read ∧ t.dbg.rdmiss = false) ∧
      (∀ at_, s.debugOn = true → s.dbg.readAt = some at_ → s.clock.ctl < at_ + 16 →
        t.dbg.dr = List.replicate 64 0xFF ∧ t.dbg.rdmiss = true)) ∧
    (∀ (addr : BitVec 24) (size : BitVec 7), wellSized addr.toNat size.toNat = true →
      (s.unit.state = .frozen → s.debugOn = true → s.unit.matrixOff = false →
        ∃ t, exec (.freezeReadout .debug addr size) s = .next t ∧
          Answers s t .debug 0 ((List.range size.toNat).map (fun i => s.freezeByte 0 (addr.toNat + i))) ∧ t = { s with pins := t.pins }) ∧
      ∀ (s0 : State) (id : BitVec 5), Serves s0 s (.host 2 id) → s.unit.matrixOff = false →
        ∃ t, exec (.freezeReadout (.host 2 id) addr size) s0 = .next t ∧ Answers s t (.host 2 id) 0 (List.replicate size.toNat 0) ∧
          t = { s with pins := t.pins })

/-! ## The machine -/

/-- A step with a command at the front of the queue is that command's effect on the state with the queue's rest. -/
def Obligations.StepRunsFront : Prop :=
  ∀ (s : State) (c : Instr) (rest : List Instr), s.pending = c :: rest → step s = exec c { s with pending := rest }

/-- On an empty queue a core cycle passes (DESIGN CHOICE, log entry 1): the step of a tick that still stands open ends with it (R53); one cycle,
and the timebase and the control clock by 1,000 and 1,600 MHz ticks over the operating point's frequency, here while no act waits (R69, R70,
R385).
What is on its way and due arrives in the cycle, here where nothing else is, no slab waits to leave a defective Cascade and the clear engine
rests: a result puts its bytes into the share's lanes, sets the in-use flag
and joins its mark to the share's (R26, R28, R279, R434); a Sluice landing puts its bytes into the Pool (R202); an access of the Ledger's port A
is performed as the cycle in which it is due ends (R113, R284; log entry 54, DESIGN CHOICE); a weir's release drives data, sideband and ROW_SLIP,
on its partition's flumes alone, with the half of the conservation word that belongs to the cycle (R23, R27, R29, R58, R82). -/
def Obligations.CyclePasses : Prop :=
  (∀ (s : State), s.pending = [] → step s = .next s.coreCycle ∧ s.coreCycle = s.closeTick.coreCycle ∧ s.closeTick.unit.window = false) ∧
  (∀ (s : State), s.pending = [] → s.unit.window = false → s.held = [] → s.clock.tbRem < coreMHz s.clock.point →
    s.clock.ctlRem < coreMHz s.clock.point →
    ∃ t, step s = .next t ∧ t.pending = [] ∧ t.cfg = s.cfg ∧ t.clock.cycles = s.clock.cycles + 1 ∧ t.clock.frame = s.clock.frame ∧
      t.clock.point = s.clock.point ∧ t.clock.ticks = s.clock.ticks ∧
      t.clock.offset = (if s.unit.state = .frozen then s.clock.offset else s.clock.offset + 1) ∧
      (t.clock.tb - s.clock.tb).toNat * coreMHz s.clock.point + t.clock.tbRem = s.clock.tbRem + 1000 ∧
      (t.clock.ctl - s.clock.ctl) * coreMHz s.clock.point + t.clock.ctlRem = s.clock.ctlRem + 1600) ∧
  (∀ (s : State) (p : StreamId), s.unit.window = false → s.held = [] → s.unit.state ≠ .frozen → s.cycle.passing = [] → s.unit.clear = none →
    let t := s.coreCycle
    (∀ r cells mark, s.inflight = [⟨s.clock.offset + 1, p, .tile r cells mark⟩] ∨
        s.inflight = [⟨s.clock.offset + 1, p, .landing r cells mark⟩] →
      let w := s.writeCopy p r
      t.tiles = writeCells (if s.tileUse.contains (shareKey p w) then s.tiles else s.dropShare p w)
        (cells.map (fun x => (tileKey w (s.globalLane p x.1), x.2))) ∧
      t.tileUse = insertNat s.tileUse (shareKey p w) ∧ t.tileMarks = markAdd s.tileMarks (shareKey p w) mark ∧ t.inflight = []) ∧
    (∀ order cells positions, s.inflight = [⟨s.clock.offset + 1, p, .land order cells positions⟩] → s.pool.wbuf = [] →
      (∀ q, ∀ j ∈ (s.stream q).jobs, j.phase ≠ .forming) →
      t.pool.bytes = writeCells s.pool.bytes cells ∧
        ∀ j ∈ (t.stream p).jobs, j.order = order → ∀ x ∈ positions, x ∉ j.left) ∧
    (∀ op eff pc, s.inflight = [⟨s.clock.offset, p, .ledger op eff pc⟩] → t.ledger = (s.ledgerDo p op eff pc).ledger) ∧
    (∀ lanes poison slip, s.inflight = [⟨s.clock.offset + 1, p, .release lanes poison slip⟩] →
      t.pins.slip = slip ∧ ∀ f : Fin 16,
        let bytes := (List.range (flumeBytes s.cfg)).map (fun b => lanes.getD (s.flumeLane f b) 0)
        (f.val % s.parts = p.toNat →
          t.pins.sb[f] = sideband true poison (s.recAt p 6 1) (s.recAt p 4 2) (consHalf (s.clock.offset + 1) bytes) ∧
          ∀ b < flumeBytes s.cfg, memGet t.pins.data (f.val * 512 + b) = lanes.getD (s.flumeLane f b) 0) ∧
        (f.val % s.parts ≠ p.toNat →
          t.pins.sb[f] = sideband false false (s.recAt (BitVec.ofNat 4 (f.val % s.parts)) 6 1) 0 0 ∧
          ∀ b < flumeBytes s.cfg, memGet t.pins.data (f.val * 512 + b) = 0)))

/-- Reset: the values that the spec gives its registers, every memory of bytes in canonical form, no command waiting, and every stream Idle
(R89, R329, R406, R410, R414, R415, R419, R433). -/
def Obligations.ResetState : Prop :=
  State.reset.MemsWf ∧ State.reset.unit.state = .reset ∧ State.reset.pending = [] ∧ (∀ p, (State.reset.stream p).ctx = Ctx.idle) ∧
  (∀ x ∈ [(0x8, 0), (0x10, 0), (0x18, 0), (0x20, 0), (0x48, 0), (0x50, 0), (0x88, 0), (0x100, 4), (0x104, 0), (0x108, 0xFFFFFFFF), (0x10C, 0x32000070),
      (0x110, 0x4000), (0x120, 0), (0x148, 0), (0x180, 0), (0x200, 0), (0x220, 0), (0x244, 0), (0x248, 0), (0x24C, 0), (0x300, 0), (0x404, 0)],
    ∀ id, State.reset.regWord id x.1 = x.2) ∧
  (∀ off, 0x800 ≤ off → off < 0x884 → ∀ id, State.reset.regWord id off = 0) ∧
  (∀ d ∈ State.reset.switchable, State.reset.domCur d = 0)

/-- Every step that goes on keeps every memory of bytes in its canonical form: keys strictly rising, and no entry that equals what an unlisted
address reads as. -/
def Obligations.StepKeepsMemsWf : Prop :=
  ∀ (s t : State), s.MemsWf → step s = .next t → t.MemsWf

/-- Decode and encode agree over the program words of R104 to R142: every well-formed instruction, at every operand value, decodes from its own
word, and a word that decodes is the word of what it decodes to. That words of TWAIT and TADD with bits [31:30] set do not decode is the model's choice
(log entry 60, DESIGN CHOICE). -/
def Obligations.WordRoundTrip : Prop :=
  (∀ (e : LoopEnd) (op : Op), wordWf e op = true → decodeWord (encodeWord e op) = some (e, op)) ∧
  ∀ (w : BitVec 128) (e : LoopEnd) (op : Op), decodeWord w = some (e, op) → wordWf e op = true ∧ encodeWord e op = w

/-- Frame numbers are compared modulo 2^48: M is past or current in N where (N − M) mod 2^48 is less than 2^47, and else in the future of N; the
comparison has no exception at the wrap (R50). -/
def Obligations.FrameOrder : Prop :=
  ∀ m n : Frame, (framePast m n = true ↔ (n.toNat + 2 ^ 48 - m.toNat) % 2 ^ 48 < 2 ^ 47) ∧
    (framePast m n = false ↔ 2 ^ 47 ≤ (n.toNat + 2 ^ 48 - m.toNat) % 2 ^ 48) ∧ ∀ k, framePast (m + k) (n + k) = framePast m n

/-- A loop (R110): LEND at a level whose count is above 1 branches to LSTART and takes one; a count of 1 becomes 0 and the next PC follows; an
unbounded loop always branches; without LEND the PC follows and no counter changes. The next PC after index 8,191 is no index (R112). -/
def Obligations.LoopBranches : Prop :=
  ∀ (c : Ctx) (e : LoopEnd),
    let i : Fin 4 := ⟨e.lvl.toNat, by have := e.lvl.isLt; omega⟩
    (e.lend = false → (c.step e).1 = { c with pc := (c.step e).1.pc } ∧ (c.pc ≠ 8191 → (c.step e).1.pc = c.pc + 1)) ∧
    (e.lend = true → c.loop[i] = 0xFFFFFF → c.step e = ({ c with pc := c.lstart[i] }, false)) ∧
    (e.lend = true → c.loop[i] ≠ 0xFFFFFF → 1 < c.loop[i] →
      c.step e = ({ c with pc := c.lstart[i], loop := c.loop.set i (c.loop[i] - 1) }, false)) ∧
    (e.lend = true → c.loop[i] = 1 → (c.step e).1.loop = c.loop.set i 0 ∧ (c.pc ≠ 8191 → (c.step e).1.pc = c.pc + 1))

/-- The plane form (R155): bit i of element e is bit e mod 8 of byte i·L/8 + e / 8; the element form is its inverse, and it is the block layout of
R129 at w = 8. -/
def Obligations.PlaneForm : Prop :=
  ∀ (bs : List Byte), bs.length % 8 = 0 →
    (toElements bs).length = bs.length ∧ (toPlanes bs).length = bs.length ∧
    (∀ e i, e < bs.length → i < 8 → ((toElements bs).getD e 0).getLsbD i = (bs.getD (i * (bs.length / 8) + e / 8) 0).getLsbD (e % 8)) ∧
    toPlanes (toElements bs) = bs ∧ toElements (toPlanes bs) = bs ∧ toPlanes bs = packBlock 8 bs ∧ toElements bs = unpackBlock 8 bs.length bs

/-- PBPC's mapping (R123, R153): bit i of the destination lane is bit SRCBIT_i of the source lane, inverted where CMP_i is 1; as the SRCBIT values are a
permutation of 0 to n − 1, the mapping is a bijection, and no byte of the slab is lost. -/
def Obligations.BitPermutes : Prop :=
  ∀ (n : Nat) (map : BitVec 65), n ≤ 13 → ((List.range n).map (fun i => field map.toNat (5 * i) 5 % 16)).Perm (List.range n) →
    (∀ s i, i < n → bitOf (bpcDest n map s) i = (bitOf s (field map.toNat (5 * i) 5 % 16) != bitOf (field map.toNat (5 * i) 5) 4)) ∧
    (bpcVector n map).Perm (List.range (2 ^ n)) ∧
    ∀ slab : List Byte, slab.length = 2 ^ n →
      (permuteBy (bpcVector n map) slab).Perm slab ∧
      ∀ s < 2 ^ n, (permuteBy (bpcVector n map) slab).getD (bpcDest n map s) 0 = slab.getD s 0

/-- The conservation word (R341): B, the sum of the squares, in its high half and A, the sum, in its low half, both modulo 2^16; it does not depend on the
order of the bytes, and a change of exactly one byte always changes A. -/
def Obligations.ConservationWord : Prop :=
  (∀ bs : List Byte, (consWord bs).toNat = 2 ^ 16 * ((bs.map (fun b => b.toNat * b.toNat)).sum % 2 ^ 16) + (bs.map (·.toNat)).sum % 2 ^ 16) ∧
  (∀ a b : List Byte, a.Perm b → consWord a = consWord b) ∧
  ∀ (pre post : List Byte) (x y : Byte), x ≠ y → (consWord (pre ++ x :: post)).setWidth 16 ≠ (consWord (pre ++ y :: post)).setWidth 16

/-- SEPR's sort (R236): with CAP 0 the placed keys stand by bucket and, within a bucket, in input order, so that key i of value b < B takes position
(number of keys below b) + (number of earlier keys equal to b); with a capacity it takes b·CAP + its rank while the rank is below CAP, and is
dropped from then on; a key of B or more is never placed. -/
def Obligations.SeparatorSorts : Prop :=
  ∀ (b cap : Nat) (keys : List Nat), b ≤ 65536 →
    let rank := fun i => (keys.take i).countP (fun k => decide (k = keys.getD i 0))
    let w := seprPlace b cap (if cap = 0 then keys.length else b * cap) (seprPrefix cap (seprOffered b keys)) keys
    w.pos.length = keys.length ∧
    ∀ i < keys.length, w.pos.getD i none =
      (if b ≤ keys.getD i 0 then none
       else if cap = 0 then some (keys.countP (fun k => decide (k < keys.getD i 0)) + rank i)
       else if rank i < cap then some (keys.getD i 0 * cap + rank i) else none) ∧
      ∀ n, w.pos.getD i none = some n → w.idx.getD n none = some i
end

