-- ==== Sys2Proof/Laws/State.lean ====
section
/-! SUPPORT. What each shared update leaves of the state: one lemma for a field of State and an update that does not touch it. -/

namespace Sys2Proof.Machine

/-! ## Streams -/

theorem State.stream_setStream (s : State) (i j : StreamId) (x : Stream) :
    (s.setStream i x).stream j = if j = i then x else s.stream j := by
  unfold State.stream State.setStream
  by_cases h : j = i
  · subst h; simp
  · simp [h, show i.toNat ≠ j.toNat from fun c => h (BitVec.eq_of_toNat_eq c.symm)]

@[simp] theorem State.stream_setStream_self (s : State) (i : StreamId) (x : Stream) : (s.setStream i x).stream i = x := by
  simp [State.stream_setStream]

theorem State.stream_modStream (s : State) (i j : StreamId) (f : Stream → Stream) :
    (s.modStream i f).stream j = if j = i then f (s.stream i) else s.stream j := s.stream_setStream i j _

@[simp] theorem State.stream_modStream_self (s : State) (i : StreamId) (f : Stream → Stream) :
    (s.modStream i f).stream i = f (s.stream i) := by simp [State.stream_modStream]

theorem State.stream_modStream_ne (s : State) {i j : StreamId} (f : Stream → Stream) (h : j ≠ i) :
    (s.modStream i f).stream j = s.stream j := by simp [State.stream_modStream, h]

/-- Two states with the same streams have the same stream. -/
theorem State.stream_congr {s t : State} (h : s.streams = t.streams) (i : StreamId) : s.stream i = t.stream i := by
  unfold State.stream; simp [h]

theorem State.stream_mapStreams (s : State) (f : StreamId → Stream → Stream) (i : StreamId) :
    (s.mapStreams f).stream i = f i (s.stream i) := by
  unfold State.stream State.mapStreams; simp

/-! ### setStream -/

@[simp] theorem State.setStream_cfg (s : State) (i : StreamId) (x : Stream) : (s.setStream i x).cfg = s.cfg := rfl
@[simp] theorem State.setStream_slices (s : State) (i : StreamId) (x : Stream) : (s.setStream i x).slices = s.slices := rfl
@[simp] theorem State.setStream_clock (s : State) (i : StreamId) (x : Stream) : (s.setStream i x).clock = s.clock := rfl
@[simp] theorem State.setStream_unit (s : State) (i : StreamId) (x : Stream) : (s.setStream i x).unit = s.unit := rfl
@[simp] theorem State.setStream_collector (s : State) (i : StreamId) (x : Stream) : (s.setStream i x).collector = s.collector := rfl
@[simp] theorem State.setStream_collectAt (s : State) (i : StreamId) (x : Stream) : (s.setStream i x).collectAt = s.collectAt := rfl
@[simp] theorem State.setStream_inflight (s : State) (i : StreamId) (x : Stream) : (s.setStream i x).inflight = s.inflight := rfl
@[simp] theorem State.setStream_tiles (s : State) (i : StreamId) (x : Stream) : (s.setStream i x).tiles = s.tiles := rfl
@[simp] theorem State.setStream_tileUse (s : State) (i : StreamId) (x : Stream) : (s.setStream i x).tileUse = s.tileUse := rfl
@[simp] theorem State.setStream_tileMarks (s : State) (i : StreamId) (x : Stream) : (s.setStream i x).tileMarks = s.tileMarks := rfl
@[simp] theorem State.setStream_tilesWritten (s : State) (i : StreamId) (x : Stream) : (s.setStream i x).tilesWritten = s.tilesWritten := rfl
@[simp] theorem State.setStream_cycle (s : State) (i : StreamId) (x : Stream) : (s.setStream i x).cycle = s.cycle := rfl
@[simp] theorem State.setStream_pool (s : State) (i : StreamId) (x : Stream) : (s.setStream i x).pool = s.pool := rfl
@[simp] theorem State.setStream_settings (s : State) (i : StreamId) (x : Stream) : (s.setStream i x).settings = s.settings := rfl
@[simp] theorem State.setStream_basin (s : State) (i : StreamId) (x : Stream) : (s.setStream i x).basin = s.basin := rfl
@[simp] theorem State.setStream_ledger (s : State) (i : StreamId) (x : Stream) : (s.setStream i x).ledger = s.ledger := rfl
@[simp] theorem State.setStream_ports (s : State) (i : StreamId) (x : Stream) : (s.setStream i x).ports = s.ports := rfl
@[simp] theorem State.setStream_image (s : State) (i : StreamId) (x : Stream) : (s.setStream i x).image = s.image := rfl
@[simp] theorem State.setStream_crossing (s : State) (i : StreamId) (x : Stream) : (s.setStream i x).crossing = s.crossing := rfl
@[simp] theorem State.setStream_regs (s : State) (i : StreamId) (x : Stream) : (s.setStream i x).regs = s.regs := rfl
@[simp] theorem State.setStream_cores (s : State) (i : StreamId) (x : Stream) : (s.setStream i x).cores = s.cores := rfl
@[simp] theorem State.setStream_repair (s : State) (i : StreamId) (x : Stream) : (s.setStream i x).repair = s.repair := rfl
@[simp] theorem State.setStream_recov (s : State) (i : StreamId) (x : Stream) : (s.setStream i x).recov = s.recov := rfl
@[simp] theorem State.setStream_log (s : State) (i : StreamId) (x : Stream) : (s.setStream i x).log = s.log := rfl
@[simp] theorem State.setStream_ao (s : State) (i : StreamId) (x : Stream) : (s.setStream i x).ao = s.ao := rfl
@[simp] theorem State.setStream_fuses (s : State) (i : StreamId) (x : Stream) : (s.setStream i x).fuses = s.fuses := rfl
@[simp] theorem State.setStream_sec (s : State) (i : StreamId) (x : Stream) : (s.setStream i x).sec = s.sec := rfl
@[simp] theorem State.setStream_scrub (s : State) (i : StreamId) (x : Stream) : (s.setStream i x).scrub = s.scrub := rfl
@[simp] theorem State.setStream_power (s : State) (i : StreamId) (x : Stream) : (s.setStream i x).power = s.power := rfl
@[simp] theorem State.setStream_perf (s : State) (i : StreamId) (x : Stream) : (s.setStream i x).perf = s.perf := rfl
@[simp] theorem State.setStream_dbg (s : State) (i : StreamId) (x : Stream) : (s.setStream i x).dbg = s.dbg := rfl
@[simp] theorem State.setStream_pins (s : State) (i : StreamId) (x : Stream) : (s.setStream i x).pins = s.pins := rfl
@[simp] theorem State.setStream_inputs (s : State) (i : StreamId) (x : Stream) : (s.setStream i x).inputs = s.inputs := rfl
@[simp] theorem State.setStream_held (s : State) (i : StreamId) (x : Stream) : (s.setStream i x).held = s.held := rfl
@[simp] theorem State.setStream_defects (s : State) (i : StreamId) (x : Stream) : (s.setStream i x).defects = s.defects := rfl
@[simp] theorem State.setStream_eccBad (s : State) (i : StreamId) (x : Stream) : (s.setStream i x).eccBad = s.eccBad := rfl
@[simp] theorem State.setStream_eccOne (s : State) (i : StreamId) (x : Stream) : (s.setStream i x).eccOne = s.eccOne := rfl
@[simp] theorem State.setStream_eccCover (s : State) (i : StreamId) (x : Stream) : (s.setStream i x).eccCover = s.eccCover := rfl
@[simp] theorem State.setStream_pending (s : State) (i : StreamId) (x : Stream) : (s.setStream i x).pending = s.pending := rfl

/-! ### modStream -/

@[simp] theorem State.modStream_cfg (s : State) (i : StreamId) (f : Stream → Stream) : (s.modStream i f).cfg = s.cfg := rfl
@[simp] theorem State.modStream_slices (s : State) (i : StreamId) (f : Stream → Stream) : (s.modStream i f).slices = s.slices := rfl
@[simp] theorem State.modStream_clock (s : State) (i : StreamId) (f : Stream → Stream) : (s.modStream i f).clock = s.clock := rfl
@[simp] theorem State.modStream_unit (s : State) (i : StreamId) (f : Stream → Stream) : (s.modStream i f).unit = s.unit := rfl
@[simp] theorem State.modStream_collector (s : State) (i : StreamId) (f : Stream → Stream) : (s.modStream i f).collector = s.collector := rfl
@[simp] theorem State.modStream_collectAt (s : State) (i : StreamId) (f : Stream → Stream) : (s.modStream i f).collectAt = s.collectAt := rfl
@[simp] theorem State.modStream_inflight (s : State) (i : StreamId) (f : Stream → Stream) : (s.modStream i f).inflight = s.inflight := rfl
@[simp] theorem State.modStream_tiles (s : State) (i : StreamId) (f : Stream → Stream) : (s.modStream i f).tiles = s.tiles := rfl
@[simp] theorem State.modStream_tileUse (s : State) (i : StreamId) (f : Stream → Stream) : (s.modStream i f).tileUse = s.tileUse := rfl
@[simp] theorem State.modStream_tileMarks (s : State) (i : StreamId) (f : Stream → Stream) : (s.modStream i f).tileMarks = s.tileMarks := rfl
@[simp] theorem State.modStream_tilesWritten (s : State) (i : StreamId) (f : Stream → Stream) : (s.modStream i f).tilesWritten = s.tilesWritten := rfl
@[simp] theorem State.modStream_cycle (s : State) (i : StreamId) (f : Stream → Stream) : (s.modStream i f).cycle = s.cycle := rfl
@[simp] theorem State.modStream_pool (s : State) (i : StreamId) (f : Stream → Stream) : (s.modStream i f).pool = s.pool := rfl
@[simp] theorem State.modStream_settings (s : State) (i : StreamId) (f : Stream → Stream) : (s.modStream i f).settings = s.settings := rfl
@[simp] theorem State.modStream_basin (s : State) (i : StreamId) (f : Stream → Stream) : (s.modStream i f).basin = s.basin := rfl
@[simp] theorem State.modStream_ledger (s : State) (i : StreamId) (f : Stream → Stream) : (s.modStream i f).ledger = s.ledger := rfl
@[simp] theorem State.modStream_ports (s : State) (i : StreamId) (f : Stream → Stream) : (s.modStream i f).ports = s.ports := rfl
@[simp] theorem State.modStream_image (s : State) (i : StreamId) (f : Stream → Stream) : (s.modStream i f).image = s.image := rfl
@[simp] theorem State.modStream_crossing (s : State) (i : StreamId) (f : Stream → Stream) : (s.modStream i f).crossing = s.crossing := rfl
@[simp] theorem State.modStream_regs (s : State) (i : StreamId) (f : Stream → Stream) : (s.modStream i f).regs = s.regs := rfl
@[simp] theorem State.modStream_cores (s : State) (i : StreamId) (f : Stream → Stream) : (s.modStream i f).cores = s.cores := rfl
@[simp] theorem State.modStream_repair (s : State) (i : StreamId) (f : Stream → Stream) : (s.modStream i f).repair = s.repair := rfl
@[simp] theorem State.modStream_recov (s : State) (i : StreamId) (f : Stream → Stream) : (s.modStream i f).recov = s.recov := rfl
@[simp] theorem State.modStream_log (s : State) (i : StreamId) (f : Stream → Stream) : (s.modStream i f).log = s.log := rfl
@[simp] theorem State.modStream_ao (s : State) (i : StreamId) (f : Stream → Stream) : (s.modStream i f).ao = s.ao := rfl
@[simp] theorem State.modStream_fuses (s : State) (i : StreamId) (f : Stream → Stream) : (s.modStream i f).fuses = s.fuses := rfl
@[simp] theorem State.modStream_sec (s : State) (i : StreamId) (f : Stream → Stream) : (s.modStream i f).sec = s.sec := rfl
@[simp] theorem State.modStream_scrub (s : State) (i : StreamId) (f : Stream → Stream) : (s.modStream i f).scrub = s.scrub := rfl
@[simp] theorem State.modStream_power (s : State) (i : StreamId) (f : Stream → Stream) : (s.modStream i f).power = s.power := rfl
@[simp] theorem State.modStream_perf (s : State) (i : StreamId) (f : Stream → Stream) : (s.modStream i f).perf = s.perf := rfl
@[simp] theorem State.modStream_dbg (s : State) (i : StreamId) (f : Stream → Stream) : (s.modStream i f).dbg = s.dbg := rfl
@[simp] theorem State.modStream_pins (s : State) (i : StreamId) (f : Stream → Stream) : (s.modStream i f).pins = s.pins := rfl
@[simp] theorem State.modStream_inputs (s : State) (i : StreamId) (f : Stream → Stream) : (s.modStream i f).inputs = s.inputs := rfl
@[simp] theorem State.modStream_held (s : State) (i : StreamId) (f : Stream → Stream) : (s.modStream i f).held = s.held := rfl
@[simp] theorem State.modStream_defects (s : State) (i : StreamId) (f : Stream → Stream) : (s.modStream i f).defects = s.defects := rfl
@[simp] theorem State.modStream_eccBad (s : State) (i : StreamId) (f : Stream → Stream) : (s.modStream i f).eccBad = s.eccBad := rfl
@[simp] theorem State.modStream_eccOne (s : State) (i : StreamId) (f : Stream → Stream) : (s.modStream i f).eccOne = s.eccOne := rfl
@[simp] theorem State.modStream_eccCover (s : State) (i : StreamId) (f : Stream → Stream) : (s.modStream i f).eccCover = s.eccCover := rfl
@[simp] theorem State.modStream_pending (s : State) (i : StreamId) (f : Stream → Stream) : (s.modStream i f).pending = s.pending := rfl

/-! ### modCtx -/

@[simp] theorem State.modCtx_cfg (s : State) (i : StreamId) (f : Ctx → Ctx) : (s.modCtx i f).cfg = s.cfg := rfl
@[simp] theorem State.modCtx_slices (s : State) (i : StreamId) (f : Ctx → Ctx) : (s.modCtx i f).slices = s.slices := rfl
@[simp] theorem State.modCtx_clock (s : State) (i : StreamId) (f : Ctx → Ctx) : (s.modCtx i f).clock = s.clock := rfl
@[simp] theorem State.modCtx_unit (s : State) (i : StreamId) (f : Ctx → Ctx) : (s.modCtx i f).unit = s.unit := rfl
@[simp] theorem State.modCtx_collector (s : State) (i : StreamId) (f : Ctx → Ctx) : (s.modCtx i f).collector = s.collector := rfl
@[simp] theorem State.modCtx_collectAt (s : State) (i : StreamId) (f : Ctx → Ctx) : (s.modCtx i f).collectAt = s.collectAt := rfl
@[simp] theorem State.modCtx_inflight (s : State) (i : StreamId) (f : Ctx → Ctx) : (s.modCtx i f).inflight = s.inflight := rfl
@[simp] theorem State.modCtx_tiles (s : State) (i : StreamId) (f : Ctx → Ctx) : (s.modCtx i f).tiles = s.tiles := rfl
@[simp] theorem State.modCtx_tileUse (s : State) (i : StreamId) (f : Ctx → Ctx) : (s.modCtx i f).tileUse = s.tileUse := rfl
@[simp] theorem State.modCtx_tileMarks (s : State) (i : StreamId) (f : Ctx → Ctx) : (s.modCtx i f).tileMarks = s.tileMarks := rfl
@[simp] theorem State.modCtx_tilesWritten (s : State) (i : StreamId) (f : Ctx → Ctx) : (s.modCtx i f).tilesWritten = s.tilesWritten := rfl
@[simp] theorem State.modCtx_cycle (s : State) (i : StreamId) (f : Ctx → Ctx) : (s.modCtx i f).cycle = s.cycle := rfl
@[simp] theorem State.modCtx_pool (s : State) (i : StreamId) (f : Ctx → Ctx) : (s.modCtx i f).pool = s.pool := rfl
@[simp] theorem State.modCtx_settings (s : State) (i : StreamId) (f : Ctx → Ctx) : (s.modCtx i f).settings = s.settings := rfl
@[simp] theorem State.modCtx_basin (s : State) (i : StreamId) (f : Ctx → Ctx) : (s.modCtx i f).basin = s.basin := rfl
@[simp] theorem State.modCtx_ledger (s : State) (i : StreamId) (f : Ctx → Ctx) : (s.modCtx i f).ledger = s.ledger := rfl
@[simp] theorem State.modCtx_ports (s : State) (i : StreamId) (f : Ctx → Ctx) : (s.modCtx i f).ports = s.ports := rfl
@[simp] theorem State.modCtx_image (s : State) (i : StreamId) (f : Ctx → Ctx) : (s.modCtx i f).image = s.image := rfl
@[simp] theorem State.modCtx_crossing (s : State) (i : StreamId) (f : Ctx → Ctx) : (s.modCtx i f).crossing = s.crossing := rfl
@[simp] theorem State.modCtx_regs (s : State) (i : StreamId) (f : Ctx → Ctx) : (s.modCtx i f).regs = s.regs := rfl
@[simp] theorem State.modCtx_cores (s : State) (i : StreamId) (f : Ctx → Ctx) : (s.modCtx i f).cores = s.cores := rfl
@[simp] theorem State.modCtx_repair (s : State) (i : StreamId) (f : Ctx → Ctx) : (s.modCtx i f).repair = s.repair := rfl
@[simp] theorem State.modCtx_recov (s : State) (i : StreamId) (f : Ctx → Ctx) : (s.modCtx i f).recov = s.recov := rfl
@[simp] theorem State.modCtx_log (s : State) (i : StreamId) (f : Ctx → Ctx) : (s.modCtx i f).log = s.log := rfl
@[simp] theorem State.modCtx_ao (s : State) (i : StreamId) (f : Ctx → Ctx) : (s.modCtx i f).ao = s.ao := rfl
@[simp] theorem State.modCtx_fuses (s : State) (i : StreamId) (f : Ctx → Ctx) : (s.modCtx i f).fuses = s.fuses := rfl
@[simp] theorem State.modCtx_sec (s : State) (i : StreamId) (f : Ctx → Ctx) : (s.modCtx i f).sec = s.sec := rfl
@[simp] theorem State.modCtx_scrub (s : State) (i : StreamId) (f : Ctx → Ctx) : (s.modCtx i f).scrub = s.scrub := rfl
@[simp] theorem State.modCtx_power (s : State) (i : StreamId) (f : Ctx → Ctx) : (s.modCtx i f).power = s.power := rfl
@[simp] theorem State.modCtx_perf (s : State) (i : StreamId) (f : Ctx → Ctx) : (s.modCtx i f).perf = s.perf := rfl
@[simp] theorem State.modCtx_dbg (s : State) (i : StreamId) (f : Ctx → Ctx) : (s.modCtx i f).dbg = s.dbg := rfl
@[simp] theorem State.modCtx_pins (s : State) (i : StreamId) (f : Ctx → Ctx) : (s.modCtx i f).pins = s.pins := rfl
@[simp] theorem State.modCtx_inputs (s : State) (i : StreamId) (f : Ctx → Ctx) : (s.modCtx i f).inputs = s.inputs := rfl
@[simp] theorem State.modCtx_held (s : State) (i : StreamId) (f : Ctx → Ctx) : (s.modCtx i f).held = s.held := rfl
@[simp] theorem State.modCtx_defects (s : State) (i : StreamId) (f : Ctx → Ctx) : (s.modCtx i f).defects = s.defects := rfl
@[simp] theorem State.modCtx_eccBad (s : State) (i : StreamId) (f : Ctx → Ctx) : (s.modCtx i f).eccBad = s.eccBad := rfl
@[simp] theorem State.modCtx_eccOne (s : State) (i : StreamId) (f : Ctx → Ctx) : (s.modCtx i f).eccOne = s.eccOne := rfl
@[simp] theorem State.modCtx_eccCover (s : State) (i : StreamId) (f : Ctx → Ctx) : (s.modCtx i f).eccCover = s.eccCover := rfl
@[simp] theorem State.modCtx_pending (s : State) (i : StreamId) (f : Ctx → Ctx) : (s.modCtx i f).pending = s.pending := rfl

/-! ### mapStreams -/

@[simp] theorem State.mapStreams_cfg (s : State) (f : StreamId → Stream → Stream) : (s.mapStreams f).cfg = s.cfg := rfl
@[simp] theorem State.mapStreams_slices (s : State) (f : StreamId → Stream → Stream) : (s.mapStreams f).slices = s.slices := rfl
@[simp] theorem State.mapStreams_clock (s : State) (f : StreamId → Stream → Stream) : (s.mapStreams f).clock = s.clock := rfl
@[simp] theorem State.mapStreams_unit (s : State) (f : StreamId → Stream → Stream) : (s.mapStreams f).unit = s.unit := rfl
@[simp] theorem State.mapStreams_collector (s : State) (f : StreamId → Stream → Stream) : (s.mapStreams f).collector = s.collector := rfl
@[simp] theorem State.mapStreams_collectAt (s : State) (f : StreamId → Stream → Stream) : (s.mapStreams f).collectAt = s.collectAt := rfl
@[simp] theorem State.mapStreams_inflight (s : State) (f : StreamId → Stream → Stream) : (s.mapStreams f).inflight = s.inflight := rfl
@[simp] theorem State.mapStreams_tiles (s : State) (f : StreamId → Stream → Stream) : (s.mapStreams f).tiles = s.tiles := rfl
@[simp] theorem State.mapStreams_tileUse (s : State) (f : StreamId → Stream → Stream) : (s.mapStreams f).tileUse = s.tileUse := rfl
@[simp] theorem State.mapStreams_tileMarks (s : State) (f : StreamId → Stream → Stream) : (s.mapStreams f).tileMarks = s.tileMarks := rfl
@[simp] theorem State.mapStreams_tilesWritten (s : State) (f : StreamId → Stream → Stream) : (s.mapStreams f).tilesWritten = s.tilesWritten := rfl
@[simp] theorem State.mapStreams_cycle (s : State) (f : StreamId → Stream → Stream) : (s.mapStreams f).cycle = s.cycle := rfl
@[simp] theorem State.mapStreams_pool (s : State) (f : StreamId → Stream → Stream) : (s.mapStreams f).pool = s.pool := rfl
@[simp] theorem State.mapStreams_settings (s : State) (f : StreamId → Stream → Stream) : (s.mapStreams f).settings = s.settings := rfl
@[simp] theorem State.mapStreams_basin (s : State) (f : StreamId → Stream → Stream) : (s.mapStreams f).basin = s.basin := rfl
@[simp] theorem State.mapStreams_ledger (s : State) (f : StreamId → Stream → Stream) : (s.mapStreams f).ledger = s.ledger := rfl
@[simp] theorem State.mapStreams_ports (s : State) (f : StreamId → Stream → Stream) : (s.mapStreams f).ports = s.ports := rfl
@[simp] theorem State.mapStreams_image (s : State) (f : StreamId → Stream → Stream) : (s.mapStreams f).image = s.image := rfl
@[simp] theorem State.mapStreams_crossing (s : State) (f : StreamId → Stream → Stream) : (s.mapStreams f).crossing = s.crossing := rfl
@[simp] theorem State.mapStreams_regs (s : State) (f : StreamId → Stream → Stream) : (s.mapStreams f).regs = s.regs := rfl
@[simp] theorem State.mapStreams_cores (s : State) (f : StreamId → Stream → Stream) : (s.mapStreams f).cores = s.cores := rfl
@[simp] theorem State.mapStreams_repair (s : State) (f : StreamId → Stream → Stream) : (s.mapStreams f).repair = s.repair := rfl
@[simp] theorem State.mapStreams_recov (s : State) (f : StreamId → Stream → Stream) : (s.mapStreams f).recov = s.recov := rfl
@[simp] theorem State.mapStreams_log (s : State) (f : StreamId → Stream → Stream) : (s.mapStreams f).log = s.log := rfl
@[simp] theorem State.mapStreams_ao (s : State) (f : StreamId → Stream → Stream) : (s.mapStreams f).ao = s.ao := rfl
@[simp] theorem State.mapStreams_fuses (s : State) (f : StreamId → Stream → Stream) : (s.mapStreams f).fuses = s.fuses := rfl
@[simp] theorem State.mapStreams_sec (s : State) (f : StreamId → Stream → Stream) : (s.mapStreams f).sec = s.sec := rfl
@[simp] theorem State.mapStreams_scrub (s : State) (f : StreamId → Stream → Stream) : (s.mapStreams f).scrub = s.scrub := rfl
@[simp] theorem State.mapStreams_power (s : State) (f : StreamId → Stream → Stream) : (s.mapStreams f).power = s.power := rfl
@[simp] theorem State.mapStreams_perf (s : State) (f : StreamId → Stream → Stream) : (s.mapStreams f).perf = s.perf := rfl
@[simp] theorem State.mapStreams_dbg (s : State) (f : StreamId → Stream → Stream) : (s.mapStreams f).dbg = s.dbg := rfl
@[simp] theorem State.mapStreams_pins (s : State) (f : StreamId → Stream → Stream) : (s.mapStreams f).pins = s.pins := rfl
@[simp] theorem State.mapStreams_inputs (s : State) (f : StreamId → Stream → Stream) : (s.mapStreams f).inputs = s.inputs := rfl
@[simp] theorem State.mapStreams_held (s : State) (f : StreamId → Stream → Stream) : (s.mapStreams f).held = s.held := rfl
@[simp] theorem State.mapStreams_defects (s : State) (f : StreamId → Stream → Stream) : (s.mapStreams f).defects = s.defects := rfl
@[simp] theorem State.mapStreams_eccBad (s : State) (f : StreamId → Stream → Stream) : (s.mapStreams f).eccBad = s.eccBad := rfl
@[simp] theorem State.mapStreams_eccOne (s : State) (f : StreamId → Stream → Stream) : (s.mapStreams f).eccOne = s.eccOne := rfl
@[simp] theorem State.mapStreams_eccCover (s : State) (f : StreamId → Stream → Stream) : (s.mapStreams f).eccCover = s.eccCover := rfl
@[simp] theorem State.mapStreams_pending (s : State) (f : StreamId → Stream → Stream) : (s.mapStreams f).pending = s.pending := rfl

/-! ### count -/

@[simp] theorem State.count_cfg (s : State) (c : Counter) (n : Nat) : (s.count c n).cfg = s.cfg := rfl
@[simp] theorem State.count_slices (s : State) (c : Counter) (n : Nat) : (s.count c n).slices = s.slices := rfl
@[simp] theorem State.count_clock (s : State) (c : Counter) (n : Nat) : (s.count c n).clock = s.clock := rfl
@[simp] theorem State.count_unit (s : State) (c : Counter) (n : Nat) : (s.count c n).unit = s.unit := rfl
@[simp] theorem State.count_streams (s : State) (c : Counter) (n : Nat) : (s.count c n).streams = s.streams := rfl
@[simp] theorem State.count_collector (s : State) (c : Counter) (n : Nat) : (s.count c n).collector = s.collector := rfl
@[simp] theorem State.count_collectAt (s : State) (c : Counter) (n : Nat) : (s.count c n).collectAt = s.collectAt := rfl
@[simp] theorem State.count_inflight (s : State) (c : Counter) (n : Nat) : (s.count c n).inflight = s.inflight := rfl
@[simp] theorem State.count_tiles (s : State) (c : Counter) (n : Nat) : (s.count c n).tiles = s.tiles := rfl
@[simp] theorem State.count_tileUse (s : State) (c : Counter) (n : Nat) : (s.count c n).tileUse = s.tileUse := rfl
@[simp] theorem State.count_tileMarks (s : State) (c : Counter) (n : Nat) : (s.count c n).tileMarks = s.tileMarks := rfl
@[simp] theorem State.count_tilesWritten (s : State) (c : Counter) (n : Nat) : (s.count c n).tilesWritten = s.tilesWritten := rfl
@[simp] theorem State.count_cycle (s : State) (c : Counter) (n : Nat) : (s.count c n).cycle = s.cycle := rfl
@[simp] theorem State.count_pool (s : State) (c : Counter) (n : Nat) : (s.count c n).pool = s.pool := rfl
@[simp] theorem State.count_settings (s : State) (c : Counter) (n : Nat) : (s.count c n).settings = s.settings := rfl
@[simp] theorem State.count_basin (s : State) (c : Counter) (n : Nat) : (s.count c n).basin = s.basin := rfl
@[simp] theorem State.count_ledger (s : State) (c : Counter) (n : Nat) : (s.count c n).ledger = s.ledger := rfl
@[simp] theorem State.count_ports (s : State) (c : Counter) (n : Nat) : (s.count c n).ports = s.ports := rfl
@[simp] theorem State.count_image (s : State) (c : Counter) (n : Nat) : (s.count c n).image = s.image := rfl
@[simp] theorem State.count_crossing (s : State) (c : Counter) (n : Nat) : (s.count c n).crossing = s.crossing := rfl
@[simp] theorem State.count_cores (s : State) (c : Counter) (n : Nat) : (s.count c n).cores = s.cores := rfl
@[simp] theorem State.count_repair (s : State) (c : Counter) (n : Nat) : (s.count c n).repair = s.repair := rfl
@[simp] theorem State.count_recov (s : State) (c : Counter) (n : Nat) : (s.count c n).recov = s.recov := rfl
@[simp] theorem State.count_log (s : State) (c : Counter) (n : Nat) : (s.count c n).log = s.log := rfl
@[simp] theorem State.count_ao (s : State) (c : Counter) (n : Nat) : (s.count c n).ao = s.ao := rfl
@[simp] theorem State.count_fuses (s : State) (c : Counter) (n : Nat) : (s.count c n).fuses = s.fuses := rfl
@[simp] theorem State.count_sec (s : State) (c : Counter) (n : Nat) : (s.count c n).sec = s.sec := rfl
@[simp] theorem State.count_scrub (s : State) (c : Counter) (n : Nat) : (s.count c n).scrub = s.scrub := rfl
@[simp] theorem State.count_power (s : State) (c : Counter) (n : Nat) : (s.count c n).power = s.power := rfl
@[simp] theorem State.count_perf (s : State) (c : Counter) (n : Nat) : (s.count c n).perf = s.perf := rfl
@[simp] theorem State.count_dbg (s : State) (c : Counter) (n : Nat) : (s.count c n).dbg = s.dbg := rfl
@[simp] theorem State.count_pins (s : State) (c : Counter) (n : Nat) : (s.count c n).pins = s.pins := rfl
@[simp] theorem State.count_inputs (s : State) (c : Counter) (n : Nat) : (s.count c n).inputs = s.inputs := rfl
@[simp] theorem State.count_held (s : State) (c : Counter) (n : Nat) : (s.count c n).held = s.held := rfl
@[simp] theorem State.count_defects (s : State) (c : Counter) (n : Nat) : (s.count c n).defects = s.defects := rfl
@[simp] theorem State.count_eccBad (s : State) (c : Counter) (n : Nat) : (s.count c n).eccBad = s.eccBad := rfl
@[simp] theorem State.count_eccOne (s : State) (c : Counter) (n : Nat) : (s.count c n).eccOne = s.eccOne := rfl
@[simp] theorem State.count_eccCover (s : State) (c : Counter) (n : Nat) : (s.count c n).eccCover = s.eccCover := rfl
@[simp] theorem State.count_pending (s : State) (c : Counter) (n : Nat) : (s.count c n).pending = s.pending := rfl

/-! ### countAt -/

@[simp] theorem State.countAt_cfg (s : State) (o n : Nat) : (s.countAt o n).cfg = s.cfg := rfl
@[simp] theorem State.countAt_slices (s : State) (o n : Nat) : (s.countAt o n).slices = s.slices := rfl
@[simp] theorem State.countAt_clock (s : State) (o n : Nat) : (s.countAt o n).clock = s.clock := rfl
@[simp] theorem State.countAt_unit (s : State) (o n : Nat) : (s.countAt o n).unit = s.unit := rfl
@[simp] theorem State.countAt_streams (s : State) (o n : Nat) : (s.countAt o n).streams = s.streams := rfl
@[simp] theorem State.countAt_collector (s : State) (o n : Nat) : (s.countAt o n).collector = s.collector := rfl
@[simp] theorem State.countAt_collectAt (s : State) (o n : Nat) : (s.countAt o n).collectAt = s.collectAt := rfl
@[simp] theorem State.countAt_inflight (s : State) (o n : Nat) : (s.countAt o n).inflight = s.inflight := rfl
@[simp] theorem State.countAt_tiles (s : State) (o n : Nat) : (s.countAt o n).tiles = s.tiles := rfl
@[simp] theorem State.countAt_tileUse (s : State) (o n : Nat) : (s.countAt o n).tileUse = s.tileUse := rfl
@[simp] theorem State.countAt_tileMarks (s : State) (o n : Nat) : (s.countAt o n).tileMarks = s.tileMarks := rfl
@[simp] theorem State.countAt_tilesWritten (s : State) (o n : Nat) : (s.countAt o n).tilesWritten = s.tilesWritten := rfl
@[simp] theorem State.countAt_cycle (s : State) (o n : Nat) : (s.countAt o n).cycle = s.cycle := rfl
@[simp] theorem State.countAt_pool (s : State) (o n : Nat) : (s.countAt o n).pool = s.pool := rfl
@[simp] theorem State.countAt_settings (s : State) (o n : Nat) : (s.countAt o n).settings = s.settings := rfl
@[simp] theorem State.countAt_basin (s : State) (o n : Nat) : (s.countAt o n).basin = s.basin := rfl
@[simp] theorem State.countAt_ledger (s : State) (o n : Nat) : (s.countAt o n).ledger = s.ledger := rfl
@[simp] theorem State.countAt_ports (s : State) (o n : Nat) : (s.countAt o n).ports = s.ports := rfl
@[simp] theorem State.countAt_image (s : State) (o n : Nat) : (s.countAt o n).image = s.image := rfl
@[simp] theorem State.countAt_crossing (s : State) (o n : Nat) : (s.countAt o n).crossing = s.crossing := rfl
@[simp] theorem State.countAt_cores (s : State) (o n : Nat) : (s.countAt o n).cores = s.cores := rfl
@[simp] theorem State.countAt_repair (s : State) (o n : Nat) : (s.countAt o n).repair = s.repair := rfl
@[simp] theorem State.countAt_recov (s : State) (o n : Nat) : (s.countAt o n).recov = s.recov := rfl
@[simp] theorem State.countAt_log (s : State) (o n : Nat) : (s.countAt o n).log = s.log := rfl
@[simp] theorem State.countAt_ao (s : State) (o n : Nat) : (s.countAt o n).ao = s.ao := rfl
@[simp] theorem State.countAt_fuses (s : State) (o n : Nat) : (s.countAt o n).fuses = s.fuses := rfl
@[simp] theorem State.countAt_sec (s : State) (o n : Nat) : (s.countAt o n).sec = s.sec := rfl
@[simp] theorem State.countAt_scrub (s : State) (o n : Nat) : (s.countAt o n).scrub = s.scrub := rfl
@[simp] theorem State.countAt_power (s : State) (o n : Nat) : (s.countAt o n).power = s.power := rfl
@[simp] theorem State.countAt_perf (s : State) (o n : Nat) : (s.countAt o n).perf = s.perf := rfl
@[simp] theorem State.countAt_dbg (s : State) (o n : Nat) : (s.countAt o n).dbg = s.dbg := rfl
@[simp] theorem State.countAt_pins (s : State) (o n : Nat) : (s.countAt o n).pins = s.pins := rfl
@[simp] theorem State.countAt_inputs (s : State) (o n : Nat) : (s.countAt o n).inputs = s.inputs := rfl
@[simp] theorem State.countAt_held (s : State) (o n : Nat) : (s.countAt o n).held = s.held := rfl
@[simp] theorem State.countAt_defects (s : State) (o n : Nat) : (s.countAt o n).defects = s.defects := rfl
@[simp] theorem State.countAt_eccBad (s : State) (o n : Nat) : (s.countAt o n).eccBad = s.eccBad := rfl
@[simp] theorem State.countAt_eccOne (s : State) (o n : Nat) : (s.countAt o n).eccOne = s.eccOne := rfl
@[simp] theorem State.countAt_eccCover (s : State) (o n : Nat) : (s.countAt o n).eccCover = s.eccCover := rfl
@[simp] theorem State.countAt_pending (s : State) (o n : Nat) : (s.countAt o n).pending = s.pending := rfl

/-! ### alertBit -/

@[simp] theorem State.alertBit_cfg (s : State) (i : Nat) : (s.alertBit i).cfg = s.cfg := rfl
@[simp] theorem State.alertBit_slices (s : State) (i : Nat) : (s.alertBit i).slices = s.slices := rfl
@[simp] theorem State.alertBit_clock (s : State) (i : Nat) : (s.alertBit i).clock = s.clock := rfl
@[simp] theorem State.alertBit_unit (s : State) (i : Nat) : (s.alertBit i).unit = s.unit := rfl
@[simp] theorem State.alertBit_streams (s : State) (i : Nat) : (s.alertBit i).streams = s.streams := rfl
@[simp] theorem State.alertBit_collector (s : State) (i : Nat) : (s.alertBit i).collector = s.collector := rfl
@[simp] theorem State.alertBit_collectAt (s : State) (i : Nat) : (s.alertBit i).collectAt = s.collectAt := rfl
@[simp] theorem State.alertBit_inflight (s : State) (i : Nat) : (s.alertBit i).inflight = s.inflight := rfl
@[simp] theorem State.alertBit_tiles (s : State) (i : Nat) : (s.alertBit i).tiles = s.tiles := rfl
@[simp] theorem State.alertBit_tileUse (s : State) (i : Nat) : (s.alertBit i).tileUse = s.tileUse := rfl
@[simp] theorem State.alertBit_tileMarks (s : State) (i : Nat) : (s.alertBit i).tileMarks = s.tileMarks := rfl
@[simp] theorem State.alertBit_tilesWritten (s : State) (i : Nat) : (s.alertBit i).tilesWritten = s.tilesWritten := rfl
@[simp] theorem State.alertBit_cycle (s : State) (i : Nat) : (s.alertBit i).cycle = s.cycle := rfl
@[simp] theorem State.alertBit_pool (s : State) (i : Nat) : (s.alertBit i).pool = s.pool := rfl
@[simp] theorem State.alertBit_settings (s : State) (i : Nat) : (s.alertBit i).settings = s.settings := rfl
@[simp] theorem State.alertBit_basin (s : State) (i : Nat) : (s.alertBit i).basin = s.basin := rfl
@[simp] theorem State.alertBit_ledger (s : State) (i : Nat) : (s.alertBit i).ledger = s.ledger := rfl
@[simp] theorem State.alertBit_ports (s : State) (i : Nat) : (s.alertBit i).ports = s.ports := rfl
@[simp] theorem State.alertBit_image (s : State) (i : Nat) : (s.alertBit i).image = s.image := rfl
@[simp] theorem State.alertBit_crossing (s : State) (i : Nat) : (s.alertBit i).crossing = s.crossing := rfl
@[simp] theorem State.alertBit_cores (s : State) (i : Nat) : (s.alertBit i).cores = s.cores := rfl
@[simp] theorem State.alertBit_repair (s : State) (i : Nat) : (s.alertBit i).repair = s.repair := rfl
@[simp] theorem State.alertBit_recov (s : State) (i : Nat) : (s.alertBit i).recov = s.recov := rfl
@[simp] theorem State.alertBit_log (s : State) (i : Nat) : (s.alertBit i).log = s.log := rfl
@[simp] theorem State.alertBit_ao (s : State) (i : Nat) : (s.alertBit i).ao = s.ao := rfl
@[simp] theorem State.alertBit_fuses (s : State) (i : Nat) : (s.alertBit i).fuses = s.fuses := rfl
@[simp] theorem State.alertBit_sec (s : State) (i : Nat) : (s.alertBit i).sec = s.sec := rfl
@[simp] theorem State.alertBit_scrub (s : State) (i : Nat) : (s.alertBit i).scrub = s.scrub := rfl
@[simp] theorem State.alertBit_power (s : State) (i : Nat) : (s.alertBit i).power = s.power := rfl
@[simp] theorem State.alertBit_perf (s : State) (i : Nat) : (s.alertBit i).perf = s.perf := rfl
@[simp] theorem State.alertBit_dbg (s : State) (i : Nat) : (s.alertBit i).dbg = s.dbg := rfl
@[simp] theorem State.alertBit_pins (s : State) (i : Nat) : (s.alertBit i).pins = s.pins := rfl
@[simp] theorem State.alertBit_inputs (s : State) (i : Nat) : (s.alertBit i).inputs = s.inputs := rfl
@[simp] theorem State.alertBit_held (s : State) (i : Nat) : (s.alertBit i).held = s.held := rfl
@[simp] theorem State.alertBit_defects (s : State) (i : Nat) : (s.alertBit i).defects = s.defects := rfl
@[simp] theorem State.alertBit_eccBad (s : State) (i : Nat) : (s.alertBit i).eccBad = s.eccBad := rfl
@[simp] theorem State.alertBit_eccOne (s : State) (i : Nat) : (s.alertBit i).eccOne = s.eccOne := rfl
@[simp] theorem State.alertBit_eccCover (s : State) (i : Nat) : (s.alertBit i).eccCover = s.eccCover := rfl
@[simp] theorem State.alertBit_pending (s : State) (i : Nat) : (s.alertBit i).pending = s.pending := rfl

/-! ### respond -/

@[simp] theorem State.respond_cfg (s : State) (m : Master) (st : BitVec 2) (d : List Byte) : (s.respond m st d).cfg = s.cfg := rfl
@[simp] theorem State.respond_slices (s : State) (m : Master) (st : BitVec 2) (d : List Byte) : (s.respond m st d).slices = s.slices := rfl
@[simp] theorem State.respond_clock (s : State) (m : Master) (st : BitVec 2) (d : List Byte) : (s.respond m st d).clock = s.clock := rfl
@[simp] theorem State.respond_unit (s : State) (m : Master) (st : BitVec 2) (d : List Byte) : (s.respond m st d).unit = s.unit := rfl
@[simp] theorem State.respond_streams (s : State) (m : Master) (st : BitVec 2) (d : List Byte) : (s.respond m st d).streams = s.streams := rfl
@[simp] theorem State.respond_collector (s : State) (m : Master) (st : BitVec 2) (d : List Byte) : (s.respond m st d).collector = s.collector := rfl
@[simp] theorem State.respond_collectAt (s : State) (m : Master) (st : BitVec 2) (d : List Byte) : (s.respond m st d).collectAt = s.collectAt := rfl
@[simp] theorem State.respond_inflight (s : State) (m : Master) (st : BitVec 2) (d : List Byte) : (s.respond m st d).inflight = s.inflight := rfl
@[simp] theorem State.respond_tiles (s : State) (m : Master) (st : BitVec 2) (d : List Byte) : (s.respond m st d).tiles = s.tiles := rfl
@[simp] theorem State.respond_tileUse (s : State) (m : Master) (st : BitVec 2) (d : List Byte) : (s.respond m st d).tileUse = s.tileUse := rfl
@[simp] theorem State.respond_tileMarks (s : State) (m : Master) (st : BitVec 2) (d : List Byte) : (s.respond m st d).tileMarks = s.tileMarks := rfl
@[simp] theorem State.respond_tilesWritten (s : State) (m : Master) (st : BitVec 2) (d : List Byte) : (s.respond m st d).tilesWritten = s.tilesWritten := rfl
@[simp] theorem State.respond_cycle (s : State) (m : Master) (st : BitVec 2) (d : List Byte) : (s.respond m st d).cycle = s.cycle := rfl
@[simp] theorem State.respond_pool (s : State) (m : Master) (st : BitVec 2) (d : List Byte) : (s.respond m st d).pool = s.pool := rfl
@[simp] theorem State.respond_settings (s : State) (m : Master) (st : BitVec 2) (d : List Byte) : (s.respond m st d).settings = s.settings := rfl
@[simp] theorem State.respond_basin (s : State) (m : Master) (st : BitVec 2) (d : List Byte) : (s.respond m st d).basin = s.basin := rfl
@[simp] theorem State.respond_ledger (s : State) (m : Master) (st : BitVec 2) (d : List Byte) : (s.respond m st d).ledger = s.ledger := rfl
@[simp] theorem State.respond_ports (s : State) (m : Master) (st : BitVec 2) (d : List Byte) : (s.respond m st d).ports = s.ports := rfl
@[simp] theorem State.respond_image (s : State) (m : Master) (st : BitVec 2) (d : List Byte) : (s.respond m st d).image = s.image := rfl
@[simp] theorem State.respond_crossing (s : State) (m : Master) (st : BitVec 2) (d : List Byte) : (s.respond m st d).crossing = s.crossing := rfl
@[simp] theorem State.respond_regs (s : State) (m : Master) (st : BitVec 2) (d : List Byte) : (s.respond m st d).regs = s.regs := rfl
@[simp] theorem State.respond_cores (s : State) (m : Master) (st : BitVec 2) (d : List Byte) : (s.respond m st d).cores = s.cores := rfl
@[simp] theorem State.respond_repair (s : State) (m : Master) (st : BitVec 2) (d : List Byte) : (s.respond m st d).repair = s.repair := rfl
@[simp] theorem State.respond_recov (s : State) (m : Master) (st : BitVec 2) (d : List Byte) : (s.respond m st d).recov = s.recov := rfl
@[simp] theorem State.respond_log (s : State) (m : Master) (st : BitVec 2) (d : List Byte) : (s.respond m st d).log = s.log := rfl
@[simp] theorem State.respond_ao (s : State) (m : Master) (st : BitVec 2) (d : List Byte) : (s.respond m st d).ao = s.ao := rfl
@[simp] theorem State.respond_fuses (s : State) (m : Master) (st : BitVec 2) (d : List Byte) : (s.respond m st d).fuses = s.fuses := rfl
@[simp] theorem State.respond_sec (s : State) (m : Master) (st : BitVec 2) (d : List Byte) : (s.respond m st d).sec = s.sec := rfl
@[simp] theorem State.respond_scrub (s : State) (m : Master) (st : BitVec 2) (d : List Byte) : (s.respond m st d).scrub = s.scrub := rfl
@[simp] theorem State.respond_power (s : State) (m : Master) (st : BitVec 2) (d : List Byte) : (s.respond m st d).power = s.power := rfl
@[simp] theorem State.respond_perf (s : State) (m : Master) (st : BitVec 2) (d : List Byte) : (s.respond m st d).perf = s.perf := rfl
@[simp] theorem State.respond_dbg (s : State) (m : Master) (st : BitVec 2) (d : List Byte) : (s.respond m st d).dbg = s.dbg := rfl
@[simp] theorem State.respond_inputs (s : State) (m : Master) (st : BitVec 2) (d : List Byte) : (s.respond m st d).inputs = s.inputs := rfl
@[simp] theorem State.respond_held (s : State) (m : Master) (st : BitVec 2) (d : List Byte) : (s.respond m st d).held = s.held := rfl
@[simp] theorem State.respond_defects (s : State) (m : Master) (st : BitVec 2) (d : List Byte) : (s.respond m st d).defects = s.defects := rfl
@[simp] theorem State.respond_eccBad (s : State) (m : Master) (st : BitVec 2) (d : List Byte) : (s.respond m st d).eccBad = s.eccBad := rfl
@[simp] theorem State.respond_eccOne (s : State) (m : Master) (st : BitVec 2) (d : List Byte) : (s.respond m st d).eccOne = s.eccOne := rfl
@[simp] theorem State.respond_eccCover (s : State) (m : Master) (st : BitVec 2) (d : List Byte) : (s.respond m st d).eccCover = s.eccCover := rfl
@[simp] theorem State.respond_pending (s : State) (m : Master) (st : BitVec 2) (d : List Byte) : (s.respond m st d).pending = s.pending := rfl

/-! ### enterLog -/

@[simp] theorem State.enterLog_cfg (s : State) (r : LogRec) : (s.enterLog r).cfg = s.cfg := rfl
@[simp] theorem State.enterLog_slices (s : State) (r : LogRec) : (s.enterLog r).slices = s.slices := rfl
@[simp] theorem State.enterLog_clock (s : State) (r : LogRec) : (s.enterLog r).clock = s.clock := rfl
@[simp] theorem State.enterLog_unit (s : State) (r : LogRec) : (s.enterLog r).unit = s.unit := rfl
@[simp] theorem State.enterLog_streams (s : State) (r : LogRec) : (s.enterLog r).streams = s.streams := rfl
@[simp] theorem State.enterLog_collector (s : State) (r : LogRec) : (s.enterLog r).collector = s.collector := rfl
@[simp] theorem State.enterLog_collectAt (s : State) (r : LogRec) : (s.enterLog r).collectAt = s.collectAt := rfl
@[simp] theorem State.enterLog_inflight (s : State) (r : LogRec) : (s.enterLog r).inflight = s.inflight := rfl
@[simp] theorem State.enterLog_tiles (s : State) (r : LogRec) : (s.enterLog r).tiles = s.tiles := rfl
@[simp] theorem State.enterLog_tileUse (s : State) (r : LogRec) : (s.enterLog r).tileUse = s.tileUse := rfl
@[simp] theorem State.enterLog_tileMarks (s : State) (r : LogRec) : (s.enterLog r).tileMarks = s.tileMarks := rfl
@[simp] theorem State.enterLog_tilesWritten (s : State) (r : LogRec) : (s.enterLog r).tilesWritten = s.tilesWritten := rfl
@[simp] theorem State.enterLog_cycle (s : State) (r : LogRec) : (s.enterLog r).cycle = s.cycle := rfl
@[simp] theorem State.enterLog_pool (s : State) (r : LogRec) : (s.enterLog r).pool = s.pool := rfl
@[simp] theorem State.enterLog_settings (s : State) (r : LogRec) : (s.enterLog r).settings = s.settings := rfl
@[simp] theorem State.enterLog_basin (s : State) (r : LogRec) : (s.enterLog r).basin = s.basin := rfl
@[simp] theorem State.enterLog_ledger (s : State) (r : LogRec) : (s.enterLog r).ledger = s.ledger := rfl
@[simp] theorem State.enterLog_ports (s : State) (r : LogRec) : (s.enterLog r).ports = s.ports := rfl
@[simp] theorem State.enterLog_image (s : State) (r : LogRec) : (s.enterLog r).image = s.image := rfl
@[simp] theorem State.enterLog_crossing (s : State) (r : LogRec) : (s.enterLog r).crossing = s.crossing := rfl
@[simp] theorem State.enterLog_regs (s : State) (r : LogRec) : (s.enterLog r).regs = s.regs := rfl
@[simp] theorem State.enterLog_cores (s : State) (r : LogRec) : (s.enterLog r).cores = s.cores := rfl
@[simp] theorem State.enterLog_repair (s : State) (r : LogRec) : (s.enterLog r).repair = s.repair := rfl
@[simp] theorem State.enterLog_recov (s : State) (r : LogRec) : (s.enterLog r).recov = s.recov := rfl
@[simp] theorem State.enterLog_fuses (s : State) (r : LogRec) : (s.enterLog r).fuses = s.fuses := rfl
@[simp] theorem State.enterLog_sec (s : State) (r : LogRec) : (s.enterLog r).sec = s.sec := rfl
@[simp] theorem State.enterLog_scrub (s : State) (r : LogRec) : (s.enterLog r).scrub = s.scrub := rfl
@[simp] theorem State.enterLog_power (s : State) (r : LogRec) : (s.enterLog r).power = s.power := rfl
@[simp] theorem State.enterLog_perf (s : State) (r : LogRec) : (s.enterLog r).perf = s.perf := rfl
@[simp] theorem State.enterLog_dbg (s : State) (r : LogRec) : (s.enterLog r).dbg = s.dbg := rfl
@[simp] theorem State.enterLog_pins (s : State) (r : LogRec) : (s.enterLog r).pins = s.pins := rfl
@[simp] theorem State.enterLog_inputs (s : State) (r : LogRec) : (s.enterLog r).inputs = s.inputs := rfl
@[simp] theorem State.enterLog_held (s : State) (r : LogRec) : (s.enterLog r).held = s.held := rfl
@[simp] theorem State.enterLog_defects (s : State) (r : LogRec) : (s.enterLog r).defects = s.defects := rfl
@[simp] theorem State.enterLog_eccBad (s : State) (r : LogRec) : (s.enterLog r).eccBad = s.eccBad := rfl
@[simp] theorem State.enterLog_eccOne (s : State) (r : LogRec) : (s.enterLog r).eccOne = s.eccOne := rfl
@[simp] theorem State.enterLog_eccCover (s : State) (r : LogRec) : (s.enterLog r).eccCover = s.eccCover := rfl
@[simp] theorem State.enterLog_pending (s : State) (r : LogRec) : (s.enterLog r).pending = s.pending := rfl

/-! ### coreLog -/

@[simp] theorem State.coreLog_cfg (s : State) (k a v x c : Nat) : (s.coreLog k a v x c).cfg = s.cfg := rfl
@[simp] theorem State.coreLog_slices (s : State) (k a v x c : Nat) : (s.coreLog k a v x c).slices = s.slices := rfl
@[simp] theorem State.coreLog_clock (s : State) (k a v x c : Nat) : (s.coreLog k a v x c).clock = s.clock := rfl
@[simp] theorem State.coreLog_unit (s : State) (k a v x c : Nat) : (s.coreLog k a v x c).unit = s.unit := rfl
@[simp] theorem State.coreLog_streams (s : State) (k a v x c : Nat) : (s.coreLog k a v x c).streams = s.streams := rfl
@[simp] theorem State.coreLog_collector (s : State) (k a v x c : Nat) : (s.coreLog k a v x c).collector = s.collector := rfl
@[simp] theorem State.coreLog_collectAt (s : State) (k a v x c : Nat) : (s.coreLog k a v x c).collectAt = s.collectAt := rfl
@[simp] theorem State.coreLog_inflight (s : State) (k a v x c : Nat) : (s.coreLog k a v x c).inflight = s.inflight := rfl
@[simp] theorem State.coreLog_tiles (s : State) (k a v x c : Nat) : (s.coreLog k a v x c).tiles = s.tiles := rfl
@[simp] theorem State.coreLog_tileUse (s : State) (k a v x c : Nat) : (s.coreLog k a v x c).tileUse = s.tileUse := rfl
@[simp] theorem State.coreLog_tileMarks (s : State) (k a v x c : Nat) : (s.coreLog k a v x c).tileMarks = s.tileMarks := rfl
@[simp] theorem State.coreLog_tilesWritten (s : State) (k a v x c : Nat) : (s.coreLog k a v x c).tilesWritten = s.tilesWritten := rfl
@[simp] theorem State.coreLog_cycle (s : State) (k a v x c : Nat) : (s.coreLog k a v x c).cycle = s.cycle := rfl
@[simp] theorem State.coreLog_pool (s : State) (k a v x c : Nat) : (s.coreLog k a v x c).pool = s.pool := rfl
@[simp] theorem State.coreLog_settings (s : State) (k a v x c : Nat) : (s.coreLog k a v x c).settings = s.settings := rfl
@[simp] theorem State.coreLog_basin (s : State) (k a v x c : Nat) : (s.coreLog k a v x c).basin = s.basin := rfl
@[simp] theorem State.coreLog_ledger (s : State) (k a v x c : Nat) : (s.coreLog k a v x c).ledger = s.ledger := rfl
@[simp] theorem State.coreLog_ports (s : State) (k a v x c : Nat) : (s.coreLog k a v x c).ports = s.ports := rfl
@[simp] theorem State.coreLog_image (s : State) (k a v x c : Nat) : (s.coreLog k a v x c).image = s.image := rfl
@[simp] theorem State.coreLog_regs (s : State) (k a v x c : Nat) : (s.coreLog k a v x c).regs = s.regs := rfl
@[simp] theorem State.coreLog_cores (s : State) (k a v x c : Nat) : (s.coreLog k a v x c).cores = s.cores := rfl
@[simp] theorem State.coreLog_repair (s : State) (k a v x c : Nat) : (s.coreLog k a v x c).repair = s.repair := rfl
@[simp] theorem State.coreLog_recov (s : State) (k a v x c : Nat) : (s.coreLog k a v x c).recov = s.recov := rfl
@[simp] theorem State.coreLog_log (s : State) (k a v x c : Nat) : (s.coreLog k a v x c).log = s.log := rfl
@[simp] theorem State.coreLog_ao (s : State) (k a v x c : Nat) : (s.coreLog k a v x c).ao = s.ao := rfl
@[simp] theorem State.coreLog_fuses (s : State) (k a v x c : Nat) : (s.coreLog k a v x c).fuses = s.fuses := rfl
@[simp] theorem State.coreLog_sec (s : State) (k a v x c : Nat) : (s.coreLog k a v x c).sec = s.sec := rfl
@[simp] theorem State.coreLog_scrub (s : State) (k a v x c : Nat) : (s.coreLog k a v x c).scrub = s.scrub := rfl
@[simp] theorem State.coreLog_power (s : State) (k a v x c : Nat) : (s.coreLog k a v x c).power = s.power := rfl
@[simp] theorem State.coreLog_perf (s : State) (k a v x c : Nat) : (s.coreLog k a v x c).perf = s.perf := rfl
@[simp] theorem State.coreLog_dbg (s : State) (k a v x c : Nat) : (s.coreLog k a v x c).dbg = s.dbg := rfl
@[simp] theorem State.coreLog_pins (s : State) (k a v x c : Nat) : (s.coreLog k a v x c).pins = s.pins := rfl
@[simp] theorem State.coreLog_inputs (s : State) (k a v x c : Nat) : (s.coreLog k a v x c).inputs = s.inputs := rfl
@[simp] theorem State.coreLog_held (s : State) (k a v x c : Nat) : (s.coreLog k a v x c).held = s.held := rfl
@[simp] theorem State.coreLog_defects (s : State) (k a v x c : Nat) : (s.coreLog k a v x c).defects = s.defects := rfl
@[simp] theorem State.coreLog_eccBad (s : State) (k a v x c : Nat) : (s.coreLog k a v x c).eccBad = s.eccBad := rfl
@[simp] theorem State.coreLog_eccOne (s : State) (k a v x c : Nat) : (s.coreLog k a v x c).eccOne = s.eccOne := rfl
@[simp] theorem State.coreLog_eccCover (s : State) (k a v x c : Nat) : (s.coreLog k a v x c).eccCover = s.eccCover := rfl
@[simp] theorem State.coreLog_pending (s : State) (k a v x c : Nat) : (s.coreLog k a v x c).pending = s.pending := rfl

/-! ### actLog -/

@[simp] theorem State.actLog_cfg (s : State) (m : Master) (k a v x c : Nat) : (s.actLog m k a v x c).cfg = s.cfg := rfl
@[simp] theorem State.actLog_slices (s : State) (m : Master) (k a v x c : Nat) : (s.actLog m k a v x c).slices = s.slices := rfl
@[simp] theorem State.actLog_clock (s : State) (m : Master) (k a v x c : Nat) : (s.actLog m k a v x c).clock = s.clock := rfl
@[simp] theorem State.actLog_unit (s : State) (m : Master) (k a v x c : Nat) : (s.actLog m k a v x c).unit = s.unit := rfl
@[simp] theorem State.actLog_streams (s : State) (m : Master) (k a v x c : Nat) : (s.actLog m k a v x c).streams = s.streams := rfl
@[simp] theorem State.actLog_collector (s : State) (m : Master) (k a v x c : Nat) : (s.actLog m k a v x c).collector = s.collector := rfl
@[simp] theorem State.actLog_collectAt (s : State) (m : Master) (k a v x c : Nat) : (s.actLog m k a v x c).collectAt = s.collectAt := rfl
@[simp] theorem State.actLog_inflight (s : State) (m : Master) (k a v x c : Nat) : (s.actLog m k a v x c).inflight = s.inflight := rfl
@[simp] theorem State.actLog_tiles (s : State) (m : Master) (k a v x c : Nat) : (s.actLog m k a v x c).tiles = s.tiles := rfl
@[simp] theorem State.actLog_tileUse (s : State) (m : Master) (k a v x c : Nat) : (s.actLog m k a v x c).tileUse = s.tileUse := rfl
@[simp] theorem State.actLog_tileMarks (s : State) (m : Master) (k a v x c : Nat) : (s.actLog m k a v x c).tileMarks = s.tileMarks := rfl
@[simp] theorem State.actLog_tilesWritten (s : State) (m : Master) (k a v x c : Nat) : (s.actLog m k a v x c).tilesWritten = s.tilesWritten := rfl
@[simp] theorem State.actLog_cycle (s : State) (m : Master) (k a v x c : Nat) : (s.actLog m k a v x c).cycle = s.cycle := rfl
@[simp] theorem State.actLog_pool (s : State) (m : Master) (k a v x c : Nat) : (s.actLog m k a v x c).pool = s.pool := rfl
@[simp] theorem State.actLog_settings (s : State) (m : Master) (k a v x c : Nat) : (s.actLog m k a v x c).settings = s.settings := rfl
@[simp] theorem State.actLog_basin (s : State) (m : Master) (k a v x c : Nat) : (s.actLog m k a v x c).basin = s.basin := rfl
@[simp] theorem State.actLog_ledger (s : State) (m : Master) (k a v x c : Nat) : (s.actLog m k a v x c).ledger = s.ledger := rfl
@[simp] theorem State.actLog_ports (s : State) (m : Master) (k a v x c : Nat) : (s.actLog m k a v x c).ports = s.ports := rfl
@[simp] theorem State.actLog_image (s : State) (m : Master) (k a v x c : Nat) : (s.actLog m k a v x c).image = s.image := rfl
@[simp] theorem State.actLog_crossing (s : State) (m : Master) (k a v x c : Nat) : (s.actLog m k a v x c).crossing = s.crossing := rfl
@[simp] theorem State.actLog_regs (s : State) (m : Master) (k a v x c : Nat) : (s.actLog m k a v x c).regs = s.regs := rfl
@[simp] theorem State.actLog_cores (s : State) (m : Master) (k a v x c : Nat) : (s.actLog m k a v x c).cores = s.cores := rfl
@[simp] theorem State.actLog_repair (s : State) (m : Master) (k a v x c : Nat) : (s.actLog m k a v x c).repair = s.repair := rfl
@[simp] theorem State.actLog_recov (s : State) (m : Master) (k a v x c : Nat) : (s.actLog m k a v x c).recov = s.recov := rfl
@[simp] theorem State.actLog_fuses (s : State) (m : Master) (k a v x c : Nat) : (s.actLog m k a v x c).fuses = s.fuses := rfl
@[simp] theorem State.actLog_sec (s : State) (m : Master) (k a v x c : Nat) : (s.actLog m k a v x c).sec = s.sec := rfl
@[simp] theorem State.actLog_scrub (s : State) (m : Master) (k a v x c : Nat) : (s.actLog m k a v x c).scrub = s.scrub := rfl
@[simp] theorem State.actLog_power (s : State) (m : Master) (k a v x c : Nat) : (s.actLog m k a v x c).power = s.power := rfl
@[simp] theorem State.actLog_perf (s : State) (m : Master) (k a v x c : Nat) : (s.actLog m k a v x c).perf = s.perf := rfl
@[simp] theorem State.actLog_dbg (s : State) (m : Master) (k a v x c : Nat) : (s.actLog m k a v x c).dbg = s.dbg := rfl
@[simp] theorem State.actLog_pins (s : State) (m : Master) (k a v x c : Nat) : (s.actLog m k a v x c).pins = s.pins := rfl
@[simp] theorem State.actLog_inputs (s : State) (m : Master) (k a v x c : Nat) : (s.actLog m k a v x c).inputs = s.inputs := rfl
@[simp] theorem State.actLog_held (s : State) (m : Master) (k a v x c : Nat) : (s.actLog m k a v x c).held = s.held := rfl
@[simp] theorem State.actLog_defects (s : State) (m : Master) (k a v x c : Nat) : (s.actLog m k a v x c).defects = s.defects := rfl
@[simp] theorem State.actLog_eccBad (s : State) (m : Master) (k a v x c : Nat) : (s.actLog m k a v x c).eccBad = s.eccBad := rfl
@[simp] theorem State.actLog_eccOne (s : State) (m : Master) (k a v x c : Nat) : (s.actLog m k a v x c).eccOne = s.eccOne := rfl
@[simp] theorem State.actLog_eccCover (s : State) (m : Master) (k a v x c : Nat) : (s.actLog m k a v x c).eccCover = s.eccCover := rfl
@[simp] theorem State.actLog_pending (s : State) (m : Master) (k a v x c : Nat) : (s.actLog m k a v x c).pending = s.pending := rfl

/-! ### faultDue -/

@[simp] theorem State.faultDue_cfg (s : State) (i : StreamId) (d : FaultDue) : (s.faultDue i d).cfg = s.cfg := rfl
@[simp] theorem State.faultDue_slices (s : State) (i : StreamId) (d : FaultDue) : (s.faultDue i d).slices = s.slices := rfl
@[simp] theorem State.faultDue_clock (s : State) (i : StreamId) (d : FaultDue) : (s.faultDue i d).clock = s.clock := rfl
@[simp] theorem State.faultDue_unit (s : State) (i : StreamId) (d : FaultDue) : (s.faultDue i d).unit = s.unit := rfl
@[simp] theorem State.faultDue_collector (s : State) (i : StreamId) (d : FaultDue) : (s.faultDue i d).collector = s.collector := rfl
@[simp] theorem State.faultDue_collectAt (s : State) (i : StreamId) (d : FaultDue) : (s.faultDue i d).collectAt = s.collectAt := rfl
@[simp] theorem State.faultDue_inflight (s : State) (i : StreamId) (d : FaultDue) : (s.faultDue i d).inflight = s.inflight := rfl
@[simp] theorem State.faultDue_tiles (s : State) (i : StreamId) (d : FaultDue) : (s.faultDue i d).tiles = s.tiles := rfl
@[simp] theorem State.faultDue_tileUse (s : State) (i : StreamId) (d : FaultDue) : (s.faultDue i d).tileUse = s.tileUse := rfl
@[simp] theorem State.faultDue_tileMarks (s : State) (i : StreamId) (d : FaultDue) : (s.faultDue i d).tileMarks = s.tileMarks := rfl
@[simp] theorem State.faultDue_tilesWritten (s : State) (i : StreamId) (d : FaultDue) : (s.faultDue i d).tilesWritten = s.tilesWritten := rfl
@[simp] theorem State.faultDue_cycle (s : State) (i : StreamId) (d : FaultDue) : (s.faultDue i d).cycle = s.cycle := rfl
@[simp] theorem State.faultDue_pool (s : State) (i : StreamId) (d : FaultDue) : (s.faultDue i d).pool = s.pool := rfl
@[simp] theorem State.faultDue_settings (s : State) (i : StreamId) (d : FaultDue) : (s.faultDue i d).settings = s.settings := rfl
@[simp] theorem State.faultDue_basin (s : State) (i : StreamId) (d : FaultDue) : (s.faultDue i d).basin = s.basin := rfl
@[simp] theorem State.faultDue_ledger (s : State) (i : StreamId) (d : FaultDue) : (s.faultDue i d).ledger = s.ledger := rfl
@[simp] theorem State.faultDue_ports (s : State) (i : StreamId) (d : FaultDue) : (s.faultDue i d).ports = s.ports := rfl
@[simp] theorem State.faultDue_image (s : State) (i : StreamId) (d : FaultDue) : (s.faultDue i d).image = s.image := rfl
@[simp] theorem State.faultDue_crossing (s : State) (i : StreamId) (d : FaultDue) : (s.faultDue i d).crossing = s.crossing := rfl
@[simp] theorem State.faultDue_regs (s : State) (i : StreamId) (d : FaultDue) : (s.faultDue i d).regs = s.regs := rfl
@[simp] theorem State.faultDue_cores (s : State) (i : StreamId) (d : FaultDue) : (s.faultDue i d).cores = s.cores := rfl
@[simp] theorem State.faultDue_repair (s : State) (i : StreamId) (d : FaultDue) : (s.faultDue i d).repair = s.repair := rfl
@[simp] theorem State.faultDue_recov (s : State) (i : StreamId) (d : FaultDue) : (s.faultDue i d).recov = s.recov := rfl
@[simp] theorem State.faultDue_log (s : State) (i : StreamId) (d : FaultDue) : (s.faultDue i d).log = s.log := rfl
@[simp] theorem State.faultDue_ao (s : State) (i : StreamId) (d : FaultDue) : (s.faultDue i d).ao = s.ao := rfl
@[simp] theorem State.faultDue_fuses (s : State) (i : StreamId) (d : FaultDue) : (s.faultDue i d).fuses = s.fuses := rfl
@[simp] theorem State.faultDue_sec (s : State) (i : StreamId) (d : FaultDue) : (s.faultDue i d).sec = s.sec := rfl
@[simp] theorem State.faultDue_scrub (s : State) (i : StreamId) (d : FaultDue) : (s.faultDue i d).scrub = s.scrub := rfl
@[simp] theorem State.faultDue_power (s : State) (i : StreamId) (d : FaultDue) : (s.faultDue i d).power = s.power := rfl
@[simp] theorem State.faultDue_perf (s : State) (i : StreamId) (d : FaultDue) : (s.faultDue i d).perf = s.perf := rfl
@[simp] theorem State.faultDue_dbg (s : State) (i : StreamId) (d : FaultDue) : (s.faultDue i d).dbg = s.dbg := rfl
@[simp] theorem State.faultDue_pins (s : State) (i : StreamId) (d : FaultDue) : (s.faultDue i d).pins = s.pins := rfl
@[simp] theorem State.faultDue_inputs (s : State) (i : StreamId) (d : FaultDue) : (s.faultDue i d).inputs = s.inputs := rfl
@[simp] theorem State.faultDue_held (s : State) (i : StreamId) (d : FaultDue) : (s.faultDue i d).held = s.held := rfl
@[simp] theorem State.faultDue_defects (s : State) (i : StreamId) (d : FaultDue) : (s.faultDue i d).defects = s.defects := rfl
@[simp] theorem State.faultDue_eccBad (s : State) (i : StreamId) (d : FaultDue) : (s.faultDue i d).eccBad = s.eccBad := rfl
@[simp] theorem State.faultDue_eccOne (s : State) (i : StreamId) (d : FaultDue) : (s.faultDue i d).eccOne = s.eccOne := rfl
@[simp] theorem State.faultDue_eccCover (s : State) (i : StreamId) (d : FaultDue) : (s.faultDue i d).eccCover = s.eccCover := rfl
@[simp] theorem State.faultDue_pending (s : State) (i : StreamId) (d : FaultDue) : (s.faultDue i d).pending = s.pending := rfl

/-! ### later -/

@[simp] theorem State.later_cfg (s : State) (i : StreamId) (n : Nat) (a : Arrival) : (s.later i n a).cfg = s.cfg := rfl
@[simp] theorem State.later_slices (s : State) (i : StreamId) (n : Nat) (a : Arrival) : (s.later i n a).slices = s.slices := rfl
@[simp] theorem State.later_clock (s : State) (i : StreamId) (n : Nat) (a : Arrival) : (s.later i n a).clock = s.clock := rfl
@[simp] theorem State.later_unit (s : State) (i : StreamId) (n : Nat) (a : Arrival) : (s.later i n a).unit = s.unit := rfl
@[simp] theorem State.later_streams (s : State) (i : StreamId) (n : Nat) (a : Arrival) : (s.later i n a).streams = s.streams := rfl
@[simp] theorem State.later_collector (s : State) (i : StreamId) (n : Nat) (a : Arrival) : (s.later i n a).collector = s.collector := rfl
@[simp] theorem State.later_collectAt (s : State) (i : StreamId) (n : Nat) (a : Arrival) : (s.later i n a).collectAt = s.collectAt := rfl
@[simp] theorem State.later_tiles (s : State) (i : StreamId) (n : Nat) (a : Arrival) : (s.later i n a).tiles = s.tiles := rfl
@[simp] theorem State.later_tileUse (s : State) (i : StreamId) (n : Nat) (a : Arrival) : (s.later i n a).tileUse = s.tileUse := rfl
@[simp] theorem State.later_tileMarks (s : State) (i : StreamId) (n : Nat) (a : Arrival) : (s.later i n a).tileMarks = s.tileMarks := rfl
@[simp] theorem State.later_tilesWritten (s : State) (i : StreamId) (n : Nat) (a : Arrival) : (s.later i n a).tilesWritten = s.tilesWritten := rfl
@[simp] theorem State.later_cycle (s : State) (i : StreamId) (n : Nat) (a : Arrival) : (s.later i n a).cycle = s.cycle := rfl
@[simp] theorem State.later_pool (s : State) (i : StreamId) (n : Nat) (a : Arrival) : (s.later i n a).pool = s.pool := rfl
@[simp] theorem State.later_settings (s : State) (i : StreamId) (n : Nat) (a : Arrival) : (s.later i n a).settings = s.settings := rfl
@[simp] theorem State.later_basin (s : State) (i : StreamId) (n : Nat) (a : Arrival) : (s.later i n a).basin = s.basin := rfl
@[simp] theorem State.later_ledger (s : State) (i : StreamId) (n : Nat) (a : Arrival) : (s.later i n a).ledger = s.ledger := rfl
@[simp] theorem State.later_ports (s : State) (i : StreamId) (n : Nat) (a : Arrival) : (s.later i n a).ports = s.ports := rfl
@[simp] theorem State.later_image (s : State) (i : StreamId) (n : Nat) (a : Arrival) : (s.later i n a).image = s.image := rfl
@[simp] theorem State.later_crossing (s : State) (i : StreamId) (n : Nat) (a : Arrival) : (s.later i n a).crossing = s.crossing := rfl
@[simp] theorem State.later_regs (s : State) (i : StreamId) (n : Nat) (a : Arrival) : (s.later i n a).regs = s.regs := rfl
@[simp] theorem State.later_cores (s : State) (i : StreamId) (n : Nat) (a : Arrival) : (s.later i n a).cores = s.cores := rfl
@[simp] theorem State.later_repair (s : State) (i : StreamId) (n : Nat) (a : Arrival) : (s.later i n a).repair = s.repair := rfl
@[simp] theorem State.later_recov (s : State) (i : StreamId) (n : Nat) (a : Arrival) : (s.later i n a).recov = s.recov := rfl
@[simp] theorem State.later_log (s : State) (i : StreamId) (n : Nat) (a : Arrival) : (s.later i n a).log = s.log := rfl
@[simp] theorem State.later_ao (s : State) (i : StreamId) (n : Nat) (a : Arrival) : (s.later i n a).ao = s.ao := rfl
@[simp] theorem State.later_fuses (s : State) (i : StreamId) (n : Nat) (a : Arrival) : (s.later i n a).fuses = s.fuses := rfl
@[simp] theorem State.later_sec (s : State) (i : StreamId) (n : Nat) (a : Arrival) : (s.later i n a).sec = s.sec := rfl
@[simp] theorem State.later_scrub (s : State) (i : StreamId) (n : Nat) (a : Arrival) : (s.later i n a).scrub = s.scrub := rfl
@[simp] theorem State.later_power (s : State) (i : StreamId) (n : Nat) (a : Arrival) : (s.later i n a).power = s.power := rfl
@[simp] theorem State.later_perf (s : State) (i : StreamId) (n : Nat) (a : Arrival) : (s.later i n a).perf = s.perf := rfl
@[simp] theorem State.later_dbg (s : State) (i : StreamId) (n : Nat) (a : Arrival) : (s.later i n a).dbg = s.dbg := rfl
@[simp] theorem State.later_pins (s : State) (i : StreamId) (n : Nat) (a : Arrival) : (s.later i n a).pins = s.pins := rfl
@[simp] theorem State.later_inputs (s : State) (i : StreamId) (n : Nat) (a : Arrival) : (s.later i n a).inputs = s.inputs := rfl
@[simp] theorem State.later_held (s : State) (i : StreamId) (n : Nat) (a : Arrival) : (s.later i n a).held = s.held := rfl
@[simp] theorem State.later_defects (s : State) (i : StreamId) (n : Nat) (a : Arrival) : (s.later i n a).defects = s.defects := rfl
@[simp] theorem State.later_eccBad (s : State) (i : StreamId) (n : Nat) (a : Arrival) : (s.later i n a).eccBad = s.eccBad := rfl
@[simp] theorem State.later_eccOne (s : State) (i : StreamId) (n : Nat) (a : Arrival) : (s.later i n a).eccOne = s.eccOne := rfl
@[simp] theorem State.later_eccCover (s : State) (i : StreamId) (n : Nat) (a : Arrival) : (s.later i n a).eccCover = s.eccCover := rfl
@[simp] theorem State.later_pending (s : State) (i : StreamId) (n : Nat) (a : Arrival) : (s.later i n a).pending = s.pending := rfl

/-! ### takeEffect -/

@[simp] theorem State.takeEffect_cfg (s : State) (i : StreamId) : (s.takeEffect i).cfg = s.cfg := rfl
@[simp] theorem State.takeEffect_slices (s : State) (i : StreamId) : (s.takeEffect i).slices = s.slices := rfl
@[simp] theorem State.takeEffect_clock (s : State) (i : StreamId) : (s.takeEffect i).clock = s.clock := rfl
@[simp] theorem State.takeEffect_unit (s : State) (i : StreamId) : (s.takeEffect i).unit = s.unit := rfl
@[simp] theorem State.takeEffect_collector (s : State) (i : StreamId) : (s.takeEffect i).collector = s.collector := rfl
@[simp] theorem State.takeEffect_collectAt (s : State) (i : StreamId) : (s.takeEffect i).collectAt = s.collectAt := rfl
@[simp] theorem State.takeEffect_inflight (s : State) (i : StreamId) : (s.takeEffect i).inflight = s.inflight := rfl
@[simp] theorem State.takeEffect_tiles (s : State) (i : StreamId) : (s.takeEffect i).tiles = s.tiles := rfl
@[simp] theorem State.takeEffect_tileUse (s : State) (i : StreamId) : (s.takeEffect i).tileUse = s.tileUse := rfl
@[simp] theorem State.takeEffect_tileMarks (s : State) (i : StreamId) : (s.takeEffect i).tileMarks = s.tileMarks := rfl
@[simp] theorem State.takeEffect_tilesWritten (s : State) (i : StreamId) : (s.takeEffect i).tilesWritten = s.tilesWritten := rfl
@[simp] theorem State.takeEffect_cycle (s : State) (i : StreamId) : (s.takeEffect i).cycle = s.cycle := rfl
@[simp] theorem State.takeEffect_pool (s : State) (i : StreamId) : (s.takeEffect i).pool = s.pool := rfl
@[simp] theorem State.takeEffect_settings (s : State) (i : StreamId) : (s.takeEffect i).settings = s.settings := rfl
@[simp] theorem State.takeEffect_basin (s : State) (i : StreamId) : (s.takeEffect i).basin = s.basin := rfl
@[simp] theorem State.takeEffect_ledger (s : State) (i : StreamId) : (s.takeEffect i).ledger = s.ledger := rfl
@[simp] theorem State.takeEffect_ports (s : State) (i : StreamId) : (s.takeEffect i).ports = s.ports := rfl
@[simp] theorem State.takeEffect_image (s : State) (i : StreamId) : (s.takeEffect i).image = s.image := rfl
@[simp] theorem State.takeEffect_crossing (s : State) (i : StreamId) : (s.takeEffect i).crossing = s.crossing := rfl
@[simp] theorem State.takeEffect_regs (s : State) (i : StreamId) : (s.takeEffect i).regs = s.regs := rfl
@[simp] theorem State.takeEffect_cores (s : State) (i : StreamId) : (s.takeEffect i).cores = s.cores := rfl
@[simp] theorem State.takeEffect_repair (s : State) (i : StreamId) : (s.takeEffect i).repair = s.repair := rfl
@[simp] theorem State.takeEffect_recov (s : State) (i : StreamId) : (s.takeEffect i).recov = s.recov := rfl
@[simp] theorem State.takeEffect_log (s : State) (i : StreamId) : (s.takeEffect i).log = s.log := rfl
@[simp] theorem State.takeEffect_ao (s : State) (i : StreamId) : (s.takeEffect i).ao = s.ao := rfl
@[simp] theorem State.takeEffect_fuses (s : State) (i : StreamId) : (s.takeEffect i).fuses = s.fuses := rfl
@[simp] theorem State.takeEffect_sec (s : State) (i : StreamId) : (s.takeEffect i).sec = s.sec := rfl
@[simp] theorem State.takeEffect_scrub (s : State) (i : StreamId) : (s.takeEffect i).scrub = s.scrub := rfl
@[simp] theorem State.takeEffect_power (s : State) (i : StreamId) : (s.takeEffect i).power = s.power := rfl
@[simp] theorem State.takeEffect_perf (s : State) (i : StreamId) : (s.takeEffect i).perf = s.perf := rfl
@[simp] theorem State.takeEffect_dbg (s : State) (i : StreamId) : (s.takeEffect i).dbg = s.dbg := rfl
@[simp] theorem State.takeEffect_pins (s : State) (i : StreamId) : (s.takeEffect i).pins = s.pins := rfl
@[simp] theorem State.takeEffect_inputs (s : State) (i : StreamId) : (s.takeEffect i).inputs = s.inputs := rfl
@[simp] theorem State.takeEffect_held (s : State) (i : StreamId) : (s.takeEffect i).held = s.held := rfl
@[simp] theorem State.takeEffect_defects (s : State) (i : StreamId) : (s.takeEffect i).defects = s.defects := rfl
@[simp] theorem State.takeEffect_eccBad (s : State) (i : StreamId) : (s.takeEffect i).eccBad = s.eccBad := rfl
@[simp] theorem State.takeEffect_eccOne (s : State) (i : StreamId) : (s.takeEffect i).eccOne = s.eccOne := rfl
@[simp] theorem State.takeEffect_eccCover (s : State) (i : StreamId) : (s.takeEffect i).eccCover = s.eccCover := rfl
@[simp] theorem State.takeEffect_pending (s : State) (i : StreamId) : (s.takeEffect i).pending = s.pending := rfl

/-! ### perform -/

@[simp] theorem State.perform_cfg (s : State) (i : StreamId) (no : BitVec 32) (r st : List Byte) : (s.perform i no r st).cfg = s.cfg := rfl
@[simp] theorem State.perform_slices (s : State) (i : StreamId) (no : BitVec 32) (r st : List Byte) : (s.perform i no r st).slices = s.slices := rfl
@[simp] theorem State.perform_clock (s : State) (i : StreamId) (no : BitVec 32) (r st : List Byte) : (s.perform i no r st).clock = s.clock := rfl
@[simp] theorem State.perform_unit (s : State) (i : StreamId) (no : BitVec 32) (r st : List Byte) : (s.perform i no r st).unit = s.unit := rfl
@[simp] theorem State.perform_collector (s : State) (i : StreamId) (no : BitVec 32) (r st : List Byte) : (s.perform i no r st).collector = s.collector := rfl
@[simp] theorem State.perform_collectAt (s : State) (i : StreamId) (no : BitVec 32) (r st : List Byte) : (s.perform i no r st).collectAt = s.collectAt := rfl
@[simp] theorem State.perform_inflight (s : State) (i : StreamId) (no : BitVec 32) (r st : List Byte) : (s.perform i no r st).inflight = s.inflight := rfl
@[simp] theorem State.perform_tiles (s : State) (i : StreamId) (no : BitVec 32) (r st : List Byte) : (s.perform i no r st).tiles = s.tiles := rfl
@[simp] theorem State.perform_tileUse (s : State) (i : StreamId) (no : BitVec 32) (r st : List Byte) : (s.perform i no r st).tileUse = s.tileUse := rfl
@[simp] theorem State.perform_tileMarks (s : State) (i : StreamId) (no : BitVec 32) (r st : List Byte) : (s.perform i no r st).tileMarks = s.tileMarks := rfl
@[simp] theorem State.perform_tilesWritten (s : State) (i : StreamId) (no : BitVec 32) (r st : List Byte) : (s.perform i no r st).tilesWritten = s.tilesWritten := rfl
@[simp] theorem State.perform_cycle (s : State) (i : StreamId) (no : BitVec 32) (r st : List Byte) : (s.perform i no r st).cycle = s.cycle := rfl
@[simp] theorem State.perform_pool (s : State) (i : StreamId) (no : BitVec 32) (r st : List Byte) : (s.perform i no r st).pool = s.pool := rfl
@[simp] theorem State.perform_settings (s : State) (i : StreamId) (no : BitVec 32) (r st : List Byte) : (s.perform i no r st).settings = s.settings := rfl
@[simp] theorem State.perform_basin (s : State) (i : StreamId) (no : BitVec 32) (r st : List Byte) : (s.perform i no r st).basin = s.basin := rfl
@[simp] theorem State.perform_ledger (s : State) (i : StreamId) (no : BitVec 32) (r st : List Byte) : (s.perform i no r st).ledger = s.ledger := rfl
@[simp] theorem State.perform_ports (s : State) (i : StreamId) (no : BitVec 32) (r st : List Byte) : (s.perform i no r st).ports = s.ports := rfl
@[simp] theorem State.perform_image (s : State) (i : StreamId) (no : BitVec 32) (r st : List Byte) : (s.perform i no r st).image = s.image := rfl
@[simp] theorem State.perform_crossing (s : State) (i : StreamId) (no : BitVec 32) (r st : List Byte) : (s.perform i no r st).crossing = s.crossing := rfl
@[simp] theorem State.perform_regs (s : State) (i : StreamId) (no : BitVec 32) (r st : List Byte) : (s.perform i no r st).regs = s.regs := rfl
@[simp] theorem State.perform_cores (s : State) (i : StreamId) (no : BitVec 32) (r st : List Byte) : (s.perform i no r st).cores = s.cores := rfl
@[simp] theorem State.perform_repair (s : State) (i : StreamId) (no : BitVec 32) (r st : List Byte) : (s.perform i no r st).repair = s.repair := rfl
@[simp] theorem State.perform_recov (s : State) (i : StreamId) (no : BitVec 32) (r st : List Byte) : (s.perform i no r st).recov = s.recov := rfl
@[simp] theorem State.perform_log (s : State) (i : StreamId) (no : BitVec 32) (r st : List Byte) : (s.perform i no r st).log = s.log := rfl
@[simp] theorem State.perform_ao (s : State) (i : StreamId) (no : BitVec 32) (r st : List Byte) : (s.perform i no r st).ao = s.ao := rfl
@[simp] theorem State.perform_fuses (s : State) (i : StreamId) (no : BitVec 32) (r st : List Byte) : (s.perform i no r st).fuses = s.fuses := rfl
@[simp] theorem State.perform_sec (s : State) (i : StreamId) (no : BitVec 32) (r st : List Byte) : (s.perform i no r st).sec = s.sec := rfl
@[simp] theorem State.perform_scrub (s : State) (i : StreamId) (no : BitVec 32) (r st : List Byte) : (s.perform i no r st).scrub = s.scrub := rfl
@[simp] theorem State.perform_power (s : State) (i : StreamId) (no : BitVec 32) (r st : List Byte) : (s.perform i no r st).power = s.power := rfl
@[simp] theorem State.perform_perf (s : State) (i : StreamId) (no : BitVec 32) (r st : List Byte) : (s.perform i no r st).perf = s.perf := rfl
@[simp] theorem State.perform_dbg (s : State) (i : StreamId) (no : BitVec 32) (r st : List Byte) : (s.perform i no r st).dbg = s.dbg := rfl
@[simp] theorem State.perform_pins (s : State) (i : StreamId) (no : BitVec 32) (r st : List Byte) : (s.perform i no r st).pins = s.pins := rfl
@[simp] theorem State.perform_inputs (s : State) (i : StreamId) (no : BitVec 32) (r st : List Byte) : (s.perform i no r st).inputs = s.inputs := rfl
@[simp] theorem State.perform_held (s : State) (i : StreamId) (no : BitVec 32) (r st : List Byte) : (s.perform i no r st).held = s.held := rfl
@[simp] theorem State.perform_defects (s : State) (i : StreamId) (no : BitVec 32) (r st : List Byte) : (s.perform i no r st).defects = s.defects := rfl
@[simp] theorem State.perform_eccBad (s : State) (i : StreamId) (no : BitVec 32) (r st : List Byte) : (s.perform i no r st).eccBad = s.eccBad := rfl
@[simp] theorem State.perform_eccOne (s : State) (i : StreamId) (no : BitVec 32) (r st : List Byte) : (s.perform i no r st).eccOne = s.eccOne := rfl
@[simp] theorem State.perform_eccCover (s : State) (i : StreamId) (no : BitVec 32) (r st : List Byte) : (s.perform i no r st).eccCover = s.eccCover := rfl
@[simp] theorem State.perform_pending (s : State) (i : StreamId) (no : BitVec 32) (r st : List Byte) : (s.perform i no r st).pending = s.pending := rfl

/-! ### suppress -/

@[simp] theorem State.suppress_cfg (s : State) (i : StreamId) (n : Nat) : (s.suppress i n).cfg = s.cfg := rfl
@[simp] theorem State.suppress_slices (s : State) (i : StreamId) (n : Nat) : (s.suppress i n).slices = s.slices := rfl
@[simp] theorem State.suppress_clock (s : State) (i : StreamId) (n : Nat) : (s.suppress i n).clock = s.clock := rfl
@[simp] theorem State.suppress_unit (s : State) (i : StreamId) (n : Nat) : (s.suppress i n).unit = s.unit := rfl
@[simp] theorem State.suppress_collector (s : State) (i : StreamId) (n : Nat) : (s.suppress i n).collector = s.collector := rfl
@[simp] theorem State.suppress_collectAt (s : State) (i : StreamId) (n : Nat) : (s.suppress i n).collectAt = s.collectAt := rfl
@[simp] theorem State.suppress_inflight (s : State) (i : StreamId) (n : Nat) : (s.suppress i n).inflight = s.inflight := rfl
@[simp] theorem State.suppress_tiles (s : State) (i : StreamId) (n : Nat) : (s.suppress i n).tiles = s.tiles := rfl
@[simp] theorem State.suppress_tileUse (s : State) (i : StreamId) (n : Nat) : (s.suppress i n).tileUse = s.tileUse := rfl
@[simp] theorem State.suppress_tileMarks (s : State) (i : StreamId) (n : Nat) : (s.suppress i n).tileMarks = s.tileMarks := rfl
@[simp] theorem State.suppress_tilesWritten (s : State) (i : StreamId) (n : Nat) : (s.suppress i n).tilesWritten = s.tilesWritten := rfl
@[simp] theorem State.suppress_cycle (s : State) (i : StreamId) (n : Nat) : (s.suppress i n).cycle = s.cycle := rfl
@[simp] theorem State.suppress_pool (s : State) (i : StreamId) (n : Nat) : (s.suppress i n).pool = s.pool := rfl
@[simp] theorem State.suppress_settings (s : State) (i : StreamId) (n : Nat) : (s.suppress i n).settings = s.settings := rfl
@[simp] theorem State.suppress_basin (s : State) (i : StreamId) (n : Nat) : (s.suppress i n).basin = s.basin := rfl
@[simp] theorem State.suppress_ledger (s : State) (i : StreamId) (n : Nat) : (s.suppress i n).ledger = s.ledger := rfl
@[simp] theorem State.suppress_ports (s : State) (i : StreamId) (n : Nat) : (s.suppress i n).ports = s.ports := rfl
@[simp] theorem State.suppress_image (s : State) (i : StreamId) (n : Nat) : (s.suppress i n).image = s.image := rfl
@[simp] theorem State.suppress_crossing (s : State) (i : StreamId) (n : Nat) : (s.suppress i n).crossing = s.crossing := rfl
@[simp] theorem State.suppress_regs (s : State) (i : StreamId) (n : Nat) : (s.suppress i n).regs = s.regs := rfl
@[simp] theorem State.suppress_cores (s : State) (i : StreamId) (n : Nat) : (s.suppress i n).cores = s.cores := rfl
@[simp] theorem State.suppress_repair (s : State) (i : StreamId) (n : Nat) : (s.suppress i n).repair = s.repair := rfl
@[simp] theorem State.suppress_recov (s : State) (i : StreamId) (n : Nat) : (s.suppress i n).recov = s.recov := rfl
@[simp] theorem State.suppress_log (s : State) (i : StreamId) (n : Nat) : (s.suppress i n).log = s.log := rfl
@[simp] theorem State.suppress_ao (s : State) (i : StreamId) (n : Nat) : (s.suppress i n).ao = s.ao := rfl
@[simp] theorem State.suppress_fuses (s : State) (i : StreamId) (n : Nat) : (s.suppress i n).fuses = s.fuses := rfl
@[simp] theorem State.suppress_sec (s : State) (i : StreamId) (n : Nat) : (s.suppress i n).sec = s.sec := rfl
@[simp] theorem State.suppress_scrub (s : State) (i : StreamId) (n : Nat) : (s.suppress i n).scrub = s.scrub := rfl
@[simp] theorem State.suppress_power (s : State) (i : StreamId) (n : Nat) : (s.suppress i n).power = s.power := rfl
@[simp] theorem State.suppress_perf (s : State) (i : StreamId) (n : Nat) : (s.suppress i n).perf = s.perf := rfl
@[simp] theorem State.suppress_dbg (s : State) (i : StreamId) (n : Nat) : (s.suppress i n).dbg = s.dbg := rfl
@[simp] theorem State.suppress_pins (s : State) (i : StreamId) (n : Nat) : (s.suppress i n).pins = s.pins := rfl
@[simp] theorem State.suppress_inputs (s : State) (i : StreamId) (n : Nat) : (s.suppress i n).inputs = s.inputs := rfl
@[simp] theorem State.suppress_held (s : State) (i : StreamId) (n : Nat) : (s.suppress i n).held = s.held := rfl
@[simp] theorem State.suppress_defects (s : State) (i : StreamId) (n : Nat) : (s.suppress i n).defects = s.defects := rfl
@[simp] theorem State.suppress_eccBad (s : State) (i : StreamId) (n : Nat) : (s.suppress i n).eccBad = s.eccBad := rfl
@[simp] theorem State.suppress_eccOne (s : State) (i : StreamId) (n : Nat) : (s.suppress i n).eccOne = s.eccOne := rfl
@[simp] theorem State.suppress_eccCover (s : State) (i : StreamId) (n : Nat) : (s.suppress i n).eccCover = s.eccCover := rfl
@[simp] theorem State.suppress_pending (s : State) (i : StreamId) (n : Nat) : (s.suppress i n).pending = s.pending := rfl

/-! ### keepEcc -/

@[simp] theorem State.keepEcc_cfg (s : State) (k : Store × Nat → Bool) : (s.keepEcc k).cfg = s.cfg := rfl
@[simp] theorem State.keepEcc_slices (s : State) (k : Store × Nat → Bool) : (s.keepEcc k).slices = s.slices := rfl
@[simp] theorem State.keepEcc_clock (s : State) (k : Store × Nat → Bool) : (s.keepEcc k).clock = s.clock := rfl
@[simp] theorem State.keepEcc_unit (s : State) (k : Store × Nat → Bool) : (s.keepEcc k).unit = s.unit := rfl
@[simp] theorem State.keepEcc_streams (s : State) (k : Store × Nat → Bool) : (s.keepEcc k).streams = s.streams := rfl
@[simp] theorem State.keepEcc_collector (s : State) (k : Store × Nat → Bool) : (s.keepEcc k).collector = s.collector := rfl
@[simp] theorem State.keepEcc_collectAt (s : State) (k : Store × Nat → Bool) : (s.keepEcc k).collectAt = s.collectAt := rfl
@[simp] theorem State.keepEcc_inflight (s : State) (k : Store × Nat → Bool) : (s.keepEcc k).inflight = s.inflight := rfl
@[simp] theorem State.keepEcc_tiles (s : State) (k : Store × Nat → Bool) : (s.keepEcc k).tiles = s.tiles := rfl
@[simp] theorem State.keepEcc_tileUse (s : State) (k : Store × Nat → Bool) : (s.keepEcc k).tileUse = s.tileUse := rfl
@[simp] theorem State.keepEcc_tileMarks (s : State) (k : Store × Nat → Bool) : (s.keepEcc k).tileMarks = s.tileMarks := rfl
@[simp] theorem State.keepEcc_tilesWritten (s : State) (k : Store × Nat → Bool) : (s.keepEcc k).tilesWritten = s.tilesWritten := rfl
@[simp] theorem State.keepEcc_cycle (s : State) (k : Store × Nat → Bool) : (s.keepEcc k).cycle = s.cycle := rfl
@[simp] theorem State.keepEcc_pool (s : State) (k : Store × Nat → Bool) : (s.keepEcc k).pool = s.pool := rfl
@[simp] theorem State.keepEcc_settings (s : State) (k : Store × Nat → Bool) : (s.keepEcc k).settings = s.settings := rfl
@[simp] theorem State.keepEcc_basin (s : State) (k : Store × Nat → Bool) : (s.keepEcc k).basin = s.basin := rfl
@[simp] theorem State.keepEcc_ledger (s : State) (k : Store × Nat → Bool) : (s.keepEcc k).ledger = s.ledger := rfl
@[simp] theorem State.keepEcc_ports (s : State) (k : Store × Nat → Bool) : (s.keepEcc k).ports = s.ports := rfl
@[simp] theorem State.keepEcc_image (s : State) (k : Store × Nat → Bool) : (s.keepEcc k).image = s.image := rfl
@[simp] theorem State.keepEcc_crossing (s : State) (k : Store × Nat → Bool) : (s.keepEcc k).crossing = s.crossing := rfl
@[simp] theorem State.keepEcc_regs (s : State) (k : Store × Nat → Bool) : (s.keepEcc k).regs = s.regs := rfl
@[simp] theorem State.keepEcc_cores (s : State) (k : Store × Nat → Bool) : (s.keepEcc k).cores = s.cores := rfl
@[simp] theorem State.keepEcc_repair (s : State) (k : Store × Nat → Bool) : (s.keepEcc k).repair = s.repair := rfl
@[simp] theorem State.keepEcc_recov (s : State) (k : Store × Nat → Bool) : (s.keepEcc k).recov = s.recov := rfl
@[simp] theorem State.keepEcc_log (s : State) (k : Store × Nat → Bool) : (s.keepEcc k).log = s.log := rfl
@[simp] theorem State.keepEcc_ao (s : State) (k : Store × Nat → Bool) : (s.keepEcc k).ao = s.ao := rfl
@[simp] theorem State.keepEcc_fuses (s : State) (k : Store × Nat → Bool) : (s.keepEcc k).fuses = s.fuses := rfl
@[simp] theorem State.keepEcc_sec (s : State) (k : Store × Nat → Bool) : (s.keepEcc k).sec = s.sec := rfl
@[simp] theorem State.keepEcc_scrub (s : State) (k : Store × Nat → Bool) : (s.keepEcc k).scrub = s.scrub := rfl
@[simp] theorem State.keepEcc_power (s : State) (k : Store × Nat → Bool) : (s.keepEcc k).power = s.power := rfl
@[simp] theorem State.keepEcc_perf (s : State) (k : Store × Nat → Bool) : (s.keepEcc k).perf = s.perf := rfl
@[simp] theorem State.keepEcc_dbg (s : State) (k : Store × Nat → Bool) : (s.keepEcc k).dbg = s.dbg := rfl
@[simp] theorem State.keepEcc_pins (s : State) (k : Store × Nat → Bool) : (s.keepEcc k).pins = s.pins := rfl
@[simp] theorem State.keepEcc_inputs (s : State) (k : Store × Nat → Bool) : (s.keepEcc k).inputs = s.inputs := rfl
@[simp] theorem State.keepEcc_held (s : State) (k : Store × Nat → Bool) : (s.keepEcc k).held = s.held := rfl
@[simp] theorem State.keepEcc_defects (s : State) (k : Store × Nat → Bool) : (s.keepEcc k).defects = s.defects := rfl
@[simp] theorem State.keepEcc_pending (s : State) (k : Store × Nat → Bool) : (s.keepEcc k).pending = s.pending := rfl

/-! ### wroteWords -/

@[simp] theorem State.wroteWords_cfg (s : State) (st : Store) (ws : List Nat) : (s.wroteWords st ws).cfg = s.cfg := rfl
@[simp] theorem State.wroteWords_slices (s : State) (st : Store) (ws : List Nat) : (s.wroteWords st ws).slices = s.slices := rfl
@[simp] theorem State.wroteWords_clock (s : State) (st : Store) (ws : List Nat) : (s.wroteWords st ws).clock = s.clock := rfl
@[simp] theorem State.wroteWords_unit (s : State) (st : Store) (ws : List Nat) : (s.wroteWords st ws).unit = s.unit := rfl
@[simp] theorem State.wroteWords_streams (s : State) (st : Store) (ws : List Nat) : (s.wroteWords st ws).streams = s.streams := rfl
@[simp] theorem State.wroteWords_collector (s : State) (st : Store) (ws : List Nat) : (s.wroteWords st ws).collector = s.collector := rfl
@[simp] theorem State.wroteWords_collectAt (s : State) (st : Store) (ws : List Nat) : (s.wroteWords st ws).collectAt = s.collectAt := rfl
@[simp] theorem State.wroteWords_inflight (s : State) (st : Store) (ws : List Nat) : (s.wroteWords st ws).inflight = s.inflight := rfl
@[simp] theorem State.wroteWords_tiles (s : State) (st : Store) (ws : List Nat) : (s.wroteWords st ws).tiles = s.tiles := rfl
@[simp] theorem State.wroteWords_tileUse (s : State) (st : Store) (ws : List Nat) : (s.wroteWords st ws).tileUse = s.tileUse := rfl
@[simp] theorem State.wroteWords_tileMarks (s : State) (st : Store) (ws : List Nat) : (s.wroteWords st ws).tileMarks = s.tileMarks := rfl
@[simp] theorem State.wroteWords_tilesWritten (s : State) (st : Store) (ws : List Nat) : (s.wroteWords st ws).tilesWritten = s.tilesWritten := rfl
@[simp] theorem State.wroteWords_cycle (s : State) (st : Store) (ws : List Nat) : (s.wroteWords st ws).cycle = s.cycle := rfl
@[simp] theorem State.wroteWords_pool (s : State) (st : Store) (ws : List Nat) : (s.wroteWords st ws).pool = s.pool := rfl
@[simp] theorem State.wroteWords_settings (s : State) (st : Store) (ws : List Nat) : (s.wroteWords st ws).settings = s.settings := rfl
@[simp] theorem State.wroteWords_basin (s : State) (st : Store) (ws : List Nat) : (s.wroteWords st ws).basin = s.basin := rfl
@[simp] theorem State.wroteWords_ledger (s : State) (st : Store) (ws : List Nat) : (s.wroteWords st ws).ledger = s.ledger := rfl
@[simp] theorem State.wroteWords_ports (s : State) (st : Store) (ws : List Nat) : (s.wroteWords st ws).ports = s.ports := rfl
@[simp] theorem State.wroteWords_image (s : State) (st : Store) (ws : List Nat) : (s.wroteWords st ws).image = s.image := rfl
@[simp] theorem State.wroteWords_crossing (s : State) (st : Store) (ws : List Nat) : (s.wroteWords st ws).crossing = s.crossing := rfl
@[simp] theorem State.wroteWords_regs (s : State) (st : Store) (ws : List Nat) : (s.wroteWords st ws).regs = s.regs := rfl
@[simp] theorem State.wroteWords_cores (s : State) (st : Store) (ws : List Nat) : (s.wroteWords st ws).cores = s.cores := rfl
@[simp] theorem State.wroteWords_repair (s : State) (st : Store) (ws : List Nat) : (s.wroteWords st ws).repair = s.repair := rfl
@[simp] theorem State.wroteWords_recov (s : State) (st : Store) (ws : List Nat) : (s.wroteWords st ws).recov = s.recov := rfl
@[simp] theorem State.wroteWords_log (s : State) (st : Store) (ws : List Nat) : (s.wroteWords st ws).log = s.log := rfl
@[simp] theorem State.wroteWords_ao (s : State) (st : Store) (ws : List Nat) : (s.wroteWords st ws).ao = s.ao := rfl
@[simp] theorem State.wroteWords_fuses (s : State) (st : Store) (ws : List Nat) : (s.wroteWords st ws).fuses = s.fuses := rfl
@[simp] theorem State.wroteWords_sec (s : State) (st : Store) (ws : List Nat) : (s.wroteWords st ws).sec = s.sec := rfl
@[simp] theorem State.wroteWords_scrub (s : State) (st : Store) (ws : List Nat) : (s.wroteWords st ws).scrub = s.scrub := rfl
@[simp] theorem State.wroteWords_power (s : State) (st : Store) (ws : List Nat) : (s.wroteWords st ws).power = s.power := rfl
@[simp] theorem State.wroteWords_perf (s : State) (st : Store) (ws : List Nat) : (s.wroteWords st ws).perf = s.perf := rfl
@[simp] theorem State.wroteWords_dbg (s : State) (st : Store) (ws : List Nat) : (s.wroteWords st ws).dbg = s.dbg := rfl
@[simp] theorem State.wroteWords_pins (s : State) (st : Store) (ws : List Nat) : (s.wroteWords st ws).pins = s.pins := rfl
@[simp] theorem State.wroteWords_inputs (s : State) (st : Store) (ws : List Nat) : (s.wroteWords st ws).inputs = s.inputs := rfl
@[simp] theorem State.wroteWords_held (s : State) (st : Store) (ws : List Nat) : (s.wroteWords st ws).held = s.held := rfl
@[simp] theorem State.wroteWords_defects (s : State) (st : Store) (ws : List Nat) : (s.wroteWords st ws).defects = s.defects := rfl
@[simp] theorem State.wroteWords_pending (s : State) (st : Store) (ws : List Nat) : (s.wroteWords st ws).pending = s.pending := rfl

/-! ### hold -/

@[simp] theorem State.hold_cfg (s : State) (a : HeldAct) : (s.hold a).cfg = s.cfg := rfl
@[simp] theorem State.hold_slices (s : State) (a : HeldAct) : (s.hold a).slices = s.slices := rfl
@[simp] theorem State.hold_clock (s : State) (a : HeldAct) : (s.hold a).clock = s.clock := rfl
@[simp] theorem State.hold_unit (s : State) (a : HeldAct) : (s.hold a).unit = s.unit := rfl
@[simp] theorem State.hold_streams (s : State) (a : HeldAct) : (s.hold a).streams = s.streams := rfl
@[simp] theorem State.hold_collector (s : State) (a : HeldAct) : (s.hold a).collector = s.collector := rfl
@[simp] theorem State.hold_collectAt (s : State) (a : HeldAct) : (s.hold a).collectAt = s.collectAt := rfl
@[simp] theorem State.hold_inflight (s : State) (a : HeldAct) : (s.hold a).inflight = s.inflight := rfl
@[simp] theorem State.hold_tiles (s : State) (a : HeldAct) : (s.hold a).tiles = s.tiles := rfl
@[simp] theorem State.hold_tileUse (s : State) (a : HeldAct) : (s.hold a).tileUse = s.tileUse := rfl
@[simp] theorem State.hold_tileMarks (s : State) (a : HeldAct) : (s.hold a).tileMarks = s.tileMarks := rfl
@[simp] theorem State.hold_tilesWritten (s : State) (a : HeldAct) : (s.hold a).tilesWritten = s.tilesWritten := rfl
@[simp] theorem State.hold_cycle (s : State) (a : HeldAct) : (s.hold a).cycle = s.cycle := rfl
@[simp] theorem State.hold_pool (s : State) (a : HeldAct) : (s.hold a).pool = s.pool := rfl
@[simp] theorem State.hold_settings (s : State) (a : HeldAct) : (s.hold a).settings = s.settings := rfl
@[simp] theorem State.hold_basin (s : State) (a : HeldAct) : (s.hold a).basin = s.basin := rfl
@[simp] theorem State.hold_ledger (s : State) (a : HeldAct) : (s.hold a).ledger = s.ledger := rfl
@[simp] theorem State.hold_ports (s : State) (a : HeldAct) : (s.hold a).ports = s.ports := rfl
@[simp] theorem State.hold_image (s : State) (a : HeldAct) : (s.hold a).image = s.image := rfl
@[simp] theorem State.hold_crossing (s : State) (a : HeldAct) : (s.hold a).crossing = s.crossing := rfl
@[simp] theorem State.hold_regs (s : State) (a : HeldAct) : (s.hold a).regs = s.regs := rfl
@[simp] theorem State.hold_cores (s : State) (a : HeldAct) : (s.hold a).cores = s.cores := rfl
@[simp] theorem State.hold_repair (s : State) (a : HeldAct) : (s.hold a).repair = s.repair := rfl
@[simp] theorem State.hold_recov (s : State) (a : HeldAct) : (s.hold a).recov = s.recov := rfl
@[simp] theorem State.hold_log (s : State) (a : HeldAct) : (s.hold a).log = s.log := rfl
@[simp] theorem State.hold_ao (s : State) (a : HeldAct) : (s.hold a).ao = s.ao := rfl
@[simp] theorem State.hold_fuses (s : State) (a : HeldAct) : (s.hold a).fuses = s.fuses := rfl
@[simp] theorem State.hold_sec (s : State) (a : HeldAct) : (s.hold a).sec = s.sec := rfl
@[simp] theorem State.hold_scrub (s : State) (a : HeldAct) : (s.hold a).scrub = s.scrub := rfl
@[simp] theorem State.hold_power (s : State) (a : HeldAct) : (s.hold a).power = s.power := rfl
@[simp] theorem State.hold_perf (s : State) (a : HeldAct) : (s.hold a).perf = s.perf := rfl
@[simp] theorem State.hold_dbg (s : State) (a : HeldAct) : (s.hold a).dbg = s.dbg := rfl
@[simp] theorem State.hold_pins (s : State) (a : HeldAct) : (s.hold a).pins = s.pins := rfl
@[simp] theorem State.hold_inputs (s : State) (a : HeldAct) : (s.hold a).inputs = s.inputs := rfl
@[simp] theorem State.hold_defects (s : State) (a : HeldAct) : (s.hold a).defects = s.defects := rfl
@[simp] theorem State.hold_eccBad (s : State) (a : HeldAct) : (s.hold a).eccBad = s.eccBad := rfl
@[simp] theorem State.hold_eccOne (s : State) (a : HeldAct) : (s.hold a).eccOne = s.eccOne := rfl
@[simp] theorem State.hold_eccCover (s : State) (a : HeldAct) : (s.hold a).eccCover = s.eccCover := rfl
@[simp] theorem State.hold_pending (s : State) (a : HeldAct) : (s.hold a).pending = s.pending := rfl

/-! ### store -/

@[simp] theorem State.store_cfg (s : State) (p : StreamId) (w : List Stored) : (s.store p w).cfg = s.cfg := rfl
@[simp] theorem State.store_slices (s : State) (p : StreamId) (w : List Stored) : (s.store p w).slices = s.slices := rfl
@[simp] theorem State.store_clock (s : State) (p : StreamId) (w : List Stored) : (s.store p w).clock = s.clock := rfl
@[simp] theorem State.store_unit (s : State) (p : StreamId) (w : List Stored) : (s.store p w).unit = s.unit := rfl
@[simp] theorem State.store_collector (s : State) (p : StreamId) (w : List Stored) : (s.store p w).collector = s.collector := rfl
@[simp] theorem State.store_collectAt (s : State) (p : StreamId) (w : List Stored) : (s.store p w).collectAt = s.collectAt := rfl
@[simp] theorem State.store_inflight (s : State) (p : StreamId) (w : List Stored) : (s.store p w).inflight = s.inflight := rfl
@[simp] theorem State.store_tiles (s : State) (p : StreamId) (w : List Stored) : (s.store p w).tiles = s.tiles := rfl
@[simp] theorem State.store_tileUse (s : State) (p : StreamId) (w : List Stored) : (s.store p w).tileUse = s.tileUse := rfl
@[simp] theorem State.store_tileMarks (s : State) (p : StreamId) (w : List Stored) : (s.store p w).tileMarks = s.tileMarks := rfl
@[simp] theorem State.store_tilesWritten (s : State) (p : StreamId) (w : List Stored) : (s.store p w).tilesWritten = s.tilesWritten := rfl
@[simp] theorem State.store_cycle (s : State) (p : StreamId) (w : List Stored) : (s.store p w).cycle = s.cycle := rfl
@[simp] theorem State.store_pool (s : State) (p : StreamId) (w : List Stored) : (s.store p w).pool = s.pool := rfl
@[simp] theorem State.store_settings (s : State) (p : StreamId) (w : List Stored) : (s.store p w).settings = s.settings := rfl
@[simp] theorem State.store_basin (s : State) (p : StreamId) (w : List Stored) : (s.store p w).basin = s.basin := rfl
@[simp] theorem State.store_ledger (s : State) (p : StreamId) (w : List Stored) : (s.store p w).ledger = s.ledger := rfl
@[simp] theorem State.store_ports (s : State) (p : StreamId) (w : List Stored) : (s.store p w).ports = s.ports := rfl
@[simp] theorem State.store_image (s : State) (p : StreamId) (w : List Stored) : (s.store p w).image = s.image := rfl
@[simp] theorem State.store_crossing (s : State) (p : StreamId) (w : List Stored) : (s.store p w).crossing = s.crossing := rfl
@[simp] theorem State.store_regs (s : State) (p : StreamId) (w : List Stored) : (s.store p w).regs = s.regs := rfl
@[simp] theorem State.store_cores (s : State) (p : StreamId) (w : List Stored) : (s.store p w).cores = s.cores := rfl
@[simp] theorem State.store_repair (s : State) (p : StreamId) (w : List Stored) : (s.store p w).repair = s.repair := rfl
@[simp] theorem State.store_recov (s : State) (p : StreamId) (w : List Stored) : (s.store p w).recov = s.recov := rfl
@[simp] theorem State.store_log (s : State) (p : StreamId) (w : List Stored) : (s.store p w).log = s.log := rfl
@[simp] theorem State.store_ao (s : State) (p : StreamId) (w : List Stored) : (s.store p w).ao = s.ao := rfl
@[simp] theorem State.store_fuses (s : State) (p : StreamId) (w : List Stored) : (s.store p w).fuses = s.fuses := rfl
@[simp] theorem State.store_sec (s : State) (p : StreamId) (w : List Stored) : (s.store p w).sec = s.sec := rfl
@[simp] theorem State.store_scrub (s : State) (p : StreamId) (w : List Stored) : (s.store p w).scrub = s.scrub := rfl
@[simp] theorem State.store_power (s : State) (p : StreamId) (w : List Stored) : (s.store p w).power = s.power := rfl
@[simp] theorem State.store_perf (s : State) (p : StreamId) (w : List Stored) : (s.store p w).perf = s.perf := rfl
@[simp] theorem State.store_dbg (s : State) (p : StreamId) (w : List Stored) : (s.store p w).dbg = s.dbg := rfl
@[simp] theorem State.store_pins (s : State) (p : StreamId) (w : List Stored) : (s.store p w).pins = s.pins := rfl
@[simp] theorem State.store_inputs (s : State) (p : StreamId) (w : List Stored) : (s.store p w).inputs = s.inputs := rfl
@[simp] theorem State.store_held (s : State) (p : StreamId) (w : List Stored) : (s.store p w).held = s.held := rfl
@[simp] theorem State.store_defects (s : State) (p : StreamId) (w : List Stored) : (s.store p w).defects = s.defects := rfl
@[simp] theorem State.store_eccBad (s : State) (p : StreamId) (w : List Stored) : (s.store p w).eccBad = s.eccBad := rfl
@[simp] theorem State.store_eccOne (s : State) (p : StreamId) (w : List Stored) : (s.store p w).eccOne = s.eccOne := rfl
@[simp] theorem State.store_eccCover (s : State) (p : StreamId) (w : List Stored) : (s.store p w).eccCover = s.eccCover := rfl
@[simp] theorem State.store_pending (s : State) (p : StreamId) (w : List Stored) : (s.store p w).pending = s.pending := rfl

/-! ### complete -/

@[simp] theorem State.complete_cfg (s : State) (i : StreamId) (f t : Bool) : (s.complete i f t).cfg = s.cfg := rfl
@[simp] theorem State.complete_slices (s : State) (i : StreamId) (f t : Bool) : (s.complete i f t).slices = s.slices := rfl
@[simp] theorem State.complete_clock (s : State) (i : StreamId) (f t : Bool) : (s.complete i f t).clock = s.clock := rfl
@[simp] theorem State.complete_unit (s : State) (i : StreamId) (f t : Bool) : (s.complete i f t).unit = s.unit := rfl
@[simp] theorem State.complete_collectAt (s : State) (i : StreamId) (f t : Bool) : (s.complete i f t).collectAt = s.collectAt := rfl
@[simp] theorem State.complete_inflight (s : State) (i : StreamId) (f t : Bool) : (s.complete i f t).inflight = s.inflight := rfl
@[simp] theorem State.complete_tiles (s : State) (i : StreamId) (f t : Bool) : (s.complete i f t).tiles = s.tiles := rfl
@[simp] theorem State.complete_tileUse (s : State) (i : StreamId) (f t : Bool) : (s.complete i f t).tileUse = s.tileUse := rfl
@[simp] theorem State.complete_tileMarks (s : State) (i : StreamId) (f t : Bool) : (s.complete i f t).tileMarks = s.tileMarks := rfl
@[simp] theorem State.complete_tilesWritten (s : State) (i : StreamId) (f t : Bool) : (s.complete i f t).tilesWritten = s.tilesWritten := rfl
@[simp] theorem State.complete_cycle (s : State) (i : StreamId) (f t : Bool) : (s.complete i f t).cycle = s.cycle := rfl
@[simp] theorem State.complete_pool (s : State) (i : StreamId) (f t : Bool) : (s.complete i f t).pool = s.pool := rfl
@[simp] theorem State.complete_settings (s : State) (i : StreamId) (f t : Bool) : (s.complete i f t).settings = s.settings := rfl
@[simp] theorem State.complete_basin (s : State) (i : StreamId) (f t : Bool) : (s.complete i f t).basin = s.basin := rfl
@[simp] theorem State.complete_ledger (s : State) (i : StreamId) (f t : Bool) : (s.complete i f t).ledger = s.ledger := rfl
@[simp] theorem State.complete_ports (s : State) (i : StreamId) (f t : Bool) : (s.complete i f t).ports = s.ports := rfl
@[simp] theorem State.complete_image (s : State) (i : StreamId) (f t : Bool) : (s.complete i f t).image = s.image := rfl
@[simp] theorem State.complete_crossing (s : State) (i : StreamId) (f t : Bool) : (s.complete i f t).crossing = s.crossing := rfl
@[simp] theorem State.complete_regs (s : State) (i : StreamId) (f t : Bool) : (s.complete i f t).regs = s.regs := rfl
@[simp] theorem State.complete_cores (s : State) (i : StreamId) (f t : Bool) : (s.complete i f t).cores = s.cores := rfl
@[simp] theorem State.complete_repair (s : State) (i : StreamId) (f t : Bool) : (s.complete i f t).repair = s.repair := rfl
@[simp] theorem State.complete_recov (s : State) (i : StreamId) (f t : Bool) : (s.complete i f t).recov = s.recov := rfl
@[simp] theorem State.complete_log (s : State) (i : StreamId) (f t : Bool) : (s.complete i f t).log = s.log := rfl
@[simp] theorem State.complete_ao (s : State) (i : StreamId) (f t : Bool) : (s.complete i f t).ao = s.ao := rfl
@[simp] theorem State.complete_fuses (s : State) (i : StreamId) (f t : Bool) : (s.complete i f t).fuses = s.fuses := rfl
@[simp] theorem State.complete_sec (s : State) (i : StreamId) (f t : Bool) : (s.complete i f t).sec = s.sec := rfl
@[simp] theorem State.complete_scrub (s : State) (i : StreamId) (f t : Bool) : (s.complete i f t).scrub = s.scrub := rfl
@[simp] theorem State.complete_power (s : State) (i : StreamId) (f t : Bool) : (s.complete i f t).power = s.power := rfl
@[simp] theorem State.complete_perf (s : State) (i : StreamId) (f t : Bool) : (s.complete i f t).perf = s.perf := rfl
@[simp] theorem State.complete_dbg (s : State) (i : StreamId) (f t : Bool) : (s.complete i f t).dbg = s.dbg := rfl
@[simp] theorem State.complete_pins (s : State) (i : StreamId) (f t : Bool) : (s.complete i f t).pins = s.pins := rfl
@[simp] theorem State.complete_inputs (s : State) (i : StreamId) (f t : Bool) : (s.complete i f t).inputs = s.inputs := rfl
@[simp] theorem State.complete_held (s : State) (i : StreamId) (f t : Bool) : (s.complete i f t).held = s.held := rfl
@[simp] theorem State.complete_defects (s : State) (i : StreamId) (f t : Bool) : (s.complete i f t).defects = s.defects := rfl
@[simp] theorem State.complete_eccBad (s : State) (i : StreamId) (f t : Bool) : (s.complete i f t).eccBad = s.eccBad := rfl
@[simp] theorem State.complete_eccOne (s : State) (i : StreamId) (f t : Bool) : (s.complete i f t).eccOne = s.eccOne := rfl
@[simp] theorem State.complete_eccCover (s : State) (i : StreamId) (f t : Bool) : (s.complete i f t).eccCover = s.eccCover := rfl
@[simp] theorem State.complete_pending (s : State) (i : StreamId) (f t : Bool) : (s.complete i f t).pending = s.pending := rfl

/-! ### enqueue -/

@[simp] theorem State.enqueue_cfg (s : State) (c : Crossing) : (s.enqueue c).cfg = s.cfg := rfl
@[simp] theorem State.enqueue_slices (s : State) (c : Crossing) : (s.enqueue c).slices = s.slices := rfl
@[simp] theorem State.enqueue_clock (s : State) (c : Crossing) : (s.enqueue c).clock = s.clock := rfl
@[simp] theorem State.enqueue_unit (s : State) (c : Crossing) : (s.enqueue c).unit = s.unit := rfl
@[simp] theorem State.enqueue_streams (s : State) (c : Crossing) : (s.enqueue c).streams = s.streams := rfl
@[simp] theorem State.enqueue_collector (s : State) (c : Crossing) : (s.enqueue c).collector = s.collector := rfl
@[simp] theorem State.enqueue_collectAt (s : State) (c : Crossing) : (s.enqueue c).collectAt = s.collectAt := rfl
@[simp] theorem State.enqueue_inflight (s : State) (c : Crossing) : (s.enqueue c).inflight = s.inflight := rfl
@[simp] theorem State.enqueue_tiles (s : State) (c : Crossing) : (s.enqueue c).tiles = s.tiles := rfl
@[simp] theorem State.enqueue_tileUse (s : State) (c : Crossing) : (s.enqueue c).tileUse = s.tileUse := rfl
@[simp] theorem State.enqueue_tileMarks (s : State) (c : Crossing) : (s.enqueue c).tileMarks = s.tileMarks := rfl
@[simp] theorem State.enqueue_tilesWritten (s : State) (c : Crossing) : (s.enqueue c).tilesWritten = s.tilesWritten := rfl
@[simp] theorem State.enqueue_cycle (s : State) (c : Crossing) : (s.enqueue c).cycle = s.cycle := rfl
@[simp] theorem State.enqueue_pool (s : State) (c : Crossing) : (s.enqueue c).pool = s.pool := rfl
@[simp] theorem State.enqueue_settings (s : State) (c : Crossing) : (s.enqueue c).settings = s.settings := rfl
@[simp] theorem State.enqueue_basin (s : State) (c : Crossing) : (s.enqueue c).basin = s.basin := rfl
@[simp] theorem State.enqueue_ledger (s : State) (c : Crossing) : (s.enqueue c).ledger = s.ledger := rfl
@[simp] theorem State.enqueue_ports (s : State) (c : Crossing) : (s.enqueue c).ports = s.ports := rfl
@[simp] theorem State.enqueue_image (s : State) (c : Crossing) : (s.enqueue c).image = s.image := rfl
@[simp] theorem State.enqueue_regs (s : State) (c : Crossing) : (s.enqueue c).regs = s.regs := rfl
@[simp] theorem State.enqueue_cores (s : State) (c : Crossing) : (s.enqueue c).cores = s.cores := rfl
@[simp] theorem State.enqueue_repair (s : State) (c : Crossing) : (s.enqueue c).repair = s.repair := rfl
@[simp] theorem State.enqueue_recov (s : State) (c : Crossing) : (s.enqueue c).recov = s.recov := rfl
@[simp] theorem State.enqueue_log (s : State) (c : Crossing) : (s.enqueue c).log = s.log := rfl
@[simp] theorem State.enqueue_ao (s : State) (c : Crossing) : (s.enqueue c).ao = s.ao := rfl
@[simp] theorem State.enqueue_fuses (s : State) (c : Crossing) : (s.enqueue c).fuses = s.fuses := rfl
@[simp] theorem State.enqueue_sec (s : State) (c : Crossing) : (s.enqueue c).sec = s.sec := rfl
@[simp] theorem State.enqueue_scrub (s : State) (c : Crossing) : (s.enqueue c).scrub = s.scrub := rfl
@[simp] theorem State.enqueue_power (s : State) (c : Crossing) : (s.enqueue c).power = s.power := rfl
@[simp] theorem State.enqueue_perf (s : State) (c : Crossing) : (s.enqueue c).perf = s.perf := rfl
@[simp] theorem State.enqueue_dbg (s : State) (c : Crossing) : (s.enqueue c).dbg = s.dbg := rfl
@[simp] theorem State.enqueue_pins (s : State) (c : Crossing) : (s.enqueue c).pins = s.pins := rfl
@[simp] theorem State.enqueue_inputs (s : State) (c : Crossing) : (s.enqueue c).inputs = s.inputs := rfl
@[simp] theorem State.enqueue_held (s : State) (c : Crossing) : (s.enqueue c).held = s.held := rfl
@[simp] theorem State.enqueue_defects (s : State) (c : Crossing) : (s.enqueue c).defects = s.defects := rfl
@[simp] theorem State.enqueue_eccBad (s : State) (c : Crossing) : (s.enqueue c).eccBad = s.eccBad := rfl
@[simp] theorem State.enqueue_eccOne (s : State) (c : Crossing) : (s.enqueue c).eccOne = s.eccOne := rfl
@[simp] theorem State.enqueue_eccCover (s : State) (c : Crossing) : (s.enqueue c).eccCover = s.eccCover := rfl
@[simp] theorem State.enqueue_pending (s : State) (c : Crossing) : (s.enqueue c).pending = s.pending := rfl

/-! ### setLatches -/

@[simp] theorem State.setLatches_cfg (s : State) (p : StreamId) (l : List (BitVec 8)) : (s.setLatches p l).cfg = s.cfg := rfl
@[simp] theorem State.setLatches_slices (s : State) (p : StreamId) (l : List (BitVec 8)) : (s.setLatches p l).slices = s.slices := rfl
@[simp] theorem State.setLatches_clock (s : State) (p : StreamId) (l : List (BitVec 8)) : (s.setLatches p l).clock = s.clock := rfl
@[simp] theorem State.setLatches_unit (s : State) (p : StreamId) (l : List (BitVec 8)) : (s.setLatches p l).unit = s.unit := rfl
@[simp] theorem State.setLatches_collector (s : State) (p : StreamId) (l : List (BitVec 8)) : (s.setLatches p l).collector = s.collector := rfl
@[simp] theorem State.setLatches_collectAt (s : State) (p : StreamId) (l : List (BitVec 8)) : (s.setLatches p l).collectAt = s.collectAt := rfl
@[simp] theorem State.setLatches_inflight (s : State) (p : StreamId) (l : List (BitVec 8)) : (s.setLatches p l).inflight = s.inflight := rfl
@[simp] theorem State.setLatches_tiles (s : State) (p : StreamId) (l : List (BitVec 8)) : (s.setLatches p l).tiles = s.tiles := rfl
@[simp] theorem State.setLatches_tileUse (s : State) (p : StreamId) (l : List (BitVec 8)) : (s.setLatches p l).tileUse = s.tileUse := rfl
@[simp] theorem State.setLatches_tileMarks (s : State) (p : StreamId) (l : List (BitVec 8)) : (s.setLatches p l).tileMarks = s.tileMarks := rfl
@[simp] theorem State.setLatches_tilesWritten (s : State) (p : StreamId) (l : List (BitVec 8)) : (s.setLatches p l).tilesWritten = s.tilesWritten := rfl
@[simp] theorem State.setLatches_cycle (s : State) (p : StreamId) (l : List (BitVec 8)) : (s.setLatches p l).cycle = s.cycle := rfl
@[simp] theorem State.setLatches_pool (s : State) (p : StreamId) (l : List (BitVec 8)) : (s.setLatches p l).pool = s.pool := rfl
@[simp] theorem State.setLatches_settings (s : State) (p : StreamId) (l : List (BitVec 8)) : (s.setLatches p l).settings = s.settings := rfl
@[simp] theorem State.setLatches_basin (s : State) (p : StreamId) (l : List (BitVec 8)) : (s.setLatches p l).basin = s.basin := rfl
@[simp] theorem State.setLatches_ledger (s : State) (p : StreamId) (l : List (BitVec 8)) : (s.setLatches p l).ledger = s.ledger := rfl
@[simp] theorem State.setLatches_ports (s : State) (p : StreamId) (l : List (BitVec 8)) : (s.setLatches p l).ports = s.ports := rfl
@[simp] theorem State.setLatches_image (s : State) (p : StreamId) (l : List (BitVec 8)) : (s.setLatches p l).image = s.image := rfl
@[simp] theorem State.setLatches_crossing (s : State) (p : StreamId) (l : List (BitVec 8)) : (s.setLatches p l).crossing = s.crossing := rfl
@[simp] theorem State.setLatches_regs (s : State) (p : StreamId) (l : List (BitVec 8)) : (s.setLatches p l).regs = s.regs := rfl
@[simp] theorem State.setLatches_cores (s : State) (p : StreamId) (l : List (BitVec 8)) : (s.setLatches p l).cores = s.cores := rfl
@[simp] theorem State.setLatches_repair (s : State) (p : StreamId) (l : List (BitVec 8)) : (s.setLatches p l).repair = s.repair := rfl
@[simp] theorem State.setLatches_recov (s : State) (p : StreamId) (l : List (BitVec 8)) : (s.setLatches p l).recov = s.recov := rfl
@[simp] theorem State.setLatches_log (s : State) (p : StreamId) (l : List (BitVec 8)) : (s.setLatches p l).log = s.log := rfl
@[simp] theorem State.setLatches_ao (s : State) (p : StreamId) (l : List (BitVec 8)) : (s.setLatches p l).ao = s.ao := rfl
@[simp] theorem State.setLatches_fuses (s : State) (p : StreamId) (l : List (BitVec 8)) : (s.setLatches p l).fuses = s.fuses := rfl
@[simp] theorem State.setLatches_sec (s : State) (p : StreamId) (l : List (BitVec 8)) : (s.setLatches p l).sec = s.sec := rfl
@[simp] theorem State.setLatches_scrub (s : State) (p : StreamId) (l : List (BitVec 8)) : (s.setLatches p l).scrub = s.scrub := rfl
@[simp] theorem State.setLatches_power (s : State) (p : StreamId) (l : List (BitVec 8)) : (s.setLatches p l).power = s.power := rfl
@[simp] theorem State.setLatches_perf (s : State) (p : StreamId) (l : List (BitVec 8)) : (s.setLatches p l).perf = s.perf := rfl
@[simp] theorem State.setLatches_dbg (s : State) (p : StreamId) (l : List (BitVec 8)) : (s.setLatches p l).dbg = s.dbg := rfl
@[simp] theorem State.setLatches_pins (s : State) (p : StreamId) (l : List (BitVec 8)) : (s.setLatches p l).pins = s.pins := rfl
@[simp] theorem State.setLatches_inputs (s : State) (p : StreamId) (l : List (BitVec 8)) : (s.setLatches p l).inputs = s.inputs := rfl
@[simp] theorem State.setLatches_held (s : State) (p : StreamId) (l : List (BitVec 8)) : (s.setLatches p l).held = s.held := rfl
@[simp] theorem State.setLatches_defects (s : State) (p : StreamId) (l : List (BitVec 8)) : (s.setLatches p l).defects = s.defects := rfl
@[simp] theorem State.setLatches_eccBad (s : State) (p : StreamId) (l : List (BitVec 8)) : (s.setLatches p l).eccBad = s.eccBad := rfl
@[simp] theorem State.setLatches_eccOne (s : State) (p : StreamId) (l : List (BitVec 8)) : (s.setLatches p l).eccOne = s.eccOne := rfl
@[simp] theorem State.setLatches_eccCover (s : State) (p : StreamId) (l : List (BitVec 8)) : (s.setLatches p l).eccCover = s.eccCover := rfl
@[simp] theorem State.setLatches_pending (s : State) (p : StreamId) (l : List (BitVec 8)) : (s.setLatches p l).pending = s.pending := rfl

/-! ### copyFault -/

@[simp] theorem State.copyFault_cfg (s : State) (p : StreamId) : (s.copyFault p).cfg = s.cfg := rfl
@[simp] theorem State.copyFault_slices (s : State) (p : StreamId) : (s.copyFault p).slices = s.slices := rfl
@[simp] theorem State.copyFault_clock (s : State) (p : StreamId) : (s.copyFault p).clock = s.clock := rfl
@[simp] theorem State.copyFault_collector (s : State) (p : StreamId) : (s.copyFault p).collector = s.collector := rfl
@[simp] theorem State.copyFault_collectAt (s : State) (p : StreamId) : (s.copyFault p).collectAt = s.collectAt := rfl
@[simp] theorem State.copyFault_inflight (s : State) (p : StreamId) : (s.copyFault p).inflight = s.inflight := rfl
@[simp] theorem State.copyFault_tiles (s : State) (p : StreamId) : (s.copyFault p).tiles = s.tiles := rfl
@[simp] theorem State.copyFault_tileUse (s : State) (p : StreamId) : (s.copyFault p).tileUse = s.tileUse := rfl
@[simp] theorem State.copyFault_tileMarks (s : State) (p : StreamId) : (s.copyFault p).tileMarks = s.tileMarks := rfl
@[simp] theorem State.copyFault_tilesWritten (s : State) (p : StreamId) : (s.copyFault p).tilesWritten = s.tilesWritten := rfl
@[simp] theorem State.copyFault_cycle (s : State) (p : StreamId) : (s.copyFault p).cycle = s.cycle := rfl
@[simp] theorem State.copyFault_pool (s : State) (p : StreamId) : (s.copyFault p).pool = s.pool := rfl
@[simp] theorem State.copyFault_settings (s : State) (p : StreamId) : (s.copyFault p).settings = s.settings := rfl
@[simp] theorem State.copyFault_basin (s : State) (p : StreamId) : (s.copyFault p).basin = s.basin := rfl
@[simp] theorem State.copyFault_ledger (s : State) (p : StreamId) : (s.copyFault p).ledger = s.ledger := rfl
@[simp] theorem State.copyFault_ports (s : State) (p : StreamId) : (s.copyFault p).ports = s.ports := rfl
@[simp] theorem State.copyFault_image (s : State) (p : StreamId) : (s.copyFault p).image = s.image := rfl
@[simp] theorem State.copyFault_crossing (s : State) (p : StreamId) : (s.copyFault p).crossing = s.crossing := rfl
@[simp] theorem State.copyFault_regs (s : State) (p : StreamId) : (s.copyFault p).regs = s.regs := rfl
@[simp] theorem State.copyFault_cores (s : State) (p : StreamId) : (s.copyFault p).cores = s.cores := rfl
@[simp] theorem State.copyFault_repair (s : State) (p : StreamId) : (s.copyFault p).repair = s.repair := rfl
@[simp] theorem State.copyFault_recov (s : State) (p : StreamId) : (s.copyFault p).recov = s.recov := rfl
@[simp] theorem State.copyFault_log (s : State) (p : StreamId) : (s.copyFault p).log = s.log := rfl
@[simp] theorem State.copyFault_ao (s : State) (p : StreamId) : (s.copyFault p).ao = s.ao := rfl
@[simp] theorem State.copyFault_fuses (s : State) (p : StreamId) : (s.copyFault p).fuses = s.fuses := rfl
@[simp] theorem State.copyFault_sec (s : State) (p : StreamId) : (s.copyFault p).sec = s.sec := rfl
@[simp] theorem State.copyFault_scrub (s : State) (p : StreamId) : (s.copyFault p).scrub = s.scrub := rfl
@[simp] theorem State.copyFault_power (s : State) (p : StreamId) : (s.copyFault p).power = s.power := rfl
@[simp] theorem State.copyFault_perf (s : State) (p : StreamId) : (s.copyFault p).perf = s.perf := rfl
@[simp] theorem State.copyFault_dbg (s : State) (p : StreamId) : (s.copyFault p).dbg = s.dbg := rfl
@[simp] theorem State.copyFault_pins (s : State) (p : StreamId) : (s.copyFault p).pins = s.pins := rfl
@[simp] theorem State.copyFault_inputs (s : State) (p : StreamId) : (s.copyFault p).inputs = s.inputs := rfl
@[simp] theorem State.copyFault_held (s : State) (p : StreamId) : (s.copyFault p).held = s.held := rfl
@[simp] theorem State.copyFault_defects (s : State) (p : StreamId) : (s.copyFault p).defects = s.defects := rfl
@[simp] theorem State.copyFault_eccBad (s : State) (p : StreamId) : (s.copyFault p).eccBad = s.eccBad := rfl
@[simp] theorem State.copyFault_eccOne (s : State) (p : StreamId) : (s.copyFault p).eccOne = s.eccOne := rfl
@[simp] theorem State.copyFault_eccCover (s : State) (p : StreamId) : (s.copyFault p).eccCover = s.eccCover := rfl
@[simp] theorem State.copyFault_pending (s : State) (p : StreamId) : (s.copyFault p).pending = s.pending := rfl

/-! ### modJob -/

@[simp] theorem State.modJob_cfg (s : State) (p : StreamId) (o : Nat) (f : SluiceJob → SluiceJob) : (s.modJob p o f).cfg = s.cfg := rfl
@[simp] theorem State.modJob_slices (s : State) (p : StreamId) (o : Nat) (f : SluiceJob → SluiceJob) : (s.modJob p o f).slices = s.slices := rfl
@[simp] theorem State.modJob_clock (s : State) (p : StreamId) (o : Nat) (f : SluiceJob → SluiceJob) : (s.modJob p o f).clock = s.clock := rfl
@[simp] theorem State.modJob_unit (s : State) (p : StreamId) (o : Nat) (f : SluiceJob → SluiceJob) : (s.modJob p o f).unit = s.unit := rfl
@[simp] theorem State.modJob_collector (s : State) (p : StreamId) (o : Nat) (f : SluiceJob → SluiceJob) : (s.modJob p o f).collector = s.collector := rfl
@[simp] theorem State.modJob_collectAt (s : State) (p : StreamId) (o : Nat) (f : SluiceJob → SluiceJob) : (s.modJob p o f).collectAt = s.collectAt := rfl
@[simp] theorem State.modJob_inflight (s : State) (p : StreamId) (o : Nat) (f : SluiceJob → SluiceJob) : (s.modJob p o f).inflight = s.inflight := rfl
@[simp] theorem State.modJob_tiles (s : State) (p : StreamId) (o : Nat) (f : SluiceJob → SluiceJob) : (s.modJob p o f).tiles = s.tiles := rfl
@[simp] theorem State.modJob_tileUse (s : State) (p : StreamId) (o : Nat) (f : SluiceJob → SluiceJob) : (s.modJob p o f).tileUse = s.tileUse := rfl
@[simp] theorem State.modJob_tileMarks (s : State) (p : StreamId) (o : Nat) (f : SluiceJob → SluiceJob) : (s.modJob p o f).tileMarks = s.tileMarks := rfl
@[simp] theorem State.modJob_tilesWritten (s : State) (p : StreamId) (o : Nat) (f : SluiceJob → SluiceJob) : (s.modJob p o f).tilesWritten = s.tilesWritten := rfl
@[simp] theorem State.modJob_cycle (s : State) (p : StreamId) (o : Nat) (f : SluiceJob → SluiceJob) : (s.modJob p o f).cycle = s.cycle := rfl
@[simp] theorem State.modJob_pool (s : State) (p : StreamId) (o : Nat) (f : SluiceJob → SluiceJob) : (s.modJob p o f).pool = s.pool := rfl
@[simp] theorem State.modJob_settings (s : State) (p : StreamId) (o : Nat) (f : SluiceJob → SluiceJob) : (s.modJob p o f).settings = s.settings := rfl
@[simp] theorem State.modJob_basin (s : State) (p : StreamId) (o : Nat) (f : SluiceJob → SluiceJob) : (s.modJob p o f).basin = s.basin := rfl
@[simp] theorem State.modJob_ledger (s : State) (p : StreamId) (o : Nat) (f : SluiceJob → SluiceJob) : (s.modJob p o f).ledger = s.ledger := rfl
@[simp] theorem State.modJob_ports (s : State) (p : StreamId) (o : Nat) (f : SluiceJob → SluiceJob) : (s.modJob p o f).ports = s.ports := rfl
@[simp] theorem State.modJob_image (s : State) (p : StreamId) (o : Nat) (f : SluiceJob → SluiceJob) : (s.modJob p o f).image = s.image := rfl
@[simp] theorem State.modJob_crossing (s : State) (p : StreamId) (o : Nat) (f : SluiceJob → SluiceJob) : (s.modJob p o f).crossing = s.crossing := rfl
@[simp] theorem State.modJob_regs (s : State) (p : StreamId) (o : Nat) (f : SluiceJob → SluiceJob) : (s.modJob p o f).regs = s.regs := rfl
@[simp] theorem State.modJob_cores (s : State) (p : StreamId) (o : Nat) (f : SluiceJob → SluiceJob) : (s.modJob p o f).cores = s.cores := rfl
@[simp] theorem State.modJob_repair (s : State) (p : StreamId) (o : Nat) (f : SluiceJob → SluiceJob) : (s.modJob p o f).repair = s.repair := rfl
@[simp] theorem State.modJob_recov (s : State) (p : StreamId) (o : Nat) (f : SluiceJob → SluiceJob) : (s.modJob p o f).recov = s.recov := rfl
@[simp] theorem State.modJob_log (s : State) (p : StreamId) (o : Nat) (f : SluiceJob → SluiceJob) : (s.modJob p o f).log = s.log := rfl
@[simp] theorem State.modJob_ao (s : State) (p : StreamId) (o : Nat) (f : SluiceJob → SluiceJob) : (s.modJob p o f).ao = s.ao := rfl
@[simp] theorem State.modJob_fuses (s : State) (p : StreamId) (o : Nat) (f : SluiceJob → SluiceJob) : (s.modJob p o f).fuses = s.fuses := rfl
@[simp] theorem State.modJob_sec (s : State) (p : StreamId) (o : Nat) (f : SluiceJob → SluiceJob) : (s.modJob p o f).sec = s.sec := rfl
@[simp] theorem State.modJob_scrub (s : State) (p : StreamId) (o : Nat) (f : SluiceJob → SluiceJob) : (s.modJob p o f).scrub = s.scrub := rfl
@[simp] theorem State.modJob_power (s : State) (p : StreamId) (o : Nat) (f : SluiceJob → SluiceJob) : (s.modJob p o f).power = s.power := rfl
@[simp] theorem State.modJob_perf (s : State) (p : StreamId) (o : Nat) (f : SluiceJob → SluiceJob) : (s.modJob p o f).perf = s.perf := rfl
@[simp] theorem State.modJob_dbg (s : State) (p : StreamId) (o : Nat) (f : SluiceJob → SluiceJob) : (s.modJob p o f).dbg = s.dbg := rfl
@[simp] theorem State.modJob_pins (s : State) (p : StreamId) (o : Nat) (f : SluiceJob → SluiceJob) : (s.modJob p o f).pins = s.pins := rfl
@[simp] theorem State.modJob_inputs (s : State) (p : StreamId) (o : Nat) (f : SluiceJob → SluiceJob) : (s.modJob p o f).inputs = s.inputs := rfl
@[simp] theorem State.modJob_held (s : State) (p : StreamId) (o : Nat) (f : SluiceJob → SluiceJob) : (s.modJob p o f).held = s.held := rfl
@[simp] theorem State.modJob_defects (s : State) (p : StreamId) (o : Nat) (f : SluiceJob → SluiceJob) : (s.modJob p o f).defects = s.defects := rfl
@[simp] theorem State.modJob_eccBad (s : State) (p : StreamId) (o : Nat) (f : SluiceJob → SluiceJob) : (s.modJob p o f).eccBad = s.eccBad := rfl
@[simp] theorem State.modJob_eccOne (s : State) (p : StreamId) (o : Nat) (f : SluiceJob → SluiceJob) : (s.modJob p o f).eccOne = s.eccOne := rfl
@[simp] theorem State.modJob_eccCover (s : State) (p : StreamId) (o : Nat) (f : SluiceJob → SluiceJob) : (s.modJob p o f).eccCover = s.eccCover := rfl
@[simp] theorem State.modJob_pending (s : State) (p : StreamId) (o : Nat) (f : SluiceJob → SluiceJob) : (s.modJob p o f).pending = s.pending := rfl

/-! ### modPort -/

@[simp] theorem State.modPort_cfg (s : State) (i : Nat) (f : Port → Port) : (s.modPort i f).cfg = s.cfg := rfl
@[simp] theorem State.modPort_slices (s : State) (i : Nat) (f : Port → Port) : (s.modPort i f).slices = s.slices := rfl
@[simp] theorem State.modPort_clock (s : State) (i : Nat) (f : Port → Port) : (s.modPort i f).clock = s.clock := rfl
@[simp] theorem State.modPort_unit (s : State) (i : Nat) (f : Port → Port) : (s.modPort i f).unit = s.unit := rfl
@[simp] theorem State.modPort_streams (s : State) (i : Nat) (f : Port → Port) : (s.modPort i f).streams = s.streams := rfl
@[simp] theorem State.modPort_collector (s : State) (i : Nat) (f : Port → Port) : (s.modPort i f).collector = s.collector := rfl
@[simp] theorem State.modPort_collectAt (s : State) (i : Nat) (f : Port → Port) : (s.modPort i f).collectAt = s.collectAt := rfl
@[simp] theorem State.modPort_inflight (s : State) (i : Nat) (f : Port → Port) : (s.modPort i f).inflight = s.inflight := rfl
@[simp] theorem State.modPort_tiles (s : State) (i : Nat) (f : Port → Port) : (s.modPort i f).tiles = s.tiles := rfl
@[simp] theorem State.modPort_tileUse (s : State) (i : Nat) (f : Port → Port) : (s.modPort i f).tileUse = s.tileUse := rfl
@[simp] theorem State.modPort_tileMarks (s : State) (i : Nat) (f : Port → Port) : (s.modPort i f).tileMarks = s.tileMarks := rfl
@[simp] theorem State.modPort_tilesWritten (s : State) (i : Nat) (f : Port → Port) : (s.modPort i f).tilesWritten = s.tilesWritten := rfl
@[simp] theorem State.modPort_cycle (s : State) (i : Nat) (f : Port → Port) : (s.modPort i f).cycle = s.cycle := rfl
@[simp] theorem State.modPort_pool (s : State) (i : Nat) (f : Port → Port) : (s.modPort i f).pool = s.pool := rfl
@[simp] theorem State.modPort_settings (s : State) (i : Nat) (f : Port → Port) : (s.modPort i f).settings = s.settings := rfl
@[simp] theorem State.modPort_basin (s : State) (i : Nat) (f : Port → Port) : (s.modPort i f).basin = s.basin := rfl
@[simp] theorem State.modPort_ledger (s : State) (i : Nat) (f : Port → Port) : (s.modPort i f).ledger = s.ledger := rfl
@[simp] theorem State.modPort_image (s : State) (i : Nat) (f : Port → Port) : (s.modPort i f).image = s.image := rfl
@[simp] theorem State.modPort_crossing (s : State) (i : Nat) (f : Port → Port) : (s.modPort i f).crossing = s.crossing := rfl
@[simp] theorem State.modPort_regs (s : State) (i : Nat) (f : Port → Port) : (s.modPort i f).regs = s.regs := rfl
@[simp] theorem State.modPort_cores (s : State) (i : Nat) (f : Port → Port) : (s.modPort i f).cores = s.cores := rfl
@[simp] theorem State.modPort_repair (s : State) (i : Nat) (f : Port → Port) : (s.modPort i f).repair = s.repair := rfl
@[simp] theorem State.modPort_recov (s : State) (i : Nat) (f : Port → Port) : (s.modPort i f).recov = s.recov := rfl
@[simp] theorem State.modPort_log (s : State) (i : Nat) (f : Port → Port) : (s.modPort i f).log = s.log := rfl
@[simp] theorem State.modPort_ao (s : State) (i : Nat) (f : Port → Port) : (s.modPort i f).ao = s.ao := rfl
@[simp] theorem State.modPort_fuses (s : State) (i : Nat) (f : Port → Port) : (s.modPort i f).fuses = s.fuses := rfl
@[simp] theorem State.modPort_sec (s : State) (i : Nat) (f : Port → Port) : (s.modPort i f).sec = s.sec := rfl
@[simp] theorem State.modPort_scrub (s : State) (i : Nat) (f : Port → Port) : (s.modPort i f).scrub = s.scrub := rfl
@[simp] theorem State.modPort_power (s : State) (i : Nat) (f : Port → Port) : (s.modPort i f).power = s.power := rfl
@[simp] theorem State.modPort_perf (s : State) (i : Nat) (f : Port → Port) : (s.modPort i f).perf = s.perf := rfl
@[simp] theorem State.modPort_dbg (s : State) (i : Nat) (f : Port → Port) : (s.modPort i f).dbg = s.dbg := rfl
@[simp] theorem State.modPort_pins (s : State) (i : Nat) (f : Port → Port) : (s.modPort i f).pins = s.pins := rfl
@[simp] theorem State.modPort_inputs (s : State) (i : Nat) (f : Port → Port) : (s.modPort i f).inputs = s.inputs := rfl
@[simp] theorem State.modPort_held (s : State) (i : Nat) (f : Port → Port) : (s.modPort i f).held = s.held := rfl
@[simp] theorem State.modPort_defects (s : State) (i : Nat) (f : Port → Port) : (s.modPort i f).defects = s.defects := rfl
@[simp] theorem State.modPort_eccBad (s : State) (i : Nat) (f : Port → Port) : (s.modPort i f).eccBad = s.eccBad := rfl
@[simp] theorem State.modPort_eccOne (s : State) (i : Nat) (f : Port → Port) : (s.modPort i f).eccOne = s.eccOne := rfl
@[simp] theorem State.modPort_eccCover (s : State) (i : Nat) (f : Port → Port) : (s.modPort i f).eccCover = s.eccCover := rfl
@[simp] theorem State.modPort_pending (s : State) (i : Nat) (f : Port → Port) : (s.modPort i f).pending = s.pending := rfl

/-! ### setArmed -/

@[simp] theorem State.setArmed_cfg (s : State) (n : Nat) (a l : Bool) : (s.setArmed n a l).cfg = s.cfg := rfl
@[simp] theorem State.setArmed_slices (s : State) (n : Nat) (a l : Bool) : (s.setArmed n a l).slices = s.slices := rfl
@[simp] theorem State.setArmed_clock (s : State) (n : Nat) (a l : Bool) : (s.setArmed n a l).clock = s.clock := rfl
@[simp] theorem State.setArmed_unit (s : State) (n : Nat) (a l : Bool) : (s.setArmed n a l).unit = s.unit := rfl
@[simp] theorem State.setArmed_streams (s : State) (n : Nat) (a l : Bool) : (s.setArmed n a l).streams = s.streams := rfl
@[simp] theorem State.setArmed_collector (s : State) (n : Nat) (a l : Bool) : (s.setArmed n a l).collector = s.collector := rfl
@[simp] theorem State.setArmed_collectAt (s : State) (n : Nat) (a l : Bool) : (s.setArmed n a l).collectAt = s.collectAt := rfl
@[simp] theorem State.setArmed_inflight (s : State) (n : Nat) (a l : Bool) : (s.setArmed n a l).inflight = s.inflight := rfl
@[simp] theorem State.setArmed_tiles (s : State) (n : Nat) (a l : Bool) : (s.setArmed n a l).tiles = s.tiles := rfl
@[simp] theorem State.setArmed_tileUse (s : State) (n : Nat) (a l : Bool) : (s.setArmed n a l).tileUse = s.tileUse := rfl
@[simp] theorem State.setArmed_tileMarks (s : State) (n : Nat) (a l : Bool) : (s.setArmed n a l).tileMarks = s.tileMarks := rfl
@[simp] theorem State.setArmed_tilesWritten (s : State) (n : Nat) (a l : Bool) : (s.setArmed n a l).tilesWritten = s.tilesWritten := rfl
@[simp] theorem State.setArmed_cycle (s : State) (n : Nat) (a l : Bool) : (s.setArmed n a l).cycle = s.cycle := rfl
@[simp] theorem State.setArmed_pool (s : State) (n : Nat) (a l : Bool) : (s.setArmed n a l).pool = s.pool := rfl
@[simp] theorem State.setArmed_settings (s : State) (n : Nat) (a l : Bool) : (s.setArmed n a l).settings = s.settings := rfl
@[simp] theorem State.setArmed_basin (s : State) (n : Nat) (a l : Bool) : (s.setArmed n a l).basin = s.basin := rfl
@[simp] theorem State.setArmed_ports (s : State) (n : Nat) (a l : Bool) : (s.setArmed n a l).ports = s.ports := rfl
@[simp] theorem State.setArmed_image (s : State) (n : Nat) (a l : Bool) : (s.setArmed n a l).image = s.image := rfl
@[simp] theorem State.setArmed_crossing (s : State) (n : Nat) (a l : Bool) : (s.setArmed n a l).crossing = s.crossing := rfl
@[simp] theorem State.setArmed_regs (s : State) (n : Nat) (a l : Bool) : (s.setArmed n a l).regs = s.regs := rfl
@[simp] theorem State.setArmed_cores (s : State) (n : Nat) (a l : Bool) : (s.setArmed n a l).cores = s.cores := rfl
@[simp] theorem State.setArmed_repair (s : State) (n : Nat) (a l : Bool) : (s.setArmed n a l).repair = s.repair := rfl
@[simp] theorem State.setArmed_recov (s : State) (n : Nat) (a l : Bool) : (s.setArmed n a l).recov = s.recov := rfl
@[simp] theorem State.setArmed_log (s : State) (n : Nat) (a l : Bool) : (s.setArmed n a l).log = s.log := rfl
@[simp] theorem State.setArmed_ao (s : State) (n : Nat) (a l : Bool) : (s.setArmed n a l).ao = s.ao := rfl
@[simp] theorem State.setArmed_fuses (s : State) (n : Nat) (a l : Bool) : (s.setArmed n a l).fuses = s.fuses := rfl
@[simp] theorem State.setArmed_sec (s : State) (n : Nat) (a l : Bool) : (s.setArmed n a l).sec = s.sec := rfl
@[simp] theorem State.setArmed_scrub (s : State) (n : Nat) (a l : Bool) : (s.setArmed n a l).scrub = s.scrub := rfl
@[simp] theorem State.setArmed_power (s : State) (n : Nat) (a l : Bool) : (s.setArmed n a l).power = s.power := rfl
@[simp] theorem State.setArmed_perf (s : State) (n : Nat) (a l : Bool) : (s.setArmed n a l).perf = s.perf := rfl
@[simp] theorem State.setArmed_dbg (s : State) (n : Nat) (a l : Bool) : (s.setArmed n a l).dbg = s.dbg := rfl
@[simp] theorem State.setArmed_pins (s : State) (n : Nat) (a l : Bool) : (s.setArmed n a l).pins = s.pins := rfl
@[simp] theorem State.setArmed_inputs (s : State) (n : Nat) (a l : Bool) : (s.setArmed n a l).inputs = s.inputs := rfl
@[simp] theorem State.setArmed_held (s : State) (n : Nat) (a l : Bool) : (s.setArmed n a l).held = s.held := rfl
@[simp] theorem State.setArmed_defects (s : State) (n : Nat) (a l : Bool) : (s.setArmed n a l).defects = s.defects := rfl
@[simp] theorem State.setArmed_eccBad (s : State) (n : Nat) (a l : Bool) : (s.setArmed n a l).eccBad = s.eccBad := rfl
@[simp] theorem State.setArmed_eccOne (s : State) (n : Nat) (a l : Bool) : (s.setArmed n a l).eccOne = s.eccOne := rfl
@[simp] theorem State.setArmed_eccCover (s : State) (n : Nat) (a l : Bool) : (s.setArmed n a l).eccCover = s.eccCover := rfl
@[simp] theorem State.setArmed_pending (s : State) (n : Nat) (a l : Bool) : (s.setArmed n a l).pending = s.pending := rfl

end Sys2Proof.Machine
end

