-- ==== Sys2Proof/Laws/Ops.lean ====
section
/-! SUPPORT. What the shared operations with a case of their own leave of the state: events, records, faults, transitions. -/

namespace Sys2Proof.Machine

/-! ### event -/

@[simp] theorem State.event_cfg (s : State) (code i n : Nat) : (s.event code i n).cfg = s.cfg := by unfold State.event; split <;> rfl
@[simp] theorem State.event_slices (s : State) (code i n : Nat) : (s.event code i n).slices = s.slices := by unfold State.event; split <;> rfl
@[simp] theorem State.event_clock (s : State) (code i n : Nat) : (s.event code i n).clock = s.clock := by unfold State.event; split <;> rfl
@[simp] theorem State.event_unit (s : State) (code i n : Nat) : (s.event code i n).unit = s.unit := by unfold State.event; split <;> rfl
@[simp] theorem State.event_streams (s : State) (code i n : Nat) : (s.event code i n).streams = s.streams := by unfold State.event; split <;> rfl
@[simp] theorem State.event_collector (s : State) (code i n : Nat) : (s.event code i n).collector = s.collector := by unfold State.event; split <;> rfl
@[simp] theorem State.event_collectAt (s : State) (code i n : Nat) : (s.event code i n).collectAt = s.collectAt := by unfold State.event; split <;> rfl
@[simp] theorem State.event_inflight (s : State) (code i n : Nat) : (s.event code i n).inflight = s.inflight := by unfold State.event; split <;> rfl
@[simp] theorem State.event_cycle (s : State) (code i n : Nat) : (s.event code i n).cycle = s.cycle := by unfold State.event; split <;> rfl
@[simp] theorem State.event_tiles (s : State) (code i n : Nat) : (s.event code i n).tiles = s.tiles := by unfold State.event; split <;> rfl
@[simp] theorem State.event_tileUse (s : State) (code i n : Nat) : (s.event code i n).tileUse = s.tileUse := by unfold State.event; split <;> rfl
@[simp] theorem State.event_tileMarks (s : State) (code i n : Nat) : (s.event code i n).tileMarks = s.tileMarks := by unfold State.event; split <;> rfl
@[simp] theorem State.event_tilesWritten (s : State) (code i n : Nat) : (s.event code i n).tilesWritten = s.tilesWritten := by unfold State.event; split <;> rfl
@[simp] theorem State.event_pool (s : State) (code i n : Nat) : (s.event code i n).pool = s.pool := by unfold State.event; split <;> rfl
@[simp] theorem State.event_settings (s : State) (code i n : Nat) : (s.event code i n).settings = s.settings := by unfold State.event; split <;> rfl
@[simp] theorem State.event_basin (s : State) (code i n : Nat) : (s.event code i n).basin = s.basin := by unfold State.event; split <;> rfl
@[simp] theorem State.event_ledger (s : State) (code i n : Nat) : (s.event code i n).ledger = s.ledger := by unfold State.event; split <;> rfl
@[simp] theorem State.event_ports (s : State) (code i n : Nat) : (s.event code i n).ports = s.ports := by unfold State.event; split <;> rfl
@[simp] theorem State.event_image (s : State) (code i n : Nat) : (s.event code i n).image = s.image := by unfold State.event; split <;> rfl
@[simp] theorem State.event_crossing (s : State) (code i n : Nat) : (s.event code i n).crossing = s.crossing := by unfold State.event; split <;> rfl
@[simp] theorem State.event_regs (s : State) (code i n : Nat) : (s.event code i n).regs = s.regs := by unfold State.event; split <;> rfl
@[simp] theorem State.event_cores (s : State) (code i n : Nat) : (s.event code i n).cores = s.cores := by unfold State.event; split <;> rfl
@[simp] theorem State.event_repair (s : State) (code i n : Nat) : (s.event code i n).repair = s.repair := by unfold State.event; split <;> rfl
@[simp] theorem State.event_recov (s : State) (code i n : Nat) : (s.event code i n).recov = s.recov := by unfold State.event; split <;> rfl
@[simp] theorem State.event_log (s : State) (code i n : Nat) : (s.event code i n).log = s.log := by unfold State.event; split <;> rfl
@[simp] theorem State.event_ao (s : State) (code i n : Nat) : (s.event code i n).ao = s.ao := by unfold State.event; split <;> rfl
@[simp] theorem State.event_fuses (s : State) (code i n : Nat) : (s.event code i n).fuses = s.fuses := by unfold State.event; split <;> rfl
@[simp] theorem State.event_sec (s : State) (code i n : Nat) : (s.event code i n).sec = s.sec := by unfold State.event; split <;> rfl
@[simp] theorem State.event_scrub (s : State) (code i n : Nat) : (s.event code i n).scrub = s.scrub := by unfold State.event; split <;> rfl
@[simp] theorem State.event_power (s : State) (code i n : Nat) : (s.event code i n).power = s.power := by unfold State.event; split <;> rfl
@[simp] theorem State.event_dbg (s : State) (code i n : Nat) : (s.event code i n).dbg = s.dbg := by unfold State.event; split <;> rfl
@[simp] theorem State.event_pins (s : State) (code i n : Nat) : (s.event code i n).pins = s.pins := by unfold State.event; split <;> rfl
@[simp] theorem State.event_inputs (s : State) (code i n : Nat) : (s.event code i n).inputs = s.inputs := by unfold State.event; split <;> rfl
@[simp] theorem State.event_held (s : State) (code i n : Nat) : (s.event code i n).held = s.held := by unfold State.event; split <;> rfl
@[simp] theorem State.event_defects (s : State) (code i n : Nat) : (s.event code i n).defects = s.defects := by unfold State.event; split <;> rfl
@[simp] theorem State.event_eccBad (s : State) (code i n : Nat) : (s.event code i n).eccBad = s.eccBad := by unfold State.event; split <;> rfl
@[simp] theorem State.event_eccOne (s : State) (code i n : Nat) : (s.event code i n).eccOne = s.eccOne := by unfold State.event; split <;> rfl
@[simp] theorem State.event_eccCover (s : State) (code i n : Nat) : (s.event code i n).eccCover = s.eccCover := by unfold State.event; split <;> rfl
@[simp] theorem State.event_pending (s : State) (code i n : Nat) : (s.event code i n).pending = s.pending := by unfold State.event; split <;> rfl

/-! ### hwRecord -/

@[simp] theorem State.hwRecord_cfg (s : State) (r : LogRec) : (s.hwRecord r).cfg = s.cfg := by unfold State.hwRecord; split <;> rfl
@[simp] theorem State.hwRecord_slices (s : State) (r : LogRec) : (s.hwRecord r).slices = s.slices := by unfold State.hwRecord; split <;> rfl
@[simp] theorem State.hwRecord_clock (s : State) (r : LogRec) : (s.hwRecord r).clock = s.clock := by unfold State.hwRecord; split <;> rfl
@[simp] theorem State.hwRecord_unit (s : State) (r : LogRec) : (s.hwRecord r).unit = s.unit := by unfold State.hwRecord; split <;> rfl
@[simp] theorem State.hwRecord_streams (s : State) (r : LogRec) : (s.hwRecord r).streams = s.streams := by unfold State.hwRecord; split <;> rfl
@[simp] theorem State.hwRecord_collector (s : State) (r : LogRec) : (s.hwRecord r).collector = s.collector := by unfold State.hwRecord; split <;> rfl
@[simp] theorem State.hwRecord_collectAt (s : State) (r : LogRec) : (s.hwRecord r).collectAt = s.collectAt := by unfold State.hwRecord; split <;> rfl
@[simp] theorem State.hwRecord_inflight (s : State) (r : LogRec) : (s.hwRecord r).inflight = s.inflight := by unfold State.hwRecord; split <;> rfl
@[simp] theorem State.hwRecord_cycle (s : State) (r : LogRec) : (s.hwRecord r).cycle = s.cycle := by unfold State.hwRecord; split <;> rfl
@[simp] theorem State.hwRecord_tiles (s : State) (r : LogRec) : (s.hwRecord r).tiles = s.tiles := by unfold State.hwRecord; split <;> rfl
@[simp] theorem State.hwRecord_tileUse (s : State) (r : LogRec) : (s.hwRecord r).tileUse = s.tileUse := by unfold State.hwRecord; split <;> rfl
@[simp] theorem State.hwRecord_tileMarks (s : State) (r : LogRec) : (s.hwRecord r).tileMarks = s.tileMarks := by unfold State.hwRecord; split <;> rfl
@[simp] theorem State.hwRecord_tilesWritten (s : State) (r : LogRec) : (s.hwRecord r).tilesWritten = s.tilesWritten := by unfold State.hwRecord; split <;> rfl
@[simp] theorem State.hwRecord_pool (s : State) (r : LogRec) : (s.hwRecord r).pool = s.pool := by unfold State.hwRecord; split <;> rfl
@[simp] theorem State.hwRecord_settings (s : State) (r : LogRec) : (s.hwRecord r).settings = s.settings := by unfold State.hwRecord; split <;> rfl
@[simp] theorem State.hwRecord_basin (s : State) (r : LogRec) : (s.hwRecord r).basin = s.basin := by unfold State.hwRecord; split <;> rfl
@[simp] theorem State.hwRecord_ledger (s : State) (r : LogRec) : (s.hwRecord r).ledger = s.ledger := by unfold State.hwRecord; split <;> rfl
@[simp] theorem State.hwRecord_ports (s : State) (r : LogRec) : (s.hwRecord r).ports = s.ports := by unfold State.hwRecord; split <;> rfl
@[simp] theorem State.hwRecord_image (s : State) (r : LogRec) : (s.hwRecord r).image = s.image := by unfold State.hwRecord; split <;> rfl
@[simp] theorem State.hwRecord_crossing (s : State) (r : LogRec) : (s.hwRecord r).crossing = s.crossing := by unfold State.hwRecord; split <;> rfl
@[simp] theorem State.hwRecord_cores (s : State) (r : LogRec) : (s.hwRecord r).cores = s.cores := by unfold State.hwRecord; split <;> rfl
@[simp] theorem State.hwRecord_repair (s : State) (r : LogRec) : (s.hwRecord r).repair = s.repair := by unfold State.hwRecord; split <;> rfl
@[simp] theorem State.hwRecord_recov (s : State) (r : LogRec) : (s.hwRecord r).recov = s.recov := by unfold State.hwRecord; split <;> rfl
@[simp] theorem State.hwRecord_fuses (s : State) (r : LogRec) : (s.hwRecord r).fuses = s.fuses := by unfold State.hwRecord; split <;> rfl
@[simp] theorem State.hwRecord_sec (s : State) (r : LogRec) : (s.hwRecord r).sec = s.sec := by unfold State.hwRecord; split <;> rfl
@[simp] theorem State.hwRecord_scrub (s : State) (r : LogRec) : (s.hwRecord r).scrub = s.scrub := by unfold State.hwRecord; split <;> rfl
@[simp] theorem State.hwRecord_power (s : State) (r : LogRec) : (s.hwRecord r).power = s.power := by unfold State.hwRecord; split <;> rfl
@[simp] theorem State.hwRecord_perf (s : State) (r : LogRec) : (s.hwRecord r).perf = s.perf := by unfold State.hwRecord; split <;> rfl
@[simp] theorem State.hwRecord_dbg (s : State) (r : LogRec) : (s.hwRecord r).dbg = s.dbg := by unfold State.hwRecord; split <;> rfl
@[simp] theorem State.hwRecord_pins (s : State) (r : LogRec) : (s.hwRecord r).pins = s.pins := by unfold State.hwRecord; split <;> rfl
@[simp] theorem State.hwRecord_inputs (s : State) (r : LogRec) : (s.hwRecord r).inputs = s.inputs := by unfold State.hwRecord; split <;> rfl
@[simp] theorem State.hwRecord_held (s : State) (r : LogRec) : (s.hwRecord r).held = s.held := by unfold State.hwRecord; split <;> rfl
@[simp] theorem State.hwRecord_defects (s : State) (r : LogRec) : (s.hwRecord r).defects = s.defects := by unfold State.hwRecord; split <;> rfl
@[simp] theorem State.hwRecord_eccBad (s : State) (r : LogRec) : (s.hwRecord r).eccBad = s.eccBad := by unfold State.hwRecord; split <;> rfl
@[simp] theorem State.hwRecord_eccOne (s : State) (r : LogRec) : (s.hwRecord r).eccOne = s.eccOne := by unfold State.hwRecord; split <;> rfl
@[simp] theorem State.hwRecord_eccCover (s : State) (r : LogRec) : (s.hwRecord r).eccCover = s.eccCover := by unfold State.hwRecord; split <;> rfl
@[simp] theorem State.hwRecord_pending (s : State) (r : LogRec) : (s.hwRecord r).pending = s.pending := by unfold State.hwRecord; split <;> rfl

/-! ### hwLog -/

@[simp] theorem State.hwLog_cfg (s : State) (k a v x c : Nat) : (s.hwLog k a v x c).cfg = s.cfg := by simp [State.hwLog]
@[simp] theorem State.hwLog_slices (s : State) (k a v x c : Nat) : (s.hwLog k a v x c).slices = s.slices := by simp [State.hwLog]
@[simp] theorem State.hwLog_clock (s : State) (k a v x c : Nat) : (s.hwLog k a v x c).clock = s.clock := by simp [State.hwLog]
@[simp] theorem State.hwLog_unit (s : State) (k a v x c : Nat) : (s.hwLog k a v x c).unit = s.unit := by simp [State.hwLog]
@[simp] theorem State.hwLog_streams (s : State) (k a v x c : Nat) : (s.hwLog k a v x c).streams = s.streams := by simp [State.hwLog]
@[simp] theorem State.hwLog_collector (s : State) (k a v x c : Nat) : (s.hwLog k a v x c).collector = s.collector := by simp [State.hwLog]
@[simp] theorem State.hwLog_collectAt (s : State) (k a v x c : Nat) : (s.hwLog k a v x c).collectAt = s.collectAt := by simp [State.hwLog]
@[simp] theorem State.hwLog_inflight (s : State) (k a v x c : Nat) : (s.hwLog k a v x c).inflight = s.inflight := by simp [State.hwLog]
@[simp] theorem State.hwLog_cycle (s : State) (k a v x c : Nat) : (s.hwLog k a v x c).cycle = s.cycle := by simp [State.hwLog]
@[simp] theorem State.hwLog_tiles (s : State) (k a v x c : Nat) : (s.hwLog k a v x c).tiles = s.tiles := by simp [State.hwLog]
@[simp] theorem State.hwLog_tileUse (s : State) (k a v x c : Nat) : (s.hwLog k a v x c).tileUse = s.tileUse := by simp [State.hwLog]
@[simp] theorem State.hwLog_tileMarks (s : State) (k a v x c : Nat) : (s.hwLog k a v x c).tileMarks = s.tileMarks := by simp [State.hwLog]
@[simp] theorem State.hwLog_tilesWritten (s : State) (k a v x c : Nat) : (s.hwLog k a v x c).tilesWritten = s.tilesWritten := by simp [State.hwLog]
@[simp] theorem State.hwLog_pool (s : State) (k a v x c : Nat) : (s.hwLog k a v x c).pool = s.pool := by simp [State.hwLog]
@[simp] theorem State.hwLog_settings (s : State) (k a v x c : Nat) : (s.hwLog k a v x c).settings = s.settings := by simp [State.hwLog]
@[simp] theorem State.hwLog_basin (s : State) (k a v x c : Nat) : (s.hwLog k a v x c).basin = s.basin := by simp [State.hwLog]
@[simp] theorem State.hwLog_ledger (s : State) (k a v x c : Nat) : (s.hwLog k a v x c).ledger = s.ledger := by simp [State.hwLog]
@[simp] theorem State.hwLog_ports (s : State) (k a v x c : Nat) : (s.hwLog k a v x c).ports = s.ports := by simp [State.hwLog]
@[simp] theorem State.hwLog_image (s : State) (k a v x c : Nat) : (s.hwLog k a v x c).image = s.image := by simp [State.hwLog]
@[simp] theorem State.hwLog_crossing (s : State) (k a v x c : Nat) : (s.hwLog k a v x c).crossing = s.crossing := by simp [State.hwLog]
@[simp] theorem State.hwLog_cores (s : State) (k a v x c : Nat) : (s.hwLog k a v x c).cores = s.cores := by simp [State.hwLog]
@[simp] theorem State.hwLog_repair (s : State) (k a v x c : Nat) : (s.hwLog k a v x c).repair = s.repair := by simp [State.hwLog]
@[simp] theorem State.hwLog_recov (s : State) (k a v x c : Nat) : (s.hwLog k a v x c).recov = s.recov := by simp [State.hwLog]
@[simp] theorem State.hwLog_fuses (s : State) (k a v x c : Nat) : (s.hwLog k a v x c).fuses = s.fuses := by simp [State.hwLog]
@[simp] theorem State.hwLog_sec (s : State) (k a v x c : Nat) : (s.hwLog k a v x c).sec = s.sec := by simp [State.hwLog]
@[simp] theorem State.hwLog_scrub (s : State) (k a v x c : Nat) : (s.hwLog k a v x c).scrub = s.scrub := by simp [State.hwLog]
@[simp] theorem State.hwLog_power (s : State) (k a v x c : Nat) : (s.hwLog k a v x c).power = s.power := by simp [State.hwLog]
@[simp] theorem State.hwLog_perf (s : State) (k a v x c : Nat) : (s.hwLog k a v x c).perf = s.perf := by simp [State.hwLog]
@[simp] theorem State.hwLog_dbg (s : State) (k a v x c : Nat) : (s.hwLog k a v x c).dbg = s.dbg := by simp [State.hwLog]
@[simp] theorem State.hwLog_pins (s : State) (k a v x c : Nat) : (s.hwLog k a v x c).pins = s.pins := by simp [State.hwLog]
@[simp] theorem State.hwLog_inputs (s : State) (k a v x c : Nat) : (s.hwLog k a v x c).inputs = s.inputs := by simp [State.hwLog]
@[simp] theorem State.hwLog_held (s : State) (k a v x c : Nat) : (s.hwLog k a v x c).held = s.held := by simp [State.hwLog]
@[simp] theorem State.hwLog_defects (s : State) (k a v x c : Nat) : (s.hwLog k a v x c).defects = s.defects := by simp [State.hwLog]
@[simp] theorem State.hwLog_eccBad (s : State) (k a v x c : Nat) : (s.hwLog k a v x c).eccBad = s.eccBad := by simp [State.hwLog]
@[simp] theorem State.hwLog_eccOne (s : State) (k a v x c : Nat) : (s.hwLog k a v x c).eccOne = s.eccOne := by simp [State.hwLog]
@[simp] theorem State.hwLog_eccCover (s : State) (k a v x c : Nat) : (s.hwLog k a v x c).eccCover = s.eccCover := by simp [State.hwLog]
@[simp] theorem State.hwLog_pending (s : State) (k a v x c : Nat) : (s.hwLog k a v x c).pending = s.pending := by simp [State.hwLog]

/-! ### fwRecord -/

@[simp] theorem State.fwRecord_cfg (s : State) (r : LogRec) : (s.fwRecord r).cfg = s.cfg := by unfold State.fwRecord; split <;> rfl
@[simp] theorem State.fwRecord_slices (s : State) (r : LogRec) : (s.fwRecord r).slices = s.slices := by unfold State.fwRecord; split <;> rfl
@[simp] theorem State.fwRecord_clock (s : State) (r : LogRec) : (s.fwRecord r).clock = s.clock := by unfold State.fwRecord; split <;> rfl
@[simp] theorem State.fwRecord_unit (s : State) (r : LogRec) : (s.fwRecord r).unit = s.unit := by unfold State.fwRecord; split <;> rfl
@[simp] theorem State.fwRecord_streams (s : State) (r : LogRec) : (s.fwRecord r).streams = s.streams := by unfold State.fwRecord; split <;> rfl
@[simp] theorem State.fwRecord_collector (s : State) (r : LogRec) : (s.fwRecord r).collector = s.collector := by unfold State.fwRecord; split <;> rfl
@[simp] theorem State.fwRecord_collectAt (s : State) (r : LogRec) : (s.fwRecord r).collectAt = s.collectAt := by unfold State.fwRecord; split <;> rfl
@[simp] theorem State.fwRecord_inflight (s : State) (r : LogRec) : (s.fwRecord r).inflight = s.inflight := by unfold State.fwRecord; split <;> rfl
@[simp] theorem State.fwRecord_cycle (s : State) (r : LogRec) : (s.fwRecord r).cycle = s.cycle := by unfold State.fwRecord; split <;> rfl
@[simp] theorem State.fwRecord_tiles (s : State) (r : LogRec) : (s.fwRecord r).tiles = s.tiles := by unfold State.fwRecord; split <;> rfl
@[simp] theorem State.fwRecord_tileUse (s : State) (r : LogRec) : (s.fwRecord r).tileUse = s.tileUse := by unfold State.fwRecord; split <;> rfl
@[simp] theorem State.fwRecord_tileMarks (s : State) (r : LogRec) : (s.fwRecord r).tileMarks = s.tileMarks := by unfold State.fwRecord; split <;> rfl
@[simp] theorem State.fwRecord_tilesWritten (s : State) (r : LogRec) : (s.fwRecord r).tilesWritten = s.tilesWritten := by unfold State.fwRecord; split <;> rfl
@[simp] theorem State.fwRecord_pool (s : State) (r : LogRec) : (s.fwRecord r).pool = s.pool := by unfold State.fwRecord; split <;> rfl
@[simp] theorem State.fwRecord_settings (s : State) (r : LogRec) : (s.fwRecord r).settings = s.settings := by unfold State.fwRecord; split <;> rfl
@[simp] theorem State.fwRecord_basin (s : State) (r : LogRec) : (s.fwRecord r).basin = s.basin := by unfold State.fwRecord; split <;> rfl
@[simp] theorem State.fwRecord_ledger (s : State) (r : LogRec) : (s.fwRecord r).ledger = s.ledger := by unfold State.fwRecord; split <;> rfl
@[simp] theorem State.fwRecord_ports (s : State) (r : LogRec) : (s.fwRecord r).ports = s.ports := by unfold State.fwRecord; split <;> rfl
@[simp] theorem State.fwRecord_image (s : State) (r : LogRec) : (s.fwRecord r).image = s.image := by unfold State.fwRecord; split <;> rfl
@[simp] theorem State.fwRecord_crossing (s : State) (r : LogRec) : (s.fwRecord r).crossing = s.crossing := by unfold State.fwRecord; split <;> rfl
@[simp] theorem State.fwRecord_cores (s : State) (r : LogRec) : (s.fwRecord r).cores = s.cores := by unfold State.fwRecord; split <;> rfl
@[simp] theorem State.fwRecord_repair (s : State) (r : LogRec) : (s.fwRecord r).repair = s.repair := by unfold State.fwRecord; split <;> rfl
@[simp] theorem State.fwRecord_recov (s : State) (r : LogRec) : (s.fwRecord r).recov = s.recov := by unfold State.fwRecord; split <;> rfl
@[simp] theorem State.fwRecord_fuses (s : State) (r : LogRec) : (s.fwRecord r).fuses = s.fuses := by unfold State.fwRecord; split <;> rfl
@[simp] theorem State.fwRecord_sec (s : State) (r : LogRec) : (s.fwRecord r).sec = s.sec := by unfold State.fwRecord; split <;> rfl
@[simp] theorem State.fwRecord_scrub (s : State) (r : LogRec) : (s.fwRecord r).scrub = s.scrub := by unfold State.fwRecord; split <;> rfl
@[simp] theorem State.fwRecord_power (s : State) (r : LogRec) : (s.fwRecord r).power = s.power := by unfold State.fwRecord; split <;> rfl
@[simp] theorem State.fwRecord_perf (s : State) (r : LogRec) : (s.fwRecord r).perf = s.perf := by unfold State.fwRecord; split <;> rfl
@[simp] theorem State.fwRecord_dbg (s : State) (r : LogRec) : (s.fwRecord r).dbg = s.dbg := by unfold State.fwRecord; split <;> rfl
@[simp] theorem State.fwRecord_pins (s : State) (r : LogRec) : (s.fwRecord r).pins = s.pins := by unfold State.fwRecord; split <;> rfl
@[simp] theorem State.fwRecord_inputs (s : State) (r : LogRec) : (s.fwRecord r).inputs = s.inputs := by unfold State.fwRecord; split <;> rfl
@[simp] theorem State.fwRecord_defects (s : State) (r : LogRec) : (s.fwRecord r).defects = s.defects := by unfold State.fwRecord; split <;> rfl
@[simp] theorem State.fwRecord_eccBad (s : State) (r : LogRec) : (s.fwRecord r).eccBad = s.eccBad := by unfold State.fwRecord; split <;> rfl
@[simp] theorem State.fwRecord_eccOne (s : State) (r : LogRec) : (s.fwRecord r).eccOne = s.eccOne := by unfold State.fwRecord; split <;> rfl
@[simp] theorem State.fwRecord_eccCover (s : State) (r : LogRec) : (s.fwRecord r).eccCover = s.eccCover := by unfold State.fwRecord; split <;> rfl
@[simp] theorem State.fwRecord_pending (s : State) (r : LogRec) : (s.fwRecord r).pending = s.pending := by unfold State.fwRecord; split <;> rfl

/-! ### fwLog -/

@[simp] theorem State.fwLog_cfg (s : State) (cr : BitVec 2) (k a v x c : Nat) : (s.fwLog cr k a v x c).cfg = s.cfg := by simp [State.fwLog]
@[simp] theorem State.fwLog_slices (s : State) (cr : BitVec 2) (k a v x c : Nat) : (s.fwLog cr k a v x c).slices = s.slices := by simp [State.fwLog]
@[simp] theorem State.fwLog_clock (s : State) (cr : BitVec 2) (k a v x c : Nat) : (s.fwLog cr k a v x c).clock = s.clock := by simp [State.fwLog]
@[simp] theorem State.fwLog_unit (s : State) (cr : BitVec 2) (k a v x c : Nat) : (s.fwLog cr k a v x c).unit = s.unit := by simp [State.fwLog]
@[simp] theorem State.fwLog_streams (s : State) (cr : BitVec 2) (k a v x c : Nat) : (s.fwLog cr k a v x c).streams = s.streams := by simp [State.fwLog]
@[simp] theorem State.fwLog_collector (s : State) (cr : BitVec 2) (k a v x c : Nat) : (s.fwLog cr k a v x c).collector = s.collector := by simp [State.fwLog]
@[simp] theorem State.fwLog_collectAt (s : State) (cr : BitVec 2) (k a v x c : Nat) : (s.fwLog cr k a v x c).collectAt = s.collectAt := by simp [State.fwLog]
@[simp] theorem State.fwLog_inflight (s : State) (cr : BitVec 2) (k a v x c : Nat) : (s.fwLog cr k a v x c).inflight = s.inflight := by simp [State.fwLog]
@[simp] theorem State.fwLog_cycle (s : State) (cr : BitVec 2) (k a v x c : Nat) : (s.fwLog cr k a v x c).cycle = s.cycle := by simp [State.fwLog]
@[simp] theorem State.fwLog_tiles (s : State) (cr : BitVec 2) (k a v x c : Nat) : (s.fwLog cr k a v x c).tiles = s.tiles := by simp [State.fwLog]
@[simp] theorem State.fwLog_tileUse (s : State) (cr : BitVec 2) (k a v x c : Nat) : (s.fwLog cr k a v x c).tileUse = s.tileUse := by simp [State.fwLog]
@[simp] theorem State.fwLog_tileMarks (s : State) (cr : BitVec 2) (k a v x c : Nat) : (s.fwLog cr k a v x c).tileMarks = s.tileMarks := by simp [State.fwLog]
@[simp] theorem State.fwLog_tilesWritten (s : State) (cr : BitVec 2) (k a v x c : Nat) : (s.fwLog cr k a v x c).tilesWritten = s.tilesWritten := by simp [State.fwLog]
@[simp] theorem State.fwLog_pool (s : State) (cr : BitVec 2) (k a v x c : Nat) : (s.fwLog cr k a v x c).pool = s.pool := by simp [State.fwLog]
@[simp] theorem State.fwLog_settings (s : State) (cr : BitVec 2) (k a v x c : Nat) : (s.fwLog cr k a v x c).settings = s.settings := by simp [State.fwLog]
@[simp] theorem State.fwLog_basin (s : State) (cr : BitVec 2) (k a v x c : Nat) : (s.fwLog cr k a v x c).basin = s.basin := by simp [State.fwLog]
@[simp] theorem State.fwLog_ledger (s : State) (cr : BitVec 2) (k a v x c : Nat) : (s.fwLog cr k a v x c).ledger = s.ledger := by simp [State.fwLog]
@[simp] theorem State.fwLog_ports (s : State) (cr : BitVec 2) (k a v x c : Nat) : (s.fwLog cr k a v x c).ports = s.ports := by simp [State.fwLog]
@[simp] theorem State.fwLog_image (s : State) (cr : BitVec 2) (k a v x c : Nat) : (s.fwLog cr k a v x c).image = s.image := by simp [State.fwLog]
@[simp] theorem State.fwLog_crossing (s : State) (cr : BitVec 2) (k a v x c : Nat) : (s.fwLog cr k a v x c).crossing = s.crossing := by simp [State.fwLog]
@[simp] theorem State.fwLog_cores (s : State) (cr : BitVec 2) (k a v x c : Nat) : (s.fwLog cr k a v x c).cores = s.cores := by simp [State.fwLog]
@[simp] theorem State.fwLog_repair (s : State) (cr : BitVec 2) (k a v x c : Nat) : (s.fwLog cr k a v x c).repair = s.repair := by simp [State.fwLog]
@[simp] theorem State.fwLog_recov (s : State) (cr : BitVec 2) (k a v x c : Nat) : (s.fwLog cr k a v x c).recov = s.recov := by simp [State.fwLog]
@[simp] theorem State.fwLog_fuses (s : State) (cr : BitVec 2) (k a v x c : Nat) : (s.fwLog cr k a v x c).fuses = s.fuses := by simp [State.fwLog]
@[simp] theorem State.fwLog_sec (s : State) (cr : BitVec 2) (k a v x c : Nat) : (s.fwLog cr k a v x c).sec = s.sec := by simp [State.fwLog]
@[simp] theorem State.fwLog_scrub (s : State) (cr : BitVec 2) (k a v x c : Nat) : (s.fwLog cr k a v x c).scrub = s.scrub := by simp [State.fwLog]
@[simp] theorem State.fwLog_power (s : State) (cr : BitVec 2) (k a v x c : Nat) : (s.fwLog cr k a v x c).power = s.power := by simp [State.fwLog]
@[simp] theorem State.fwLog_perf (s : State) (cr : BitVec 2) (k a v x c : Nat) : (s.fwLog cr k a v x c).perf = s.perf := by simp [State.fwLog]
@[simp] theorem State.fwLog_dbg (s : State) (cr : BitVec 2) (k a v x c : Nat) : (s.fwLog cr k a v x c).dbg = s.dbg := by simp [State.fwLog]
@[simp] theorem State.fwLog_pins (s : State) (cr : BitVec 2) (k a v x c : Nat) : (s.fwLog cr k a v x c).pins = s.pins := by simp [State.fwLog]
@[simp] theorem State.fwLog_inputs (s : State) (cr : BitVec 2) (k a v x c : Nat) : (s.fwLog cr k a v x c).inputs = s.inputs := by simp [State.fwLog]
@[simp] theorem State.fwLog_defects (s : State) (cr : BitVec 2) (k a v x c : Nat) : (s.fwLog cr k a v x c).defects = s.defects := by simp [State.fwLog]
@[simp] theorem State.fwLog_eccBad (s : State) (cr : BitVec 2) (k a v x c : Nat) : (s.fwLog cr k a v x c).eccBad = s.eccBad := by simp [State.fwLog]
@[simp] theorem State.fwLog_eccOne (s : State) (cr : BitVec 2) (k a v x c : Nat) : (s.fwLog cr k a v x c).eccOne = s.eccOne := by simp [State.fwLog]
@[simp] theorem State.fwLog_eccCover (s : State) (cr : BitVec 2) (k a v x c : Nat) : (s.fwLog cr k a v x c).eccCover = s.eccCover := by simp [State.fwLog]
@[simp] theorem State.fwLog_pending (s : State) (cr : BitVec 2) (k a v x c : Nat) : (s.fwLog cr k a v x c).pending = s.pending := by simp [State.fwLog]

/-! ### raise -/

@[simp] theorem State.raise_cfg (s : State) (i : StreamId) (c : BitVec 8) (fa : Int) (k : BitVec 3) (pc : BitVec 13) : (s.raise i c fa k pc).cfg = s.cfg := by unfold State.raise; split <;> rfl
@[simp] theorem State.raise_slices (s : State) (i : StreamId) (c : BitVec 8) (fa : Int) (k : BitVec 3) (pc : BitVec 13) : (s.raise i c fa k pc).slices = s.slices := by unfold State.raise; split <;> rfl
@[simp] theorem State.raise_clock (s : State) (i : StreamId) (c : BitVec 8) (fa : Int) (k : BitVec 3) (pc : BitVec 13) : (s.raise i c fa k pc).clock = s.clock := by unfold State.raise; split <;> rfl
@[simp] theorem State.raise_unit (s : State) (i : StreamId) (c : BitVec 8) (fa : Int) (k : BitVec 3) (pc : BitVec 13) : (s.raise i c fa k pc).unit = s.unit := by unfold State.raise; split <;> rfl
@[simp] theorem State.raise_collectAt (s : State) (i : StreamId) (c : BitVec 8) (fa : Int) (k : BitVec 3) (pc : BitVec 13) : (s.raise i c fa k pc).collectAt = s.collectAt := by unfold State.raise; split <;> rfl
@[simp] theorem State.raise_inflight (s : State) (i : StreamId) (c : BitVec 8) (fa : Int) (k : BitVec 3) (pc : BitVec 13) : (s.raise i c fa k pc).inflight = s.inflight := by unfold State.raise; split <;> rfl
@[simp] theorem State.raise_cycle (s : State) (i : StreamId) (c : BitVec 8) (fa : Int) (k : BitVec 3) (pc : BitVec 13) : (s.raise i c fa k pc).cycle = s.cycle := by unfold State.raise; split <;> rfl
@[simp] theorem State.raise_tiles (s : State) (i : StreamId) (c : BitVec 8) (fa : Int) (k : BitVec 3) (pc : BitVec 13) : (s.raise i c fa k pc).tiles = s.tiles := by unfold State.raise; split <;> rfl
@[simp] theorem State.raise_tileUse (s : State) (i : StreamId) (c : BitVec 8) (fa : Int) (k : BitVec 3) (pc : BitVec 13) : (s.raise i c fa k pc).tileUse = s.tileUse := by unfold State.raise; split <;> rfl
@[simp] theorem State.raise_tileMarks (s : State) (i : StreamId) (c : BitVec 8) (fa : Int) (k : BitVec 3) (pc : BitVec 13) : (s.raise i c fa k pc).tileMarks = s.tileMarks := by unfold State.raise; split <;> rfl
@[simp] theorem State.raise_tilesWritten (s : State) (i : StreamId) (c : BitVec 8) (fa : Int) (k : BitVec 3) (pc : BitVec 13) : (s.raise i c fa k pc).tilesWritten = s.tilesWritten := by unfold State.raise; split <;> rfl
@[simp] theorem State.raise_pool (s : State) (i : StreamId) (c : BitVec 8) (fa : Int) (k : BitVec 3) (pc : BitVec 13) : (s.raise i c fa k pc).pool = s.pool := by unfold State.raise; split <;> rfl
@[simp] theorem State.raise_settings (s : State) (i : StreamId) (c : BitVec 8) (fa : Int) (k : BitVec 3) (pc : BitVec 13) : (s.raise i c fa k pc).settings = s.settings := by unfold State.raise; split <;> rfl
@[simp] theorem State.raise_basin (s : State) (i : StreamId) (c : BitVec 8) (fa : Int) (k : BitVec 3) (pc : BitVec 13) : (s.raise i c fa k pc).basin = s.basin := by unfold State.raise; split <;> rfl
@[simp] theorem State.raise_ledger (s : State) (i : StreamId) (c : BitVec 8) (fa : Int) (k : BitVec 3) (pc : BitVec 13) : (s.raise i c fa k pc).ledger = s.ledger := by unfold State.raise; split <;> rfl
@[simp] theorem State.raise_ports (s : State) (i : StreamId) (c : BitVec 8) (fa : Int) (k : BitVec 3) (pc : BitVec 13) : (s.raise i c fa k pc).ports = s.ports := by unfold State.raise; split <;> rfl
@[simp] theorem State.raise_image (s : State) (i : StreamId) (c : BitVec 8) (fa : Int) (k : BitVec 3) (pc : BitVec 13) : (s.raise i c fa k pc).image = s.image := by unfold State.raise; split <;> rfl
@[simp] theorem State.raise_crossing (s : State) (i : StreamId) (c : BitVec 8) (fa : Int) (k : BitVec 3) (pc : BitVec 13) : (s.raise i c fa k pc).crossing = s.crossing := by unfold State.raise; split <;> rfl
@[simp] theorem State.raise_regs (s : State) (i : StreamId) (c : BitVec 8) (fa : Int) (k : BitVec 3) (pc : BitVec 13) : (s.raise i c fa k pc).regs = s.regs := by unfold State.raise; split <;> rfl
@[simp] theorem State.raise_cores (s : State) (i : StreamId) (c : BitVec 8) (fa : Int) (k : BitVec 3) (pc : BitVec 13) : (s.raise i c fa k pc).cores = s.cores := by unfold State.raise; split <;> rfl
@[simp] theorem State.raise_repair (s : State) (i : StreamId) (c : BitVec 8) (fa : Int) (k : BitVec 3) (pc : BitVec 13) : (s.raise i c fa k pc).repair = s.repair := by unfold State.raise; split <;> rfl
@[simp] theorem State.raise_recov (s : State) (i : StreamId) (c : BitVec 8) (fa : Int) (k : BitVec 3) (pc : BitVec 13) : (s.raise i c fa k pc).recov = s.recov := by unfold State.raise; split <;> rfl
@[simp] theorem State.raise_log (s : State) (i : StreamId) (c : BitVec 8) (fa : Int) (k : BitVec 3) (pc : BitVec 13) : (s.raise i c fa k pc).log = s.log := by unfold State.raise; split <;> rfl
@[simp] theorem State.raise_ao (s : State) (i : StreamId) (c : BitVec 8) (fa : Int) (k : BitVec 3) (pc : BitVec 13) : (s.raise i c fa k pc).ao = s.ao := by unfold State.raise; split <;> rfl
@[simp] theorem State.raise_fuses (s : State) (i : StreamId) (c : BitVec 8) (fa : Int) (k : BitVec 3) (pc : BitVec 13) : (s.raise i c fa k pc).fuses = s.fuses := by unfold State.raise; split <;> rfl
@[simp] theorem State.raise_sec (s : State) (i : StreamId) (c : BitVec 8) (fa : Int) (k : BitVec 3) (pc : BitVec 13) : (s.raise i c fa k pc).sec = s.sec := by unfold State.raise; split <;> rfl
@[simp] theorem State.raise_scrub (s : State) (i : StreamId) (c : BitVec 8) (fa : Int) (k : BitVec 3) (pc : BitVec 13) : (s.raise i c fa k pc).scrub = s.scrub := by unfold State.raise; split <;> rfl
@[simp] theorem State.raise_power (s : State) (i : StreamId) (c : BitVec 8) (fa : Int) (k : BitVec 3) (pc : BitVec 13) : (s.raise i c fa k pc).power = s.power := by unfold State.raise; split <;> rfl
@[simp] theorem State.raise_perf (s : State) (i : StreamId) (c : BitVec 8) (fa : Int) (k : BitVec 3) (pc : BitVec 13) : (s.raise i c fa k pc).perf = s.perf := by unfold State.raise; split <;> rfl
@[simp] theorem State.raise_dbg (s : State) (i : StreamId) (c : BitVec 8) (fa : Int) (k : BitVec 3) (pc : BitVec 13) : (s.raise i c fa k pc).dbg = s.dbg := by unfold State.raise; split <;> rfl
@[simp] theorem State.raise_pins (s : State) (i : StreamId) (c : BitVec 8) (fa : Int) (k : BitVec 3) (pc : BitVec 13) : (s.raise i c fa k pc).pins = s.pins := by unfold State.raise; split <;> rfl
@[simp] theorem State.raise_inputs (s : State) (i : StreamId) (c : BitVec 8) (fa : Int) (k : BitVec 3) (pc : BitVec 13) : (s.raise i c fa k pc).inputs = s.inputs := by unfold State.raise; split <;> rfl
@[simp] theorem State.raise_held (s : State) (i : StreamId) (c : BitVec 8) (fa : Int) (k : BitVec 3) (pc : BitVec 13) : (s.raise i c fa k pc).held = s.held := by unfold State.raise; split <;> rfl
@[simp] theorem State.raise_defects (s : State) (i : StreamId) (c : BitVec 8) (fa : Int) (k : BitVec 3) (pc : BitVec 13) : (s.raise i c fa k pc).defects = s.defects := by unfold State.raise; split <;> rfl
@[simp] theorem State.raise_eccBad (s : State) (i : StreamId) (c : BitVec 8) (fa : Int) (k : BitVec 3) (pc : BitVec 13) : (s.raise i c fa k pc).eccBad = s.eccBad := by unfold State.raise; split <;> rfl
@[simp] theorem State.raise_eccOne (s : State) (i : StreamId) (c : BitVec 8) (fa : Int) (k : BitVec 3) (pc : BitVec 13) : (s.raise i c fa k pc).eccOne = s.eccOne := by unfold State.raise; split <;> rfl
@[simp] theorem State.raise_eccCover (s : State) (i : StreamId) (c : BitVec 8) (fa : Int) (k : BitVec 3) (pc : BitVec 13) : (s.raise i c fa k pc).eccCover = s.eccCover := by unfold State.raise; split <;> rfl
@[simp] theorem State.raise_pending (s : State) (i : StreamId) (c : BitVec 8) (fa : Int) (k : BitVec 3) (pc : BitVec 13) : (s.raise i c fa k pc).pending = s.pending := by unfold State.raise; split <;> rfl

/-! ### lateFault -/

@[simp] theorem State.lateFault_cfg (s : State) (i : StreamId) (a st : Nat) : (s.lateFault i a st).cfg = s.cfg := by simp [State.lateFault]
@[simp] theorem State.lateFault_slices (s : State) (i : StreamId) (a st : Nat) : (s.lateFault i a st).slices = s.slices := by simp [State.lateFault]
@[simp] theorem State.lateFault_clock (s : State) (i : StreamId) (a st : Nat) : (s.lateFault i a st).clock = s.clock := by simp [State.lateFault]
@[simp] theorem State.lateFault_unit (s : State) (i : StreamId) (a st : Nat) : (s.lateFault i a st).unit = s.unit := by simp [State.lateFault]
@[simp] theorem State.lateFault_streams (s : State) (i : StreamId) (a st : Nat) : (s.lateFault i a st).streams = s.streams := by simp [State.lateFault]
@[simp] theorem State.lateFault_collector (s : State) (i : StreamId) (a st : Nat) : (s.lateFault i a st).collector = s.collector := by simp [State.lateFault]
@[simp] theorem State.lateFault_collectAt (s : State) (i : StreamId) (a st : Nat) : (s.lateFault i a st).collectAt = s.collectAt := by simp [State.lateFault]
@[simp] theorem State.lateFault_inflight (s : State) (i : StreamId) (a st : Nat) : (s.lateFault i a st).inflight = s.inflight := by simp [State.lateFault]
@[simp] theorem State.lateFault_cycle (s : State) (i : StreamId) (a st : Nat) : (s.lateFault i a st).cycle = s.cycle := by simp [State.lateFault]
@[simp] theorem State.lateFault_tiles (s : State) (i : StreamId) (a st : Nat) : (s.lateFault i a st).tiles = s.tiles := by simp [State.lateFault]
@[simp] theorem State.lateFault_tileUse (s : State) (i : StreamId) (a st : Nat) : (s.lateFault i a st).tileUse = s.tileUse := by simp [State.lateFault]
@[simp] theorem State.lateFault_tileMarks (s : State) (i : StreamId) (a st : Nat) : (s.lateFault i a st).tileMarks = s.tileMarks := by simp [State.lateFault]
@[simp] theorem State.lateFault_tilesWritten (s : State) (i : StreamId) (a st : Nat) : (s.lateFault i a st).tilesWritten = s.tilesWritten := by simp [State.lateFault]
@[simp] theorem State.lateFault_pool (s : State) (i : StreamId) (a st : Nat) : (s.lateFault i a st).pool = s.pool := by simp [State.lateFault]
@[simp] theorem State.lateFault_settings (s : State) (i : StreamId) (a st : Nat) : (s.lateFault i a st).settings = s.settings := by simp [State.lateFault]
@[simp] theorem State.lateFault_basin (s : State) (i : StreamId) (a st : Nat) : (s.lateFault i a st).basin = s.basin := by simp [State.lateFault]
@[simp] theorem State.lateFault_ledger (s : State) (i : StreamId) (a st : Nat) : (s.lateFault i a st).ledger = s.ledger := by simp [State.lateFault]
@[simp] theorem State.lateFault_ports (s : State) (i : StreamId) (a st : Nat) : (s.lateFault i a st).ports = s.ports := by simp [State.lateFault]
@[simp] theorem State.lateFault_image (s : State) (i : StreamId) (a st : Nat) : (s.lateFault i a st).image = s.image := by simp [State.lateFault]
@[simp] theorem State.lateFault_cores (s : State) (i : StreamId) (a st : Nat) : (s.lateFault i a st).cores = s.cores := by simp [State.lateFault]
@[simp] theorem State.lateFault_repair (s : State) (i : StreamId) (a st : Nat) : (s.lateFault i a st).repair = s.repair := by simp [State.lateFault]
@[simp] theorem State.lateFault_recov (s : State) (i : StreamId) (a st : Nat) : (s.lateFault i a st).recov = s.recov := by simp [State.lateFault]
@[simp] theorem State.lateFault_log (s : State) (i : StreamId) (a st : Nat) : (s.lateFault i a st).log = s.log := by simp [State.lateFault]
@[simp] theorem State.lateFault_ao (s : State) (i : StreamId) (a st : Nat) : (s.lateFault i a st).ao = s.ao := by simp [State.lateFault]
@[simp] theorem State.lateFault_fuses (s : State) (i : StreamId) (a st : Nat) : (s.lateFault i a st).fuses = s.fuses := by simp [State.lateFault]
@[simp] theorem State.lateFault_sec (s : State) (i : StreamId) (a st : Nat) : (s.lateFault i a st).sec = s.sec := by simp [State.lateFault]
@[simp] theorem State.lateFault_scrub (s : State) (i : StreamId) (a st : Nat) : (s.lateFault i a st).scrub = s.scrub := by simp [State.lateFault]
@[simp] theorem State.lateFault_power (s : State) (i : StreamId) (a st : Nat) : (s.lateFault i a st).power = s.power := by simp [State.lateFault]
@[simp] theorem State.lateFault_perf (s : State) (i : StreamId) (a st : Nat) : (s.lateFault i a st).perf = s.perf := by simp [State.lateFault]
@[simp] theorem State.lateFault_dbg (s : State) (i : StreamId) (a st : Nat) : (s.lateFault i a st).dbg = s.dbg := by simp [State.lateFault]
@[simp] theorem State.lateFault_pins (s : State) (i : StreamId) (a st : Nat) : (s.lateFault i a st).pins = s.pins := by simp [State.lateFault]
@[simp] theorem State.lateFault_inputs (s : State) (i : StreamId) (a st : Nat) : (s.lateFault i a st).inputs = s.inputs := by simp [State.lateFault]
@[simp] theorem State.lateFault_held (s : State) (i : StreamId) (a st : Nat) : (s.lateFault i a st).held = s.held := by simp [State.lateFault]
@[simp] theorem State.lateFault_defects (s : State) (i : StreamId) (a st : Nat) : (s.lateFault i a st).defects = s.defects := by simp [State.lateFault]
@[simp] theorem State.lateFault_eccBad (s : State) (i : StreamId) (a st : Nat) : (s.lateFault i a st).eccBad = s.eccBad := by simp [State.lateFault]
@[simp] theorem State.lateFault_eccOne (s : State) (i : StreamId) (a st : Nat) : (s.lateFault i a st).eccOne = s.eccOne := by simp [State.lateFault]
@[simp] theorem State.lateFault_eccCover (s : State) (i : StreamId) (a st : Nat) : (s.lateFault i a st).eccCover = s.eccCover := by simp [State.lateFault]
@[simp] theorem State.lateFault_pending (s : State) (i : StreamId) (a st : Nat) : (s.lateFault i a st).pending = s.pending := by simp [State.lateFault]

/-! ### readCorrect -/

@[simp] theorem State.readCorrect_cfg (s : State) (st : Store) (ws : List Nat) : (s.readCorrect st ws).cfg = s.cfg := by unfold State.readCorrect; dsimp only; split <;> rfl
@[simp] theorem State.readCorrect_slices (s : State) (st : Store) (ws : List Nat) : (s.readCorrect st ws).slices = s.slices := by unfold State.readCorrect; dsimp only; split <;> rfl
@[simp] theorem State.readCorrect_clock (s : State) (st : Store) (ws : List Nat) : (s.readCorrect st ws).clock = s.clock := by unfold State.readCorrect; dsimp only; split <;> rfl
@[simp] theorem State.readCorrect_unit (s : State) (st : Store) (ws : List Nat) : (s.readCorrect st ws).unit = s.unit := by unfold State.readCorrect; dsimp only; split <;> rfl
@[simp] theorem State.readCorrect_streams (s : State) (st : Store) (ws : List Nat) : (s.readCorrect st ws).streams = s.streams := by unfold State.readCorrect; dsimp only; split <;> rfl
@[simp] theorem State.readCorrect_collector (s : State) (st : Store) (ws : List Nat) : (s.readCorrect st ws).collector = s.collector := by unfold State.readCorrect; dsimp only; split <;> rfl
@[simp] theorem State.readCorrect_collectAt (s : State) (st : Store) (ws : List Nat) : (s.readCorrect st ws).collectAt = s.collectAt := by unfold State.readCorrect; dsimp only; split <;> rfl
@[simp] theorem State.readCorrect_inflight (s : State) (st : Store) (ws : List Nat) : (s.readCorrect st ws).inflight = s.inflight := by unfold State.readCorrect; dsimp only; split <;> rfl
@[simp] theorem State.readCorrect_cycle (s : State) (st : Store) (ws : List Nat) : (s.readCorrect st ws).cycle = s.cycle := by unfold State.readCorrect; dsimp only; split <;> rfl
@[simp] theorem State.readCorrect_tiles (s : State) (st : Store) (ws : List Nat) : (s.readCorrect st ws).tiles = s.tiles := by unfold State.readCorrect; dsimp only; split <;> rfl
@[simp] theorem State.readCorrect_tileUse (s : State) (st : Store) (ws : List Nat) : (s.readCorrect st ws).tileUse = s.tileUse := by unfold State.readCorrect; dsimp only; split <;> rfl
@[simp] theorem State.readCorrect_tileMarks (s : State) (st : Store) (ws : List Nat) : (s.readCorrect st ws).tileMarks = s.tileMarks := by unfold State.readCorrect; dsimp only; split <;> rfl
@[simp] theorem State.readCorrect_tilesWritten (s : State) (st : Store) (ws : List Nat) : (s.readCorrect st ws).tilesWritten = s.tilesWritten := by unfold State.readCorrect; dsimp only; split <;> rfl
@[simp] theorem State.readCorrect_pool (s : State) (st : Store) (ws : List Nat) : (s.readCorrect st ws).pool = s.pool := by unfold State.readCorrect; dsimp only; split <;> rfl
@[simp] theorem State.readCorrect_settings (s : State) (st : Store) (ws : List Nat) : (s.readCorrect st ws).settings = s.settings := by unfold State.readCorrect; dsimp only; split <;> rfl
@[simp] theorem State.readCorrect_basin (s : State) (st : Store) (ws : List Nat) : (s.readCorrect st ws).basin = s.basin := by unfold State.readCorrect; dsimp only; split <;> rfl
@[simp] theorem State.readCorrect_ledger (s : State) (st : Store) (ws : List Nat) : (s.readCorrect st ws).ledger = s.ledger := by unfold State.readCorrect; dsimp only; split <;> rfl
@[simp] theorem State.readCorrect_ports (s : State) (st : Store) (ws : List Nat) : (s.readCorrect st ws).ports = s.ports := by unfold State.readCorrect; dsimp only; split <;> rfl
@[simp] theorem State.readCorrect_image (s : State) (st : Store) (ws : List Nat) : (s.readCorrect st ws).image = s.image := by unfold State.readCorrect; dsimp only; split <;> rfl
@[simp] theorem State.readCorrect_crossing (s : State) (st : Store) (ws : List Nat) : (s.readCorrect st ws).crossing = s.crossing := by unfold State.readCorrect; dsimp only; split <;> rfl
@[simp] theorem State.readCorrect_cores (s : State) (st : Store) (ws : List Nat) : (s.readCorrect st ws).cores = s.cores := by unfold State.readCorrect; dsimp only; split <;> rfl
@[simp] theorem State.readCorrect_repair (s : State) (st : Store) (ws : List Nat) : (s.readCorrect st ws).repair = s.repair := by unfold State.readCorrect; dsimp only; split <;> rfl
@[simp] theorem State.readCorrect_recov (s : State) (st : Store) (ws : List Nat) : (s.readCorrect st ws).recov = s.recov := by unfold State.readCorrect; dsimp only; split <;> rfl
@[simp] theorem State.readCorrect_log (s : State) (st : Store) (ws : List Nat) : (s.readCorrect st ws).log = s.log := by unfold State.readCorrect; dsimp only; split <;> rfl
@[simp] theorem State.readCorrect_ao (s : State) (st : Store) (ws : List Nat) : (s.readCorrect st ws).ao = s.ao := by unfold State.readCorrect; dsimp only; split <;> rfl
@[simp] theorem State.readCorrect_fuses (s : State) (st : Store) (ws : List Nat) : (s.readCorrect st ws).fuses = s.fuses := by unfold State.readCorrect; dsimp only; split <;> rfl
@[simp] theorem State.readCorrect_sec (s : State) (st : Store) (ws : List Nat) : (s.readCorrect st ws).sec = s.sec := by unfold State.readCorrect; dsimp only; split <;> rfl
@[simp] theorem State.readCorrect_scrub (s : State) (st : Store) (ws : List Nat) : (s.readCorrect st ws).scrub = s.scrub := by unfold State.readCorrect; dsimp only; split <;> rfl
@[simp] theorem State.readCorrect_power (s : State) (st : Store) (ws : List Nat) : (s.readCorrect st ws).power = s.power := by unfold State.readCorrect; dsimp only; split <;> rfl
@[simp] theorem State.readCorrect_perf (s : State) (st : Store) (ws : List Nat) : (s.readCorrect st ws).perf = s.perf := by unfold State.readCorrect; dsimp only; split <;> rfl
@[simp] theorem State.readCorrect_dbg (s : State) (st : Store) (ws : List Nat) : (s.readCorrect st ws).dbg = s.dbg := by unfold State.readCorrect; dsimp only; split <;> rfl
@[simp] theorem State.readCorrect_pins (s : State) (st : Store) (ws : List Nat) : (s.readCorrect st ws).pins = s.pins := by unfold State.readCorrect; dsimp only; split <;> rfl
@[simp] theorem State.readCorrect_inputs (s : State) (st : Store) (ws : List Nat) : (s.readCorrect st ws).inputs = s.inputs := by unfold State.readCorrect; dsimp only; split <;> rfl
@[simp] theorem State.readCorrect_held (s : State) (st : Store) (ws : List Nat) : (s.readCorrect st ws).held = s.held := by unfold State.readCorrect; dsimp only; split <;> rfl
@[simp] theorem State.readCorrect_defects (s : State) (st : Store) (ws : List Nat) : (s.readCorrect st ws).defects = s.defects := by unfold State.readCorrect; dsimp only; split <;> rfl
@[simp] theorem State.readCorrect_eccBad (s : State) (st : Store) (ws : List Nat) : (s.readCorrect st ws).eccBad = s.eccBad := by unfold State.readCorrect; dsimp only; split <;> rfl
@[simp] theorem State.readCorrect_eccOne (s : State) (st : Store) (ws : List Nat) : (s.readCorrect st ws).eccOne = s.eccOne := by unfold State.readCorrect; dsimp only; split <;> rfl
@[simp] theorem State.readCorrect_eccCover (s : State) (st : Store) (ws : List Nat) : (s.readCorrect st ws).eccCover = s.eccCover := by unfold State.readCorrect; dsimp only; split <;> rfl
@[simp] theorem State.readCorrect_pending (s : State) (st : Store) (ws : List Nat) : (s.readCorrect st ws).pending = s.pending := by unfold State.readCorrect; dsimp only; split <;> rfl

/-! ### enterState -/

@[simp] theorem State.enterState_cfg (s : State) (u : UnitState) (r : BitVec 8) : (s.enterState u r).cfg = s.cfg := by unfold State.enterState; dsimp only; split <;> (try split) <;> simp [State.idleStreams]
@[simp] theorem State.enterState_slices (s : State) (u : UnitState) (r : BitVec 8) : (s.enterState u r).slices = s.slices := by unfold State.enterState; dsimp only; split <;> (try split) <;> simp [State.idleStreams]
@[simp] theorem State.enterState_clock (s : State) (u : UnitState) (r : BitVec 8) : (s.enterState u r).clock = s.clock := by unfold State.enterState; dsimp only; split <;> (try split) <;> simp [State.idleStreams]
@[simp] theorem State.enterState_collector (s : State) (u : UnitState) (r : BitVec 8) : (s.enterState u r).collector = s.collector := by unfold State.enterState; dsimp only; split <;> (try split) <;> simp [State.idleStreams]
@[simp] theorem State.enterState_collectAt (s : State) (u : UnitState) (r : BitVec 8) : (s.enterState u r).collectAt = s.collectAt := by unfold State.enterState; dsimp only; split <;> (try split) <;> simp [State.idleStreams]
@[simp] theorem State.enterState_inflight (s : State) (u : UnitState) (r : BitVec 8) : (s.enterState u r).inflight = s.inflight := by unfold State.enterState; dsimp only; split <;> (try split) <;> simp [State.idleStreams]
@[simp] theorem State.enterState_cycle (s : State) (u : UnitState) (r : BitVec 8) : (s.enterState u r).cycle = s.cycle := by unfold State.enterState; dsimp only; split <;> (try split) <;> simp [State.idleStreams]
@[simp] theorem State.enterState_tiles (s : State) (u : UnitState) (r : BitVec 8) : (s.enterState u r).tiles = s.tiles := by unfold State.enterState; dsimp only; split <;> (try split) <;> simp [State.idleStreams]
@[simp] theorem State.enterState_tileUse (s : State) (u : UnitState) (r : BitVec 8) : (s.enterState u r).tileUse = s.tileUse := by unfold State.enterState; dsimp only; split <;> (try split) <;> simp [State.idleStreams]
@[simp] theorem State.enterState_tileMarks (s : State) (u : UnitState) (r : BitVec 8) : (s.enterState u r).tileMarks = s.tileMarks := by unfold State.enterState; dsimp only; split <;> (try split) <;> simp [State.idleStreams]
@[simp] theorem State.enterState_tilesWritten (s : State) (u : UnitState) (r : BitVec 8) : (s.enterState u r).tilesWritten = s.tilesWritten := by unfold State.enterState; dsimp only; split <;> (try split) <;> simp [State.idleStreams]
@[simp] theorem State.enterState_pool (s : State) (u : UnitState) (r : BitVec 8) : (s.enterState u r).pool = s.pool := by unfold State.enterState; dsimp only; split <;> (try split) <;> simp [State.idleStreams]
@[simp] theorem State.enterState_settings (s : State) (u : UnitState) (r : BitVec 8) : (s.enterState u r).settings = s.settings := by unfold State.enterState; dsimp only; split <;> (try split) <;> simp [State.idleStreams]
@[simp] theorem State.enterState_basin (s : State) (u : UnitState) (r : BitVec 8) : (s.enterState u r).basin = s.basin := by unfold State.enterState; dsimp only; split <;> (try split) <;> simp [State.idleStreams]
@[simp] theorem State.enterState_ledger (s : State) (u : UnitState) (r : BitVec 8) : (s.enterState u r).ledger = s.ledger := by unfold State.enterState; dsimp only; split <;> (try split) <;> simp [State.idleStreams]
@[simp] theorem State.enterState_ports (s : State) (u : UnitState) (r : BitVec 8) : (s.enterState u r).ports = s.ports := by unfold State.enterState; dsimp only; split <;> (try split) <;> simp [State.idleStreams]
@[simp] theorem State.enterState_crossing (s : State) (u : UnitState) (r : BitVec 8) : (s.enterState u r).crossing = s.crossing := by unfold State.enterState; dsimp only; split <;> (try split) <;> simp [State.idleStreams]
@[simp] theorem State.enterState_cores (s : State) (u : UnitState) (r : BitVec 8) : (s.enterState u r).cores = s.cores := by unfold State.enterState; dsimp only; split <;> (try split) <;> simp [State.idleStreams]
@[simp] theorem State.enterState_repair (s : State) (u : UnitState) (r : BitVec 8) : (s.enterState u r).repair = s.repair := by unfold State.enterState; dsimp only; split <;> (try split) <;> simp [State.idleStreams]
@[simp] theorem State.enterState_recov (s : State) (u : UnitState) (r : BitVec 8) : (s.enterState u r).recov = s.recov := by unfold State.enterState; dsimp only; split <;> (try split) <;> simp [State.idleStreams]
@[simp] theorem State.enterState_fuses (s : State) (u : UnitState) (r : BitVec 8) : (s.enterState u r).fuses = s.fuses := by unfold State.enterState; dsimp only; split <;> (try split) <;> simp [State.idleStreams]
@[simp] theorem State.enterState_sec (s : State) (u : UnitState) (r : BitVec 8) : (s.enterState u r).sec = s.sec := by unfold State.enterState; dsimp only; split <;> (try split) <;> simp [State.idleStreams]
@[simp] theorem State.enterState_scrub (s : State) (u : UnitState) (r : BitVec 8) : (s.enterState u r).scrub = s.scrub := by unfold State.enterState; dsimp only; split <;> (try split) <;> simp [State.idleStreams]
@[simp] theorem State.enterState_power (s : State) (u : UnitState) (r : BitVec 8) : (s.enterState u r).power = s.power := by unfold State.enterState; dsimp only; split <;> (try split) <;> simp [State.idleStreams]
@[simp] theorem State.enterState_perf (s : State) (u : UnitState) (r : BitVec 8) : (s.enterState u r).perf = s.perf := by unfold State.enterState; dsimp only; split <;> (try split) <;> simp [State.idleStreams]
@[simp] theorem State.enterState_dbg (s : State) (u : UnitState) (r : BitVec 8) : (s.enterState u r).dbg = s.dbg := by unfold State.enterState; dsimp only; split <;> (try split) <;> simp [State.idleStreams]
@[simp] theorem State.enterState_pins (s : State) (u : UnitState) (r : BitVec 8) : (s.enterState u r).pins = s.pins := by unfold State.enterState; dsimp only; split <;> (try split) <;> simp [State.idleStreams]
@[simp] theorem State.enterState_inputs (s : State) (u : UnitState) (r : BitVec 8) : (s.enterState u r).inputs = s.inputs := by unfold State.enterState; dsimp only; split <;> (try split) <;> simp [State.idleStreams]
@[simp] theorem State.enterState_held (s : State) (u : UnitState) (r : BitVec 8) : (s.enterState u r).held = s.held := by unfold State.enterState; dsimp only; split <;> (try split) <;> simp [State.idleStreams]
@[simp] theorem State.enterState_defects (s : State) (u : UnitState) (r : BitVec 8) : (s.enterState u r).defects = s.defects := by unfold State.enterState; dsimp only; split <;> (try split) <;> simp [State.idleStreams]
@[simp] theorem State.enterState_eccBad (s : State) (u : UnitState) (r : BitVec 8) : (s.enterState u r).eccBad = s.eccBad := by unfold State.enterState; dsimp only; split <;> (try split) <;> simp [State.idleStreams]
@[simp] theorem State.enterState_eccOne (s : State) (u : UnitState) (r : BitVec 8) : (s.enterState u r).eccOne = s.eccOne := by unfold State.enterState; dsimp only; split <;> (try split) <;> simp [State.idleStreams]
@[simp] theorem State.enterState_eccCover (s : State) (u : UnitState) (r : BitVec 8) : (s.enterState u r).eccCover = s.eccCover := by unfold State.enterState; dsimp only; split <;> (try split) <;> simp [State.idleStreams]
@[simp] theorem State.enterState_pending (s : State) (u : UnitState) (r : BitVec 8) : (s.enterState u r).pending = s.pending := by unfold State.enterState; dsimp only; split <;> (try split) <;> simp [State.idleStreams]

/-! ### goto -/

@[simp] theorem State.goto_cfg (s : State) (u : UnitState) (r : BitVec 8) : (s.goto u r).cfg = s.cfg := by simp [State.goto]
@[simp] theorem State.goto_slices (s : State) (u : UnitState) (r : BitVec 8) : (s.goto u r).slices = s.slices := by simp [State.goto]
@[simp] theorem State.goto_clock (s : State) (u : UnitState) (r : BitVec 8) : (s.goto u r).clock = s.clock := by simp [State.goto]
@[simp] theorem State.goto_collector (s : State) (u : UnitState) (r : BitVec 8) : (s.goto u r).collector = s.collector := by simp [State.goto]
@[simp] theorem State.goto_collectAt (s : State) (u : UnitState) (r : BitVec 8) : (s.goto u r).collectAt = s.collectAt := by simp [State.goto]
@[simp] theorem State.goto_inflight (s : State) (u : UnitState) (r : BitVec 8) : (s.goto u r).inflight = s.inflight := by simp [State.goto]
@[simp] theorem State.goto_cycle (s : State) (u : UnitState) (r : BitVec 8) : (s.goto u r).cycle = s.cycle := by simp [State.goto]
@[simp] theorem State.goto_tiles (s : State) (u : UnitState) (r : BitVec 8) : (s.goto u r).tiles = s.tiles := by simp [State.goto]
@[simp] theorem State.goto_tileUse (s : State) (u : UnitState) (r : BitVec 8) : (s.goto u r).tileUse = s.tileUse := by simp [State.goto]
@[simp] theorem State.goto_tileMarks (s : State) (u : UnitState) (r : BitVec 8) : (s.goto u r).tileMarks = s.tileMarks := by simp [State.goto]
@[simp] theorem State.goto_tilesWritten (s : State) (u : UnitState) (r : BitVec 8) : (s.goto u r).tilesWritten = s.tilesWritten := by simp [State.goto]
@[simp] theorem State.goto_pool (s : State) (u : UnitState) (r : BitVec 8) : (s.goto u r).pool = s.pool := by simp [State.goto]
@[simp] theorem State.goto_settings (s : State) (u : UnitState) (r : BitVec 8) : (s.goto u r).settings = s.settings := by simp [State.goto]
@[simp] theorem State.goto_basin (s : State) (u : UnitState) (r : BitVec 8) : (s.goto u r).basin = s.basin := by simp [State.goto]
@[simp] theorem State.goto_ledger (s : State) (u : UnitState) (r : BitVec 8) : (s.goto u r).ledger = s.ledger := by simp [State.goto]
@[simp] theorem State.goto_ports (s : State) (u : UnitState) (r : BitVec 8) : (s.goto u r).ports = s.ports := by simp [State.goto]
@[simp] theorem State.goto_crossing (s : State) (u : UnitState) (r : BitVec 8) : (s.goto u r).crossing = s.crossing := by simp [State.goto]
@[simp] theorem State.goto_cores (s : State) (u : UnitState) (r : BitVec 8) : (s.goto u r).cores = s.cores := by simp [State.goto]
@[simp] theorem State.goto_repair (s : State) (u : UnitState) (r : BitVec 8) : (s.goto u r).repair = s.repair := by simp [State.goto]
@[simp] theorem State.goto_recov (s : State) (u : UnitState) (r : BitVec 8) : (s.goto u r).recov = s.recov := by simp [State.goto]
@[simp] theorem State.goto_fuses (s : State) (u : UnitState) (r : BitVec 8) : (s.goto u r).fuses = s.fuses := by simp [State.goto]
@[simp] theorem State.goto_sec (s : State) (u : UnitState) (r : BitVec 8) : (s.goto u r).sec = s.sec := by simp [State.goto]
@[simp] theorem State.goto_scrub (s : State) (u : UnitState) (r : BitVec 8) : (s.goto u r).scrub = s.scrub := by simp [State.goto]
@[simp] theorem State.goto_power (s : State) (u : UnitState) (r : BitVec 8) : (s.goto u r).power = s.power := by simp [State.goto]
@[simp] theorem State.goto_perf (s : State) (u : UnitState) (r : BitVec 8) : (s.goto u r).perf = s.perf := by simp [State.goto]
@[simp] theorem State.goto_dbg (s : State) (u : UnitState) (r : BitVec 8) : (s.goto u r).dbg = s.dbg := by simp [State.goto]
@[simp] theorem State.goto_pins (s : State) (u : UnitState) (r : BitVec 8) : (s.goto u r).pins = s.pins := by simp [State.goto]
@[simp] theorem State.goto_inputs (s : State) (u : UnitState) (r : BitVec 8) : (s.goto u r).inputs = s.inputs := by simp [State.goto]
@[simp] theorem State.goto_held (s : State) (u : UnitState) (r : BitVec 8) : (s.goto u r).held = s.held := by simp [State.goto]
@[simp] theorem State.goto_defects (s : State) (u : UnitState) (r : BitVec 8) : (s.goto u r).defects = s.defects := by simp [State.goto]
@[simp] theorem State.goto_eccBad (s : State) (u : UnitState) (r : BitVec 8) : (s.goto u r).eccBad = s.eccBad := by simp [State.goto]
@[simp] theorem State.goto_eccOne (s : State) (u : UnitState) (r : BitVec 8) : (s.goto u r).eccOne = s.eccOne := by simp [State.goto]
@[simp] theorem State.goto_eccCover (s : State) (u : UnitState) (r : BitVec 8) : (s.goto u r).eccCover = s.eccCover := by simp [State.goto]
@[simp] theorem State.goto_pending (s : State) (u : UnitState) (r : BitVec 8) : (s.goto u r).pending = s.pending := by simp [State.goto]

/-! ### fwGoto -/

@[simp] theorem State.fwGoto_cfg (s : State) (c : BitVec 2) (u : UnitState) (r : BitVec 8) : (s.fwGoto c u r).cfg = s.cfg := by simp [State.fwGoto]
@[simp] theorem State.fwGoto_slices (s : State) (c : BitVec 2) (u : UnitState) (r : BitVec 8) : (s.fwGoto c u r).slices = s.slices := by simp [State.fwGoto]
@[simp] theorem State.fwGoto_clock (s : State) (c : BitVec 2) (u : UnitState) (r : BitVec 8) : (s.fwGoto c u r).clock = s.clock := by simp [State.fwGoto]
@[simp] theorem State.fwGoto_collector (s : State) (c : BitVec 2) (u : UnitState) (r : BitVec 8) : (s.fwGoto c u r).collector = s.collector := by simp [State.fwGoto]
@[simp] theorem State.fwGoto_collectAt (s : State) (c : BitVec 2) (u : UnitState) (r : BitVec 8) : (s.fwGoto c u r).collectAt = s.collectAt := by simp [State.fwGoto]
@[simp] theorem State.fwGoto_inflight (s : State) (c : BitVec 2) (u : UnitState) (r : BitVec 8) : (s.fwGoto c u r).inflight = s.inflight := by simp [State.fwGoto]
@[simp] theorem State.fwGoto_cycle (s : State) (c : BitVec 2) (u : UnitState) (r : BitVec 8) : (s.fwGoto c u r).cycle = s.cycle := by simp [State.fwGoto]
@[simp] theorem State.fwGoto_tiles (s : State) (c : BitVec 2) (u : UnitState) (r : BitVec 8) : (s.fwGoto c u r).tiles = s.tiles := by simp [State.fwGoto]
@[simp] theorem State.fwGoto_tileUse (s : State) (c : BitVec 2) (u : UnitState) (r : BitVec 8) : (s.fwGoto c u r).tileUse = s.tileUse := by simp [State.fwGoto]
@[simp] theorem State.fwGoto_tileMarks (s : State) (c : BitVec 2) (u : UnitState) (r : BitVec 8) : (s.fwGoto c u r).tileMarks = s.tileMarks := by simp [State.fwGoto]
@[simp] theorem State.fwGoto_tilesWritten (s : State) (c : BitVec 2) (u : UnitState) (r : BitVec 8) : (s.fwGoto c u r).tilesWritten = s.tilesWritten := by simp [State.fwGoto]
@[simp] theorem State.fwGoto_pool (s : State) (c : BitVec 2) (u : UnitState) (r : BitVec 8) : (s.fwGoto c u r).pool = s.pool := by simp [State.fwGoto]
@[simp] theorem State.fwGoto_settings (s : State) (c : BitVec 2) (u : UnitState) (r : BitVec 8) : (s.fwGoto c u r).settings = s.settings := by simp [State.fwGoto]
@[simp] theorem State.fwGoto_basin (s : State) (c : BitVec 2) (u : UnitState) (r : BitVec 8) : (s.fwGoto c u r).basin = s.basin := by simp [State.fwGoto]
@[simp] theorem State.fwGoto_ledger (s : State) (c : BitVec 2) (u : UnitState) (r : BitVec 8) : (s.fwGoto c u r).ledger = s.ledger := by simp [State.fwGoto]
@[simp] theorem State.fwGoto_ports (s : State) (c : BitVec 2) (u : UnitState) (r : BitVec 8) : (s.fwGoto c u r).ports = s.ports := by simp [State.fwGoto]
@[simp] theorem State.fwGoto_crossing (s : State) (c : BitVec 2) (u : UnitState) (r : BitVec 8) : (s.fwGoto c u r).crossing = s.crossing := by simp [State.fwGoto]
@[simp] theorem State.fwGoto_cores (s : State) (c : BitVec 2) (u : UnitState) (r : BitVec 8) : (s.fwGoto c u r).cores = s.cores := by simp [State.fwGoto]
@[simp] theorem State.fwGoto_repair (s : State) (c : BitVec 2) (u : UnitState) (r : BitVec 8) : (s.fwGoto c u r).repair = s.repair := by simp [State.fwGoto]
@[simp] theorem State.fwGoto_recov (s : State) (c : BitVec 2) (u : UnitState) (r : BitVec 8) : (s.fwGoto c u r).recov = s.recov := by simp [State.fwGoto]
@[simp] theorem State.fwGoto_fuses (s : State) (c : BitVec 2) (u : UnitState) (r : BitVec 8) : (s.fwGoto c u r).fuses = s.fuses := by simp [State.fwGoto]
@[simp] theorem State.fwGoto_sec (s : State) (c : BitVec 2) (u : UnitState) (r : BitVec 8) : (s.fwGoto c u r).sec = s.sec := by simp [State.fwGoto]
@[simp] theorem State.fwGoto_scrub (s : State) (c : BitVec 2) (u : UnitState) (r : BitVec 8) : (s.fwGoto c u r).scrub = s.scrub := by simp [State.fwGoto]
@[simp] theorem State.fwGoto_power (s : State) (c : BitVec 2) (u : UnitState) (r : BitVec 8) : (s.fwGoto c u r).power = s.power := by simp [State.fwGoto]
@[simp] theorem State.fwGoto_perf (s : State) (c : BitVec 2) (u : UnitState) (r : BitVec 8) : (s.fwGoto c u r).perf = s.perf := by simp [State.fwGoto]
@[simp] theorem State.fwGoto_dbg (s : State) (c : BitVec 2) (u : UnitState) (r : BitVec 8) : (s.fwGoto c u r).dbg = s.dbg := by simp [State.fwGoto]
@[simp] theorem State.fwGoto_pins (s : State) (c : BitVec 2) (u : UnitState) (r : BitVec 8) : (s.fwGoto c u r).pins = s.pins := by simp [State.fwGoto]
@[simp] theorem State.fwGoto_inputs (s : State) (c : BitVec 2) (u : UnitState) (r : BitVec 8) : (s.fwGoto c u r).inputs = s.inputs := by simp [State.fwGoto]
@[simp] theorem State.fwGoto_defects (s : State) (c : BitVec 2) (u : UnitState) (r : BitVec 8) : (s.fwGoto c u r).defects = s.defects := by simp [State.fwGoto]
@[simp] theorem State.fwGoto_eccBad (s : State) (c : BitVec 2) (u : UnitState) (r : BitVec 8) : (s.fwGoto c u r).eccBad = s.eccBad := by simp [State.fwGoto]
@[simp] theorem State.fwGoto_eccOne (s : State) (c : BitVec 2) (u : UnitState) (r : BitVec 8) : (s.fwGoto c u r).eccOne = s.eccOne := by simp [State.fwGoto]
@[simp] theorem State.fwGoto_eccCover (s : State) (c : BitVec 2) (u : UnitState) (r : BitVec 8) : (s.fwGoto c u r).eccCover = s.eccCover := by simp [State.fwGoto]
@[simp] theorem State.fwGoto_pending (s : State) (c : BitVec 2) (u : UnitState) (r : BitVec 8) : (s.fwGoto c u r).pending = s.pending := by simp [State.fwGoto]

/-! ### dropLatch -/

@[simp] theorem State.dropLatch_cfg (s : State) (p : StreamId) (r : BitVec 8) : (s.dropLatch p r).cfg = s.cfg := by unfold State.dropLatch; split <;> rfl
@[simp] theorem State.dropLatch_slices (s : State) (p : StreamId) (r : BitVec 8) : (s.dropLatch p r).slices = s.slices := by unfold State.dropLatch; split <;> rfl
@[simp] theorem State.dropLatch_clock (s : State) (p : StreamId) (r : BitVec 8) : (s.dropLatch p r).clock = s.clock := by unfold State.dropLatch; split <;> rfl
@[simp] theorem State.dropLatch_unit (s : State) (p : StreamId) (r : BitVec 8) : (s.dropLatch p r).unit = s.unit := by unfold State.dropLatch; split <;> rfl
@[simp] theorem State.dropLatch_collector (s : State) (p : StreamId) (r : BitVec 8) : (s.dropLatch p r).collector = s.collector := by unfold State.dropLatch; split <;> rfl
@[simp] theorem State.dropLatch_collectAt (s : State) (p : StreamId) (r : BitVec 8) : (s.dropLatch p r).collectAt = s.collectAt := by unfold State.dropLatch; split <;> rfl
@[simp] theorem State.dropLatch_inflight (s : State) (p : StreamId) (r : BitVec 8) : (s.dropLatch p r).inflight = s.inflight := by unfold State.dropLatch; split <;> rfl
@[simp] theorem State.dropLatch_cycle (s : State) (p : StreamId) (r : BitVec 8) : (s.dropLatch p r).cycle = s.cycle := by unfold State.dropLatch; split <;> rfl
@[simp] theorem State.dropLatch_tiles (s : State) (p : StreamId) (r : BitVec 8) : (s.dropLatch p r).tiles = s.tiles := by unfold State.dropLatch; split <;> rfl
@[simp] theorem State.dropLatch_tileUse (s : State) (p : StreamId) (r : BitVec 8) : (s.dropLatch p r).tileUse = s.tileUse := by unfold State.dropLatch; split <;> rfl
@[simp] theorem State.dropLatch_tileMarks (s : State) (p : StreamId) (r : BitVec 8) : (s.dropLatch p r).tileMarks = s.tileMarks := by unfold State.dropLatch; split <;> rfl
@[simp] theorem State.dropLatch_tilesWritten (s : State) (p : StreamId) (r : BitVec 8) : (s.dropLatch p r).tilesWritten = s.tilesWritten := by unfold State.dropLatch; split <;> rfl
@[simp] theorem State.dropLatch_pool (s : State) (p : StreamId) (r : BitVec 8) : (s.dropLatch p r).pool = s.pool := by unfold State.dropLatch; split <;> rfl
@[simp] theorem State.dropLatch_settings (s : State) (p : StreamId) (r : BitVec 8) : (s.dropLatch p r).settings = s.settings := by unfold State.dropLatch; split <;> rfl
@[simp] theorem State.dropLatch_basin (s : State) (p : StreamId) (r : BitVec 8) : (s.dropLatch p r).basin = s.basin := by unfold State.dropLatch; split <;> rfl
@[simp] theorem State.dropLatch_ledger (s : State) (p : StreamId) (r : BitVec 8) : (s.dropLatch p r).ledger = s.ledger := by unfold State.dropLatch; split <;> rfl
@[simp] theorem State.dropLatch_ports (s : State) (p : StreamId) (r : BitVec 8) : (s.dropLatch p r).ports = s.ports := by unfold State.dropLatch; split <;> rfl
@[simp] theorem State.dropLatch_image (s : State) (p : StreamId) (r : BitVec 8) : (s.dropLatch p r).image = s.image := by unfold State.dropLatch; split <;> rfl
@[simp] theorem State.dropLatch_crossing (s : State) (p : StreamId) (r : BitVec 8) : (s.dropLatch p r).crossing = s.crossing := by unfold State.dropLatch; split <;> rfl
@[simp] theorem State.dropLatch_regs (s : State) (p : StreamId) (r : BitVec 8) : (s.dropLatch p r).regs = s.regs := by unfold State.dropLatch; split <;> rfl
@[simp] theorem State.dropLatch_cores (s : State) (p : StreamId) (r : BitVec 8) : (s.dropLatch p r).cores = s.cores := by unfold State.dropLatch; split <;> rfl
@[simp] theorem State.dropLatch_repair (s : State) (p : StreamId) (r : BitVec 8) : (s.dropLatch p r).repair = s.repair := by unfold State.dropLatch; split <;> rfl
@[simp] theorem State.dropLatch_recov (s : State) (p : StreamId) (r : BitVec 8) : (s.dropLatch p r).recov = s.recov := by unfold State.dropLatch; split <;> rfl
@[simp] theorem State.dropLatch_log (s : State) (p : StreamId) (r : BitVec 8) : (s.dropLatch p r).log = s.log := by unfold State.dropLatch; split <;> rfl
@[simp] theorem State.dropLatch_ao (s : State) (p : StreamId) (r : BitVec 8) : (s.dropLatch p r).ao = s.ao := by unfold State.dropLatch; split <;> rfl
@[simp] theorem State.dropLatch_fuses (s : State) (p : StreamId) (r : BitVec 8) : (s.dropLatch p r).fuses = s.fuses := by unfold State.dropLatch; split <;> rfl
@[simp] theorem State.dropLatch_sec (s : State) (p : StreamId) (r : BitVec 8) : (s.dropLatch p r).sec = s.sec := by unfold State.dropLatch; split <;> rfl
@[simp] theorem State.dropLatch_scrub (s : State) (p : StreamId) (r : BitVec 8) : (s.dropLatch p r).scrub = s.scrub := by unfold State.dropLatch; split <;> rfl
@[simp] theorem State.dropLatch_power (s : State) (p : StreamId) (r : BitVec 8) : (s.dropLatch p r).power = s.power := by unfold State.dropLatch; split <;> rfl
@[simp] theorem State.dropLatch_perf (s : State) (p : StreamId) (r : BitVec 8) : (s.dropLatch p r).perf = s.perf := by unfold State.dropLatch; split <;> rfl
@[simp] theorem State.dropLatch_dbg (s : State) (p : StreamId) (r : BitVec 8) : (s.dropLatch p r).dbg = s.dbg := by unfold State.dropLatch; split <;> rfl
@[simp] theorem State.dropLatch_pins (s : State) (p : StreamId) (r : BitVec 8) : (s.dropLatch p r).pins = s.pins := by unfold State.dropLatch; split <;> rfl
@[simp] theorem State.dropLatch_inputs (s : State) (p : StreamId) (r : BitVec 8) : (s.dropLatch p r).inputs = s.inputs := by unfold State.dropLatch; split <;> rfl
@[simp] theorem State.dropLatch_held (s : State) (p : StreamId) (r : BitVec 8) : (s.dropLatch p r).held = s.held := by unfold State.dropLatch; split <;> rfl
@[simp] theorem State.dropLatch_defects (s : State) (p : StreamId) (r : BitVec 8) : (s.dropLatch p r).defects = s.defects := by unfold State.dropLatch; split <;> rfl
@[simp] theorem State.dropLatch_eccBad (s : State) (p : StreamId) (r : BitVec 8) : (s.dropLatch p r).eccBad = s.eccBad := by unfold State.dropLatch; split <;> rfl
@[simp] theorem State.dropLatch_eccOne (s : State) (p : StreamId) (r : BitVec 8) : (s.dropLatch p r).eccOne = s.eccOne := by unfold State.dropLatch; split <;> rfl
@[simp] theorem State.dropLatch_eccCover (s : State) (p : StreamId) (r : BitVec 8) : (s.dropLatch p r).eccCover = s.eccCover := by unfold State.dropLatch; split <;> rfl
@[simp] theorem State.dropLatch_pending (s : State) (p : StreamId) (r : BitVec 8) : (s.dropLatch p r).pending = s.pending := by unfold State.dropLatch; split <;> rfl

/-! ### readTile -/

@[simp] theorem State.readTile_cfg (s : State) (p : StreamId) (r : BitVec 8) : (s.readTile p r).cfg = s.cfg := by unfold State.readTile; split <;> simp
@[simp] theorem State.readTile_slices (s : State) (p : StreamId) (r : BitVec 8) : (s.readTile p r).slices = s.slices := by unfold State.readTile; split <;> simp
@[simp] theorem State.readTile_clock (s : State) (p : StreamId) (r : BitVec 8) : (s.readTile p r).clock = s.clock := by unfold State.readTile; split <;> simp
@[simp] theorem State.readTile_unit (s : State) (p : StreamId) (r : BitVec 8) : (s.readTile p r).unit = s.unit := by unfold State.readTile; split <;> simp
@[simp] theorem State.readTile_streams (s : State) (p : StreamId) (r : BitVec 8) : (s.readTile p r).streams = s.streams := by unfold State.readTile; split <;> simp
@[simp] theorem State.readTile_collector (s : State) (p : StreamId) (r : BitVec 8) : (s.readTile p r).collector = s.collector := by unfold State.readTile; split <;> simp
@[simp] theorem State.readTile_collectAt (s : State) (p : StreamId) (r : BitVec 8) : (s.readTile p r).collectAt = s.collectAt := by unfold State.readTile; split <;> simp
@[simp] theorem State.readTile_inflight (s : State) (p : StreamId) (r : BitVec 8) : (s.readTile p r).inflight = s.inflight := by unfold State.readTile; split <;> simp
@[simp] theorem State.readTile_cycle (s : State) (p : StreamId) (r : BitVec 8) : (s.readTile p r).cycle = s.cycle := by unfold State.readTile; split <;> simp
@[simp] theorem State.readTile_tiles (s : State) (p : StreamId) (r : BitVec 8) : (s.readTile p r).tiles = s.tiles := by unfold State.readTile; split <;> simp
@[simp] theorem State.readTile_tileUse (s : State) (p : StreamId) (r : BitVec 8) : (s.readTile p r).tileUse = s.tileUse := by unfold State.readTile; split <;> simp
@[simp] theorem State.readTile_tileMarks (s : State) (p : StreamId) (r : BitVec 8) : (s.readTile p r).tileMarks = s.tileMarks := by unfold State.readTile; split <;> simp
@[simp] theorem State.readTile_tilesWritten (s : State) (p : StreamId) (r : BitVec 8) : (s.readTile p r).tilesWritten = s.tilesWritten := by unfold State.readTile; split <;> simp
@[simp] theorem State.readTile_pool (s : State) (p : StreamId) (r : BitVec 8) : (s.readTile p r).pool = s.pool := by unfold State.readTile; split <;> simp
@[simp] theorem State.readTile_settings (s : State) (p : StreamId) (r : BitVec 8) : (s.readTile p r).settings = s.settings := by unfold State.readTile; split <;> simp
@[simp] theorem State.readTile_basin (s : State) (p : StreamId) (r : BitVec 8) : (s.readTile p r).basin = s.basin := by unfold State.readTile; split <;> simp
@[simp] theorem State.readTile_ledger (s : State) (p : StreamId) (r : BitVec 8) : (s.readTile p r).ledger = s.ledger := by unfold State.readTile; split <;> simp
@[simp] theorem State.readTile_ports (s : State) (p : StreamId) (r : BitVec 8) : (s.readTile p r).ports = s.ports := by unfold State.readTile; split <;> simp
@[simp] theorem State.readTile_image (s : State) (p : StreamId) (r : BitVec 8) : (s.readTile p r).image = s.image := by unfold State.readTile; split <;> simp
@[simp] theorem State.readTile_crossing (s : State) (p : StreamId) (r : BitVec 8) : (s.readTile p r).crossing = s.crossing := by unfold State.readTile; split <;> simp
@[simp] theorem State.readTile_cores (s : State) (p : StreamId) (r : BitVec 8) : (s.readTile p r).cores = s.cores := by unfold State.readTile; split <;> simp
@[simp] theorem State.readTile_repair (s : State) (p : StreamId) (r : BitVec 8) : (s.readTile p r).repair = s.repair := by unfold State.readTile; split <;> simp
@[simp] theorem State.readTile_recov (s : State) (p : StreamId) (r : BitVec 8) : (s.readTile p r).recov = s.recov := by unfold State.readTile; split <;> simp
@[simp] theorem State.readTile_log (s : State) (p : StreamId) (r : BitVec 8) : (s.readTile p r).log = s.log := by unfold State.readTile; split <;> simp
@[simp] theorem State.readTile_ao (s : State) (p : StreamId) (r : BitVec 8) : (s.readTile p r).ao = s.ao := by unfold State.readTile; split <;> simp
@[simp] theorem State.readTile_fuses (s : State) (p : StreamId) (r : BitVec 8) : (s.readTile p r).fuses = s.fuses := by unfold State.readTile; split <;> simp
@[simp] theorem State.readTile_sec (s : State) (p : StreamId) (r : BitVec 8) : (s.readTile p r).sec = s.sec := by unfold State.readTile; split <;> simp
@[simp] theorem State.readTile_scrub (s : State) (p : StreamId) (r : BitVec 8) : (s.readTile p r).scrub = s.scrub := by unfold State.readTile; split <;> simp
@[simp] theorem State.readTile_power (s : State) (p : StreamId) (r : BitVec 8) : (s.readTile p r).power = s.power := by unfold State.readTile; split <;> simp
@[simp] theorem State.readTile_perf (s : State) (p : StreamId) (r : BitVec 8) : (s.readTile p r).perf = s.perf := by unfold State.readTile; split <;> simp
@[simp] theorem State.readTile_dbg (s : State) (p : StreamId) (r : BitVec 8) : (s.readTile p r).dbg = s.dbg := by unfold State.readTile; split <;> simp
@[simp] theorem State.readTile_pins (s : State) (p : StreamId) (r : BitVec 8) : (s.readTile p r).pins = s.pins := by unfold State.readTile; split <;> simp
@[simp] theorem State.readTile_inputs (s : State) (p : StreamId) (r : BitVec 8) : (s.readTile p r).inputs = s.inputs := by unfold State.readTile; split <;> simp
@[simp] theorem State.readTile_held (s : State) (p : StreamId) (r : BitVec 8) : (s.readTile p r).held = s.held := by unfold State.readTile; split <;> simp
@[simp] theorem State.readTile_defects (s : State) (p : StreamId) (r : BitVec 8) : (s.readTile p r).defects = s.defects := by unfold State.readTile; split <;> simp
@[simp] theorem State.readTile_eccBad (s : State) (p : StreamId) (r : BitVec 8) : (s.readTile p r).eccBad = s.eccBad := by unfold State.readTile; split <;> simp
@[simp] theorem State.readTile_eccOne (s : State) (p : StreamId) (r : BitVec 8) : (s.readTile p r).eccOne = s.eccOne := by unfold State.readTile; split <;> simp
@[simp] theorem State.readTile_eccCover (s : State) (p : StreamId) (r : BitVec 8) : (s.readTile p r).eccCover = s.eccCover := by unfold State.readTile; split <;> simp
@[simp] theorem State.readTile_pending (s : State) (p : StreamId) (r : BitVec 8) : (s.readTile p r).pending = s.pending := by unfold State.readTile; split <;> simp

/-! ### latchRead -/

@[simp] theorem State.latchRead_cfg (s : State) (p : StreamId) (r : BitVec 8) : (s.latchRead p r).cfg = s.cfg := by unfold State.latchRead; dsimp only; split <;> simp
@[simp] theorem State.latchRead_slices (s : State) (p : StreamId) (r : BitVec 8) : (s.latchRead p r).slices = s.slices := by unfold State.latchRead; dsimp only; split <;> simp
@[simp] theorem State.latchRead_clock (s : State) (p : StreamId) (r : BitVec 8) : (s.latchRead p r).clock = s.clock := by unfold State.latchRead; dsimp only; split <;> simp
@[simp] theorem State.latchRead_unit (s : State) (p : StreamId) (r : BitVec 8) : (s.latchRead p r).unit = s.unit := by unfold State.latchRead; dsimp only; split <;> simp
@[simp] theorem State.latchRead_collector (s : State) (p : StreamId) (r : BitVec 8) : (s.latchRead p r).collector = s.collector := by unfold State.latchRead; dsimp only; split <;> simp
@[simp] theorem State.latchRead_collectAt (s : State) (p : StreamId) (r : BitVec 8) : (s.latchRead p r).collectAt = s.collectAt := by unfold State.latchRead; dsimp only; split <;> simp
@[simp] theorem State.latchRead_inflight (s : State) (p : StreamId) (r : BitVec 8) : (s.latchRead p r).inflight = s.inflight := by unfold State.latchRead; dsimp only; split <;> simp
@[simp] theorem State.latchRead_cycle (s : State) (p : StreamId) (r : BitVec 8) : (s.latchRead p r).cycle = s.cycle := by unfold State.latchRead; dsimp only; split <;> simp
@[simp] theorem State.latchRead_tiles (s : State) (p : StreamId) (r : BitVec 8) : (s.latchRead p r).tiles = s.tiles := by unfold State.latchRead; dsimp only; split <;> simp
@[simp] theorem State.latchRead_tileUse (s : State) (p : StreamId) (r : BitVec 8) : (s.latchRead p r).tileUse = s.tileUse := by unfold State.latchRead; dsimp only; split <;> simp
@[simp] theorem State.latchRead_tileMarks (s : State) (p : StreamId) (r : BitVec 8) : (s.latchRead p r).tileMarks = s.tileMarks := by unfold State.latchRead; dsimp only; split <;> simp
@[simp] theorem State.latchRead_tilesWritten (s : State) (p : StreamId) (r : BitVec 8) : (s.latchRead p r).tilesWritten = s.tilesWritten := by unfold State.latchRead; dsimp only; split <;> simp
@[simp] theorem State.latchRead_pool (s : State) (p : StreamId) (r : BitVec 8) : (s.latchRead p r).pool = s.pool := by unfold State.latchRead; dsimp only; split <;> simp
@[simp] theorem State.latchRead_settings (s : State) (p : StreamId) (r : BitVec 8) : (s.latchRead p r).settings = s.settings := by unfold State.latchRead; dsimp only; split <;> simp
@[simp] theorem State.latchRead_basin (s : State) (p : StreamId) (r : BitVec 8) : (s.latchRead p r).basin = s.basin := by unfold State.latchRead; dsimp only; split <;> simp
@[simp] theorem State.latchRead_ledger (s : State) (p : StreamId) (r : BitVec 8) : (s.latchRead p r).ledger = s.ledger := by unfold State.latchRead; dsimp only; split <;> simp
@[simp] theorem State.latchRead_ports (s : State) (p : StreamId) (r : BitVec 8) : (s.latchRead p r).ports = s.ports := by unfold State.latchRead; dsimp only; split <;> simp
@[simp] theorem State.latchRead_image (s : State) (p : StreamId) (r : BitVec 8) : (s.latchRead p r).image = s.image := by unfold State.latchRead; dsimp only; split <;> simp
@[simp] theorem State.latchRead_crossing (s : State) (p : StreamId) (r : BitVec 8) : (s.latchRead p r).crossing = s.crossing := by unfold State.latchRead; dsimp only; split <;> simp
@[simp] theorem State.latchRead_cores (s : State) (p : StreamId) (r : BitVec 8) : (s.latchRead p r).cores = s.cores := by unfold State.latchRead; dsimp only; split <;> simp
@[simp] theorem State.latchRead_repair (s : State) (p : StreamId) (r : BitVec 8) : (s.latchRead p r).repair = s.repair := by unfold State.latchRead; dsimp only; split <;> simp
@[simp] theorem State.latchRead_recov (s : State) (p : StreamId) (r : BitVec 8) : (s.latchRead p r).recov = s.recov := by unfold State.latchRead; dsimp only; split <;> simp
@[simp] theorem State.latchRead_log (s : State) (p : StreamId) (r : BitVec 8) : (s.latchRead p r).log = s.log := by unfold State.latchRead; dsimp only; split <;> simp
@[simp] theorem State.latchRead_ao (s : State) (p : StreamId) (r : BitVec 8) : (s.latchRead p r).ao = s.ao := by unfold State.latchRead; dsimp only; split <;> simp
@[simp] theorem State.latchRead_fuses (s : State) (p : StreamId) (r : BitVec 8) : (s.latchRead p r).fuses = s.fuses := by unfold State.latchRead; dsimp only; split <;> simp
@[simp] theorem State.latchRead_sec (s : State) (p : StreamId) (r : BitVec 8) : (s.latchRead p r).sec = s.sec := by unfold State.latchRead; dsimp only; split <;> simp
@[simp] theorem State.latchRead_scrub (s : State) (p : StreamId) (r : BitVec 8) : (s.latchRead p r).scrub = s.scrub := by unfold State.latchRead; dsimp only; split <;> simp
@[simp] theorem State.latchRead_power (s : State) (p : StreamId) (r : BitVec 8) : (s.latchRead p r).power = s.power := by unfold State.latchRead; dsimp only; split <;> simp
@[simp] theorem State.latchRead_dbg (s : State) (p : StreamId) (r : BitVec 8) : (s.latchRead p r).dbg = s.dbg := by unfold State.latchRead; dsimp only; split <;> simp
@[simp] theorem State.latchRead_pins (s : State) (p : StreamId) (r : BitVec 8) : (s.latchRead p r).pins = s.pins := by unfold State.latchRead; dsimp only; split <;> simp
@[simp] theorem State.latchRead_inputs (s : State) (p : StreamId) (r : BitVec 8) : (s.latchRead p r).inputs = s.inputs := by unfold State.latchRead; dsimp only; split <;> simp
@[simp] theorem State.latchRead_held (s : State) (p : StreamId) (r : BitVec 8) : (s.latchRead p r).held = s.held := by unfold State.latchRead; dsimp only; split <;> simp
@[simp] theorem State.latchRead_defects (s : State) (p : StreamId) (r : BitVec 8) : (s.latchRead p r).defects = s.defects := by unfold State.latchRead; dsimp only; split <;> simp
@[simp] theorem State.latchRead_eccBad (s : State) (p : StreamId) (r : BitVec 8) : (s.latchRead p r).eccBad = s.eccBad := by unfold State.latchRead; dsimp only; split <;> simp
@[simp] theorem State.latchRead_eccOne (s : State) (p : StreamId) (r : BitVec 8) : (s.latchRead p r).eccOne = s.eccOne := by unfold State.latchRead; dsimp only; split <;> simp
@[simp] theorem State.latchRead_eccCover (s : State) (p : StreamId) (r : BitVec 8) : (s.latchRead p r).eccCover = s.eccCover := by unfold State.latchRead; dsimp only; split <;> simp
@[simp] theorem State.latchRead_pending (s : State) (p : StreamId) (r : BitVec 8) : (s.latchRead p r).pending = s.pending := by unfold State.latchRead; dsimp only; split <;> simp

/-! ### result -/

@[simp] theorem State.result_cfg (s : State) (p : StreamId) (n : Nat) (r : BitVec 8) (c : Mem) (m : Option Origin) : (s.result p n r c m).cfg = s.cfg := by simp [State.result]
@[simp] theorem State.result_slices (s : State) (p : StreamId) (n : Nat) (r : BitVec 8) (c : Mem) (m : Option Origin) : (s.result p n r c m).slices = s.slices := by simp [State.result]
@[simp] theorem State.result_clock (s : State) (p : StreamId) (n : Nat) (r : BitVec 8) (c : Mem) (m : Option Origin) : (s.result p n r c m).clock = s.clock := by simp [State.result]
@[simp] theorem State.result_unit (s : State) (p : StreamId) (n : Nat) (r : BitVec 8) (c : Mem) (m : Option Origin) : (s.result p n r c m).unit = s.unit := by simp [State.result]
@[simp] theorem State.result_collector (s : State) (p : StreamId) (n : Nat) (r : BitVec 8) (c : Mem) (m : Option Origin) : (s.result p n r c m).collector = s.collector := by simp [State.result]
@[simp] theorem State.result_collectAt (s : State) (p : StreamId) (n : Nat) (r : BitVec 8) (c : Mem) (m : Option Origin) : (s.result p n r c m).collectAt = s.collectAt := by simp [State.result]
@[simp] theorem State.result_tiles (s : State) (p : StreamId) (n : Nat) (r : BitVec 8) (c : Mem) (m : Option Origin) : (s.result p n r c m).tiles = s.tiles := by simp [State.result]
@[simp] theorem State.result_tileUse (s : State) (p : StreamId) (n : Nat) (r : BitVec 8) (c : Mem) (m : Option Origin) : (s.result p n r c m).tileUse = s.tileUse := by simp [State.result]
@[simp] theorem State.result_tileMarks (s : State) (p : StreamId) (n : Nat) (r : BitVec 8) (c : Mem) (m : Option Origin) : (s.result p n r c m).tileMarks = s.tileMarks := by simp [State.result]
@[simp] theorem State.result_tilesWritten (s : State) (p : StreamId) (n : Nat) (r : BitVec 8) (c : Mem) (m : Option Origin) : (s.result p n r c m).tilesWritten = s.tilesWritten := by simp [State.result]
@[simp] theorem State.result_pool (s : State) (p : StreamId) (n : Nat) (r : BitVec 8) (c : Mem) (m : Option Origin) : (s.result p n r c m).pool = s.pool := by simp [State.result]
@[simp] theorem State.result_settings (s : State) (p : StreamId) (n : Nat) (r : BitVec 8) (c : Mem) (m : Option Origin) : (s.result p n r c m).settings = s.settings := by simp [State.result]
@[simp] theorem State.result_basin (s : State) (p : StreamId) (n : Nat) (r : BitVec 8) (c : Mem) (m : Option Origin) : (s.result p n r c m).basin = s.basin := by simp [State.result]
@[simp] theorem State.result_ledger (s : State) (p : StreamId) (n : Nat) (r : BitVec 8) (c : Mem) (m : Option Origin) : (s.result p n r c m).ledger = s.ledger := by simp [State.result]
@[simp] theorem State.result_ports (s : State) (p : StreamId) (n : Nat) (r : BitVec 8) (c : Mem) (m : Option Origin) : (s.result p n r c m).ports = s.ports := by simp [State.result]
@[simp] theorem State.result_image (s : State) (p : StreamId) (n : Nat) (r : BitVec 8) (c : Mem) (m : Option Origin) : (s.result p n r c m).image = s.image := by simp [State.result]
@[simp] theorem State.result_crossing (s : State) (p : StreamId) (n : Nat) (r : BitVec 8) (c : Mem) (m : Option Origin) : (s.result p n r c m).crossing = s.crossing := by simp [State.result]
@[simp] theorem State.result_regs (s : State) (p : StreamId) (n : Nat) (r : BitVec 8) (c : Mem) (m : Option Origin) : (s.result p n r c m).regs = s.regs := by simp [State.result]
@[simp] theorem State.result_cores (s : State) (p : StreamId) (n : Nat) (r : BitVec 8) (c : Mem) (m : Option Origin) : (s.result p n r c m).cores = s.cores := by simp [State.result]
@[simp] theorem State.result_repair (s : State) (p : StreamId) (n : Nat) (r : BitVec 8) (c : Mem) (m : Option Origin) : (s.result p n r c m).repair = s.repair := by simp [State.result]
@[simp] theorem State.result_recov (s : State) (p : StreamId) (n : Nat) (r : BitVec 8) (c : Mem) (m : Option Origin) : (s.result p n r c m).recov = s.recov := by simp [State.result]
@[simp] theorem State.result_log (s : State) (p : StreamId) (n : Nat) (r : BitVec 8) (c : Mem) (m : Option Origin) : (s.result p n r c m).log = s.log := by simp [State.result]
@[simp] theorem State.result_ao (s : State) (p : StreamId) (n : Nat) (r : BitVec 8) (c : Mem) (m : Option Origin) : (s.result p n r c m).ao = s.ao := by simp [State.result]
@[simp] theorem State.result_fuses (s : State) (p : StreamId) (n : Nat) (r : BitVec 8) (c : Mem) (m : Option Origin) : (s.result p n r c m).fuses = s.fuses := by simp [State.result]
@[simp] theorem State.result_sec (s : State) (p : StreamId) (n : Nat) (r : BitVec 8) (c : Mem) (m : Option Origin) : (s.result p n r c m).sec = s.sec := by simp [State.result]
@[simp] theorem State.result_scrub (s : State) (p : StreamId) (n : Nat) (r : BitVec 8) (c : Mem) (m : Option Origin) : (s.result p n r c m).scrub = s.scrub := by simp [State.result]
@[simp] theorem State.result_power (s : State) (p : StreamId) (n : Nat) (r : BitVec 8) (c : Mem) (m : Option Origin) : (s.result p n r c m).power = s.power := by simp [State.result]
@[simp] theorem State.result_perf (s : State) (p : StreamId) (n : Nat) (r : BitVec 8) (c : Mem) (m : Option Origin) : (s.result p n r c m).perf = s.perf := by simp [State.result]
@[simp] theorem State.result_dbg (s : State) (p : StreamId) (n : Nat) (r : BitVec 8) (c : Mem) (m : Option Origin) : (s.result p n r c m).dbg = s.dbg := by simp [State.result]
@[simp] theorem State.result_pins (s : State) (p : StreamId) (n : Nat) (r : BitVec 8) (c : Mem) (m : Option Origin) : (s.result p n r c m).pins = s.pins := by simp [State.result]
@[simp] theorem State.result_inputs (s : State) (p : StreamId) (n : Nat) (r : BitVec 8) (c : Mem) (m : Option Origin) : (s.result p n r c m).inputs = s.inputs := by simp [State.result]
@[simp] theorem State.result_held (s : State) (p : StreamId) (n : Nat) (r : BitVec 8) (c : Mem) (m : Option Origin) : (s.result p n r c m).held = s.held := by simp [State.result]
@[simp] theorem State.result_defects (s : State) (p : StreamId) (n : Nat) (r : BitVec 8) (c : Mem) (m : Option Origin) : (s.result p n r c m).defects = s.defects := by simp [State.result]
@[simp] theorem State.result_eccBad (s : State) (p : StreamId) (n : Nat) (r : BitVec 8) (c : Mem) (m : Option Origin) : (s.result p n r c m).eccBad = s.eccBad := by simp [State.result]
@[simp] theorem State.result_eccOne (s : State) (p : StreamId) (n : Nat) (r : BitVec 8) (c : Mem) (m : Option Origin) : (s.result p n r c m).eccOne = s.eccOne := by simp [State.result]
@[simp] theorem State.result_eccCover (s : State) (p : StreamId) (n : Nat) (r : BitVec 8) (c : Mem) (m : Option Origin) : (s.result p n r c m).eccCover = s.eccCover := by simp [State.result]
@[simp] theorem State.result_pending (s : State) (p : StreamId) (n : Nat) (r : BitVec 8) (c : Mem) (m : Option Origin) : (s.result p n r c m).pending = s.pending := by simp [State.result]

/-! ### faultAt -/

@[simp] theorem State.faultAt_cfg (s : State) (p : StreamId) (i : Nat) (c : BitVec 8) (a : Nat) (k : BitVec 3) : (s.faultAt p i c a k).cfg = s.cfg := by unfold State.faultAt; split <;> simp
@[simp] theorem State.faultAt_slices (s : State) (p : StreamId) (i : Nat) (c : BitVec 8) (a : Nat) (k : BitVec 3) : (s.faultAt p i c a k).slices = s.slices := by unfold State.faultAt; split <;> simp
@[simp] theorem State.faultAt_clock (s : State) (p : StreamId) (i : Nat) (c : BitVec 8) (a : Nat) (k : BitVec 3) : (s.faultAt p i c a k).clock = s.clock := by unfold State.faultAt; split <;> simp
@[simp] theorem State.faultAt_unit (s : State) (p : StreamId) (i : Nat) (c : BitVec 8) (a : Nat) (k : BitVec 3) : (s.faultAt p i c a k).unit = s.unit := by unfold State.faultAt; split <;> simp
@[simp] theorem State.faultAt_collectAt (s : State) (p : StreamId) (i : Nat) (c : BitVec 8) (a : Nat) (k : BitVec 3) : (s.faultAt p i c a k).collectAt = s.collectAt := by unfold State.faultAt; split <;> simp
@[simp] theorem State.faultAt_tiles (s : State) (p : StreamId) (i : Nat) (c : BitVec 8) (a : Nat) (k : BitVec 3) : (s.faultAt p i c a k).tiles = s.tiles := by unfold State.faultAt; split <;> simp
@[simp] theorem State.faultAt_tileUse (s : State) (p : StreamId) (i : Nat) (c : BitVec 8) (a : Nat) (k : BitVec 3) : (s.faultAt p i c a k).tileUse = s.tileUse := by unfold State.faultAt; split <;> simp
@[simp] theorem State.faultAt_tileMarks (s : State) (p : StreamId) (i : Nat) (c : BitVec 8) (a : Nat) (k : BitVec 3) : (s.faultAt p i c a k).tileMarks = s.tileMarks := by unfold State.faultAt; split <;> simp
@[simp] theorem State.faultAt_tilesWritten (s : State) (p : StreamId) (i : Nat) (c : BitVec 8) (a : Nat) (k : BitVec 3) : (s.faultAt p i c a k).tilesWritten = s.tilesWritten := by unfold State.faultAt; split <;> simp
@[simp] theorem State.faultAt_pool (s : State) (p : StreamId) (i : Nat) (c : BitVec 8) (a : Nat) (k : BitVec 3) : (s.faultAt p i c a k).pool = s.pool := by unfold State.faultAt; split <;> simp
@[simp] theorem State.faultAt_settings (s : State) (p : StreamId) (i : Nat) (c : BitVec 8) (a : Nat) (k : BitVec 3) : (s.faultAt p i c a k).settings = s.settings := by unfold State.faultAt; split <;> simp
@[simp] theorem State.faultAt_basin (s : State) (p : StreamId) (i : Nat) (c : BitVec 8) (a : Nat) (k : BitVec 3) : (s.faultAt p i c a k).basin = s.basin := by unfold State.faultAt; split <;> simp
@[simp] theorem State.faultAt_ledger (s : State) (p : StreamId) (i : Nat) (c : BitVec 8) (a : Nat) (k : BitVec 3) : (s.faultAt p i c a k).ledger = s.ledger := by unfold State.faultAt; split <;> simp
@[simp] theorem State.faultAt_ports (s : State) (p : StreamId) (i : Nat) (c : BitVec 8) (a : Nat) (k : BitVec 3) : (s.faultAt p i c a k).ports = s.ports := by unfold State.faultAt; split <;> simp
@[simp] theorem State.faultAt_image (s : State) (p : StreamId) (i : Nat) (c : BitVec 8) (a : Nat) (k : BitVec 3) : (s.faultAt p i c a k).image = s.image := by unfold State.faultAt; split <;> simp
@[simp] theorem State.faultAt_crossing (s : State) (p : StreamId) (i : Nat) (c : BitVec 8) (a : Nat) (k : BitVec 3) : (s.faultAt p i c a k).crossing = s.crossing := by unfold State.faultAt; split <;> simp
@[simp] theorem State.faultAt_regs (s : State) (p : StreamId) (i : Nat) (c : BitVec 8) (a : Nat) (k : BitVec 3) : (s.faultAt p i c a k).regs = s.regs := by unfold State.faultAt; split <;> simp
@[simp] theorem State.faultAt_cores (s : State) (p : StreamId) (i : Nat) (c : BitVec 8) (a : Nat) (k : BitVec 3) : (s.faultAt p i c a k).cores = s.cores := by unfold State.faultAt; split <;> simp
@[simp] theorem State.faultAt_repair (s : State) (p : StreamId) (i : Nat) (c : BitVec 8) (a : Nat) (k : BitVec 3) : (s.faultAt p i c a k).repair = s.repair := by unfold State.faultAt; split <;> simp
@[simp] theorem State.faultAt_recov (s : State) (p : StreamId) (i : Nat) (c : BitVec 8) (a : Nat) (k : BitVec 3) : (s.faultAt p i c a k).recov = s.recov := by unfold State.faultAt; split <;> simp
@[simp] theorem State.faultAt_log (s : State) (p : StreamId) (i : Nat) (c : BitVec 8) (a : Nat) (k : BitVec 3) : (s.faultAt p i c a k).log = s.log := by unfold State.faultAt; split <;> simp
@[simp] theorem State.faultAt_ao (s : State) (p : StreamId) (i : Nat) (c : BitVec 8) (a : Nat) (k : BitVec 3) : (s.faultAt p i c a k).ao = s.ao := by unfold State.faultAt; split <;> simp
@[simp] theorem State.faultAt_fuses (s : State) (p : StreamId) (i : Nat) (c : BitVec 8) (a : Nat) (k : BitVec 3) : (s.faultAt p i c a k).fuses = s.fuses := by unfold State.faultAt; split <;> simp
@[simp] theorem State.faultAt_sec (s : State) (p : StreamId) (i : Nat) (c : BitVec 8) (a : Nat) (k : BitVec 3) : (s.faultAt p i c a k).sec = s.sec := by unfold State.faultAt; split <;> simp
@[simp] theorem State.faultAt_scrub (s : State) (p : StreamId) (i : Nat) (c : BitVec 8) (a : Nat) (k : BitVec 3) : (s.faultAt p i c a k).scrub = s.scrub := by unfold State.faultAt; split <;> simp
@[simp] theorem State.faultAt_power (s : State) (p : StreamId) (i : Nat) (c : BitVec 8) (a : Nat) (k : BitVec 3) : (s.faultAt p i c a k).power = s.power := by unfold State.faultAt; split <;> simp
@[simp] theorem State.faultAt_perf (s : State) (p : StreamId) (i : Nat) (c : BitVec 8) (a : Nat) (k : BitVec 3) : (s.faultAt p i c a k).perf = s.perf := by unfold State.faultAt; split <;> simp
@[simp] theorem State.faultAt_dbg (s : State) (p : StreamId) (i : Nat) (c : BitVec 8) (a : Nat) (k : BitVec 3) : (s.faultAt p i c a k).dbg = s.dbg := by unfold State.faultAt; split <;> simp
@[simp] theorem State.faultAt_pins (s : State) (p : StreamId) (i : Nat) (c : BitVec 8) (a : Nat) (k : BitVec 3) : (s.faultAt p i c a k).pins = s.pins := by unfold State.faultAt; split <;> simp
@[simp] theorem State.faultAt_inputs (s : State) (p : StreamId) (i : Nat) (c : BitVec 8) (a : Nat) (k : BitVec 3) : (s.faultAt p i c a k).inputs = s.inputs := by unfold State.faultAt; split <;> simp
@[simp] theorem State.faultAt_held (s : State) (p : StreamId) (i : Nat) (c : BitVec 8) (a : Nat) (k : BitVec 3) : (s.faultAt p i c a k).held = s.held := by unfold State.faultAt; split <;> simp
@[simp] theorem State.faultAt_defects (s : State) (p : StreamId) (i : Nat) (c : BitVec 8) (a : Nat) (k : BitVec 3) : (s.faultAt p i c a k).defects = s.defects := by unfold State.faultAt; split <;> simp
@[simp] theorem State.faultAt_eccBad (s : State) (p : StreamId) (i : Nat) (c : BitVec 8) (a : Nat) (k : BitVec 3) : (s.faultAt p i c a k).eccBad = s.eccBad := by unfold State.faultAt; split <;> simp
@[simp] theorem State.faultAt_eccOne (s : State) (p : StreamId) (i : Nat) (c : BitVec 8) (a : Nat) (k : BitVec 3) : (s.faultAt p i c a k).eccOne = s.eccOne := by unfold State.faultAt; split <;> simp
@[simp] theorem State.faultAt_eccCover (s : State) (p : StreamId) (i : Nat) (c : BitVec 8) (a : Nat) (k : BitVec 3) : (s.faultAt p i c a k).eccCover = s.eccCover := by unfold State.faultAt; split <;> simp
@[simp] theorem State.faultAt_pending (s : State) (p : StreamId) (i : Nat) (c : BitVec 8) (a : Nat) (k : BitVec 3) : (s.faultAt p i c a k).pending = s.pending := by unfold State.faultAt; split <;> simp

/-! ### advance -/

@[simp] theorem State.advance_cfg (s : State) (p : StreamId) (e : LoopEnd) : (s.advance p e).cfg = s.cfg := by unfold State.advance; split <;> rfl
@[simp] theorem State.advance_slices (s : State) (p : StreamId) (e : LoopEnd) : (s.advance p e).slices = s.slices := by unfold State.advance; split <;> rfl
@[simp] theorem State.advance_clock (s : State) (p : StreamId) (e : LoopEnd) : (s.advance p e).clock = s.clock := by unfold State.advance; split <;> rfl
@[simp] theorem State.advance_unit (s : State) (p : StreamId) (e : LoopEnd) : (s.advance p e).unit = s.unit := by unfold State.advance; split <;> rfl
@[simp] theorem State.advance_collector (s : State) (p : StreamId) (e : LoopEnd) : (s.advance p e).collector = s.collector := by unfold State.advance; split <;> rfl
@[simp] theorem State.advance_collectAt (s : State) (p : StreamId) (e : LoopEnd) : (s.advance p e).collectAt = s.collectAt := by unfold State.advance; split <;> rfl
@[simp] theorem State.advance_inflight (s : State) (p : StreamId) (e : LoopEnd) : (s.advance p e).inflight = s.inflight := by unfold State.advance; split <;> rfl
@[simp] theorem State.advance_cycle (s : State) (p : StreamId) (e : LoopEnd) : (s.advance p e).cycle = s.cycle := by unfold State.advance; split <;> rfl
@[simp] theorem State.advance_tiles (s : State) (p : StreamId) (e : LoopEnd) : (s.advance p e).tiles = s.tiles := by unfold State.advance; split <;> rfl
@[simp] theorem State.advance_tileUse (s : State) (p : StreamId) (e : LoopEnd) : (s.advance p e).tileUse = s.tileUse := by unfold State.advance; split <;> rfl
@[simp] theorem State.advance_tileMarks (s : State) (p : StreamId) (e : LoopEnd) : (s.advance p e).tileMarks = s.tileMarks := by unfold State.advance; split <;> rfl
@[simp] theorem State.advance_tilesWritten (s : State) (p : StreamId) (e : LoopEnd) : (s.advance p e).tilesWritten = s.tilesWritten := by unfold State.advance; split <;> rfl
@[simp] theorem State.advance_pool (s : State) (p : StreamId) (e : LoopEnd) : (s.advance p e).pool = s.pool := by unfold State.advance; split <;> rfl
@[simp] theorem State.advance_settings (s : State) (p : StreamId) (e : LoopEnd) : (s.advance p e).settings = s.settings := by unfold State.advance; split <;> rfl
@[simp] theorem State.advance_basin (s : State) (p : StreamId) (e : LoopEnd) : (s.advance p e).basin = s.basin := by unfold State.advance; split <;> rfl
@[simp] theorem State.advance_ledger (s : State) (p : StreamId) (e : LoopEnd) : (s.advance p e).ledger = s.ledger := by unfold State.advance; split <;> rfl
@[simp] theorem State.advance_ports (s : State) (p : StreamId) (e : LoopEnd) : (s.advance p e).ports = s.ports := by unfold State.advance; split <;> rfl
@[simp] theorem State.advance_image (s : State) (p : StreamId) (e : LoopEnd) : (s.advance p e).image = s.image := by unfold State.advance; split <;> rfl
@[simp] theorem State.advance_crossing (s : State) (p : StreamId) (e : LoopEnd) : (s.advance p e).crossing = s.crossing := by unfold State.advance; split <;> rfl
@[simp] theorem State.advance_regs (s : State) (p : StreamId) (e : LoopEnd) : (s.advance p e).regs = s.regs := by unfold State.advance; split <;> rfl
@[simp] theorem State.advance_cores (s : State) (p : StreamId) (e : LoopEnd) : (s.advance p e).cores = s.cores := by unfold State.advance; split <;> rfl
@[simp] theorem State.advance_repair (s : State) (p : StreamId) (e : LoopEnd) : (s.advance p e).repair = s.repair := by unfold State.advance; split <;> rfl
@[simp] theorem State.advance_recov (s : State) (p : StreamId) (e : LoopEnd) : (s.advance p e).recov = s.recov := by unfold State.advance; split <;> rfl
@[simp] theorem State.advance_log (s : State) (p : StreamId) (e : LoopEnd) : (s.advance p e).log = s.log := by unfold State.advance; split <;> rfl
@[simp] theorem State.advance_ao (s : State) (p : StreamId) (e : LoopEnd) : (s.advance p e).ao = s.ao := by unfold State.advance; split <;> rfl
@[simp] theorem State.advance_fuses (s : State) (p : StreamId) (e : LoopEnd) : (s.advance p e).fuses = s.fuses := by unfold State.advance; split <;> rfl
@[simp] theorem State.advance_sec (s : State) (p : StreamId) (e : LoopEnd) : (s.advance p e).sec = s.sec := by unfold State.advance; split <;> rfl
@[simp] theorem State.advance_scrub (s : State) (p : StreamId) (e : LoopEnd) : (s.advance p e).scrub = s.scrub := by unfold State.advance; split <;> rfl
@[simp] theorem State.advance_power (s : State) (p : StreamId) (e : LoopEnd) : (s.advance p e).power = s.power := by unfold State.advance; split <;> rfl
@[simp] theorem State.advance_perf (s : State) (p : StreamId) (e : LoopEnd) : (s.advance p e).perf = s.perf := by unfold State.advance; split <;> rfl
@[simp] theorem State.advance_dbg (s : State) (p : StreamId) (e : LoopEnd) : (s.advance p e).dbg = s.dbg := by unfold State.advance; split <;> rfl
@[simp] theorem State.advance_pins (s : State) (p : StreamId) (e : LoopEnd) : (s.advance p e).pins = s.pins := by unfold State.advance; split <;> rfl
@[simp] theorem State.advance_inputs (s : State) (p : StreamId) (e : LoopEnd) : (s.advance p e).inputs = s.inputs := by unfold State.advance; split <;> rfl
@[simp] theorem State.advance_held (s : State) (p : StreamId) (e : LoopEnd) : (s.advance p e).held = s.held := by unfold State.advance; split <;> rfl
@[simp] theorem State.advance_defects (s : State) (p : StreamId) (e : LoopEnd) : (s.advance p e).defects = s.defects := by unfold State.advance; split <;> rfl
@[simp] theorem State.advance_eccBad (s : State) (p : StreamId) (e : LoopEnd) : (s.advance p e).eccBad = s.eccBad := by unfold State.advance; split <;> rfl
@[simp] theorem State.advance_eccOne (s : State) (p : StreamId) (e : LoopEnd) : (s.advance p e).eccOne = s.eccOne := by unfold State.advance; split <;> rfl
@[simp] theorem State.advance_eccCover (s : State) (p : StreamId) (e : LoopEnd) : (s.advance p e).eccCover = s.eccCover := by unfold State.advance; split <;> rfl
@[simp] theorem State.advance_pending (s : State) (p : StreamId) (e : LoopEnd) : (s.advance p e).pending = s.pending := by unfold State.advance; split <;> rfl

/-! ### accept -/

@[simp] theorem State.accept_cfg (s : State) (p : StreamId) : (s.accept p).cfg = s.cfg := by simp [State.accept]
@[simp] theorem State.accept_slices (s : State) (p : StreamId) : (s.accept p).slices = s.slices := by simp [State.accept]
@[simp] theorem State.accept_clock (s : State) (p : StreamId) : (s.accept p).clock = s.clock := by simp [State.accept]
@[simp] theorem State.accept_collector (s : State) (p : StreamId) : (s.accept p).collector = s.collector := by simp [State.accept]
@[simp] theorem State.accept_collectAt (s : State) (p : StreamId) : (s.accept p).collectAt = s.collectAt := by simp [State.accept]
@[simp] theorem State.accept_inflight (s : State) (p : StreamId) : (s.accept p).inflight = s.inflight := by simp [State.accept]
@[simp] theorem State.accept_cycle (s : State) (p : StreamId) : (s.accept p).cycle = s.cycle := by simp [State.accept]
@[simp] theorem State.accept_tiles (s : State) (p : StreamId) : (s.accept p).tiles = s.tiles := by simp [State.accept]
@[simp] theorem State.accept_tileUse (s : State) (p : StreamId) : (s.accept p).tileUse = s.tileUse := by simp [State.accept]
@[simp] theorem State.accept_tileMarks (s : State) (p : StreamId) : (s.accept p).tileMarks = s.tileMarks := by simp [State.accept]
@[simp] theorem State.accept_tilesWritten (s : State) (p : StreamId) : (s.accept p).tilesWritten = s.tilesWritten := by simp [State.accept]
@[simp] theorem State.accept_pool (s : State) (p : StreamId) : (s.accept p).pool = s.pool := by simp [State.accept]
@[simp] theorem State.accept_settings (s : State) (p : StreamId) : (s.accept p).settings = s.settings := by simp [State.accept]
@[simp] theorem State.accept_basin (s : State) (p : StreamId) : (s.accept p).basin = s.basin := by simp [State.accept]
@[simp] theorem State.accept_ledger (s : State) (p : StreamId) : (s.accept p).ledger = s.ledger := by simp [State.accept]
@[simp] theorem State.accept_ports (s : State) (p : StreamId) : (s.accept p).ports = s.ports := by simp [State.accept]
@[simp] theorem State.accept_image (s : State) (p : StreamId) : (s.accept p).image = s.image := by simp [State.accept]
@[simp] theorem State.accept_crossing (s : State) (p : StreamId) : (s.accept p).crossing = s.crossing := by simp [State.accept]
@[simp] theorem State.accept_regs (s : State) (p : StreamId) : (s.accept p).regs = s.regs := by simp [State.accept]
@[simp] theorem State.accept_cores (s : State) (p : StreamId) : (s.accept p).cores = s.cores := by simp [State.accept]
@[simp] theorem State.accept_repair (s : State) (p : StreamId) : (s.accept p).repair = s.repair := by simp [State.accept]
@[simp] theorem State.accept_recov (s : State) (p : StreamId) : (s.accept p).recov = s.recov := by simp [State.accept]
@[simp] theorem State.accept_log (s : State) (p : StreamId) : (s.accept p).log = s.log := by simp [State.accept]
@[simp] theorem State.accept_ao (s : State) (p : StreamId) : (s.accept p).ao = s.ao := by simp [State.accept]
@[simp] theorem State.accept_fuses (s : State) (p : StreamId) : (s.accept p).fuses = s.fuses := by simp [State.accept]
@[simp] theorem State.accept_sec (s : State) (p : StreamId) : (s.accept p).sec = s.sec := by simp [State.accept]
@[simp] theorem State.accept_scrub (s : State) (p : StreamId) : (s.accept p).scrub = s.scrub := by simp [State.accept]
@[simp] theorem State.accept_power (s : State) (p : StreamId) : (s.accept p).power = s.power := by simp [State.accept]
@[simp] theorem State.accept_dbg (s : State) (p : StreamId) : (s.accept p).dbg = s.dbg := by simp [State.accept]
@[simp] theorem State.accept_pins (s : State) (p : StreamId) : (s.accept p).pins = s.pins := by simp [State.accept]
@[simp] theorem State.accept_inputs (s : State) (p : StreamId) : (s.accept p).inputs = s.inputs := by simp [State.accept]
@[simp] theorem State.accept_held (s : State) (p : StreamId) : (s.accept p).held = s.held := by simp [State.accept]
@[simp] theorem State.accept_defects (s : State) (p : StreamId) : (s.accept p).defects = s.defects := by simp [State.accept]
@[simp] theorem State.accept_eccBad (s : State) (p : StreamId) : (s.accept p).eccBad = s.eccBad := by simp [State.accept]
@[simp] theorem State.accept_eccOne (s : State) (p : StreamId) : (s.accept p).eccOne = s.eccOne := by simp [State.accept]
@[simp] theorem State.accept_eccCover (s : State) (p : StreamId) : (s.accept p).eccCover = s.eccCover := by simp [State.accept]
@[simp] theorem State.accept_pending (s : State) (p : StreamId) : (s.accept p).pending = s.pending := by simp [State.accept]

/-! ### evalWait -/

@[simp] theorem State.evalWait_cfg (s : State) (p : StreamId) : (s.evalWait p).cfg = s.cfg := by unfold State.evalWait; repeat' (first | rfl | split)
@[simp] theorem State.evalWait_slices (s : State) (p : StreamId) : (s.evalWait p).slices = s.slices := by unfold State.evalWait; repeat' (first | rfl | split)
@[simp] theorem State.evalWait_clock (s : State) (p : StreamId) : (s.evalWait p).clock = s.clock := by unfold State.evalWait; repeat' (first | rfl | split)
@[simp] theorem State.evalWait_unit (s : State) (p : StreamId) : (s.evalWait p).unit = s.unit := by unfold State.evalWait; repeat' (first | rfl | split)
@[simp] theorem State.evalWait_collector (s : State) (p : StreamId) : (s.evalWait p).collector = s.collector := by unfold State.evalWait; repeat' (first | rfl | split)
@[simp] theorem State.evalWait_collectAt (s : State) (p : StreamId) : (s.evalWait p).collectAt = s.collectAt := by unfold State.evalWait; repeat' (first | rfl | split)
@[simp] theorem State.evalWait_inflight (s : State) (p : StreamId) : (s.evalWait p).inflight = s.inflight := by unfold State.evalWait; repeat' (first | rfl | split)
@[simp] theorem State.evalWait_cycle (s : State) (p : StreamId) : (s.evalWait p).cycle = s.cycle := by unfold State.evalWait; repeat' (first | rfl | split)
@[simp] theorem State.evalWait_tiles (s : State) (p : StreamId) : (s.evalWait p).tiles = s.tiles := by unfold State.evalWait; repeat' (first | rfl | split)
@[simp] theorem State.evalWait_tileUse (s : State) (p : StreamId) : (s.evalWait p).tileUse = s.tileUse := by unfold State.evalWait; repeat' (first | rfl | split)
@[simp] theorem State.evalWait_tileMarks (s : State) (p : StreamId) : (s.evalWait p).tileMarks = s.tileMarks := by unfold State.evalWait; repeat' (first | rfl | split)
@[simp] theorem State.evalWait_tilesWritten (s : State) (p : StreamId) : (s.evalWait p).tilesWritten = s.tilesWritten := by unfold State.evalWait; repeat' (first | rfl | split)
@[simp] theorem State.evalWait_pool (s : State) (p : StreamId) : (s.evalWait p).pool = s.pool := by unfold State.evalWait; repeat' (first | rfl | split)
@[simp] theorem State.evalWait_settings (s : State) (p : StreamId) : (s.evalWait p).settings = s.settings := by unfold State.evalWait; repeat' (first | rfl | split)
@[simp] theorem State.evalWait_basin (s : State) (p : StreamId) : (s.evalWait p).basin = s.basin := by unfold State.evalWait; repeat' (first | rfl | split)
@[simp] theorem State.evalWait_ledger (s : State) (p : StreamId) : (s.evalWait p).ledger = s.ledger := by unfold State.evalWait; repeat' (first | rfl | split)
@[simp] theorem State.evalWait_ports (s : State) (p : StreamId) : (s.evalWait p).ports = s.ports := by unfold State.evalWait; repeat' (first | rfl | split)
@[simp] theorem State.evalWait_image (s : State) (p : StreamId) : (s.evalWait p).image = s.image := by unfold State.evalWait; repeat' (first | rfl | split)
@[simp] theorem State.evalWait_crossing (s : State) (p : StreamId) : (s.evalWait p).crossing = s.crossing := by unfold State.evalWait; repeat' (first | rfl | split)
@[simp] theorem State.evalWait_regs (s : State) (p : StreamId) : (s.evalWait p).regs = s.regs := by unfold State.evalWait; repeat' (first | rfl | split)
@[simp] theorem State.evalWait_cores (s : State) (p : StreamId) : (s.evalWait p).cores = s.cores := by unfold State.evalWait; repeat' (first | rfl | split)
@[simp] theorem State.evalWait_repair (s : State) (p : StreamId) : (s.evalWait p).repair = s.repair := by unfold State.evalWait; repeat' (first | rfl | split)
@[simp] theorem State.evalWait_recov (s : State) (p : StreamId) : (s.evalWait p).recov = s.recov := by unfold State.evalWait; repeat' (first | rfl | split)
@[simp] theorem State.evalWait_log (s : State) (p : StreamId) : (s.evalWait p).log = s.log := by unfold State.evalWait; repeat' (first | rfl | split)
@[simp] theorem State.evalWait_ao (s : State) (p : StreamId) : (s.evalWait p).ao = s.ao := by unfold State.evalWait; repeat' (first | rfl | split)
@[simp] theorem State.evalWait_fuses (s : State) (p : StreamId) : (s.evalWait p).fuses = s.fuses := by unfold State.evalWait; repeat' (first | rfl | split)
@[simp] theorem State.evalWait_sec (s : State) (p : StreamId) : (s.evalWait p).sec = s.sec := by unfold State.evalWait; repeat' (first | rfl | split)
@[simp] theorem State.evalWait_scrub (s : State) (p : StreamId) : (s.evalWait p).scrub = s.scrub := by unfold State.evalWait; repeat' (first | rfl | split)
@[simp] theorem State.evalWait_power (s : State) (p : StreamId) : (s.evalWait p).power = s.power := by unfold State.evalWait; repeat' (first | rfl | split)
@[simp] theorem State.evalWait_perf (s : State) (p : StreamId) : (s.evalWait p).perf = s.perf := by unfold State.evalWait; repeat' (first | rfl | split)
@[simp] theorem State.evalWait_dbg (s : State) (p : StreamId) : (s.evalWait p).dbg = s.dbg := by unfold State.evalWait; repeat' (first | rfl | split)
@[simp] theorem State.evalWait_pins (s : State) (p : StreamId) : (s.evalWait p).pins = s.pins := by unfold State.evalWait; repeat' (first | rfl | split)
@[simp] theorem State.evalWait_inputs (s : State) (p : StreamId) : (s.evalWait p).inputs = s.inputs := by unfold State.evalWait; repeat' (first | rfl | split)
@[simp] theorem State.evalWait_held (s : State) (p : StreamId) : (s.evalWait p).held = s.held := by unfold State.evalWait; repeat' (first | rfl | split)
@[simp] theorem State.evalWait_defects (s : State) (p : StreamId) : (s.evalWait p).defects = s.defects := by unfold State.evalWait; repeat' (first | rfl | split)
@[simp] theorem State.evalWait_eccBad (s : State) (p : StreamId) : (s.evalWait p).eccBad = s.eccBad := by unfold State.evalWait; repeat' (first | rfl | split)
@[simp] theorem State.evalWait_eccOne (s : State) (p : StreamId) : (s.evalWait p).eccOne = s.eccOne := by unfold State.evalWait; repeat' (first | rfl | split)
@[simp] theorem State.evalWait_eccCover (s : State) (p : StreamId) : (s.evalWait p).eccCover = s.eccCover := by unfold State.evalWait; repeat' (first | rfl | split)
@[simp] theorem State.evalWait_pending (s : State) (p : StreamId) : (s.evalWait p).pending = s.pending := by unfold State.evalWait; repeat' (first | rfl | split)

/-! ### coverWords -/

@[simp] theorem State.coverWords_cfg (s : State) (st : Store) (c : Mem) : (s.coverWords st c).cfg = s.cfg := by unfold State.coverWords; dsimp only; repeat' (first | rfl | split)
@[simp] theorem State.coverWords_slices (s : State) (st : Store) (c : Mem) : (s.coverWords st c).slices = s.slices := by unfold State.coverWords; dsimp only; repeat' (first | rfl | split)
@[simp] theorem State.coverWords_clock (s : State) (st : Store) (c : Mem) : (s.coverWords st c).clock = s.clock := by unfold State.coverWords; dsimp only; repeat' (first | rfl | split)
@[simp] theorem State.coverWords_unit (s : State) (st : Store) (c : Mem) : (s.coverWords st c).unit = s.unit := by unfold State.coverWords; dsimp only; repeat' (first | rfl | split)
@[simp] theorem State.coverWords_streams (s : State) (st : Store) (c : Mem) : (s.coverWords st c).streams = s.streams := by unfold State.coverWords; dsimp only; repeat' (first | rfl | split)
@[simp] theorem State.coverWords_collector (s : State) (st : Store) (c : Mem) : (s.coverWords st c).collector = s.collector := by unfold State.coverWords; dsimp only; repeat' (first | rfl | split)
@[simp] theorem State.coverWords_collectAt (s : State) (st : Store) (c : Mem) : (s.coverWords st c).collectAt = s.collectAt := by unfold State.coverWords; dsimp only; repeat' (first | rfl | split)
@[simp] theorem State.coverWords_inflight (s : State) (st : Store) (c : Mem) : (s.coverWords st c).inflight = s.inflight := by unfold State.coverWords; dsimp only; repeat' (first | rfl | split)
@[simp] theorem State.coverWords_cycle (s : State) (st : Store) (c : Mem) : (s.coverWords st c).cycle = s.cycle := by unfold State.coverWords; dsimp only; repeat' (first | rfl | split)
@[simp] theorem State.coverWords_tiles (s : State) (st : Store) (c : Mem) : (s.coverWords st c).tiles = s.tiles := by unfold State.coverWords; dsimp only; repeat' (first | rfl | split)
@[simp] theorem State.coverWords_tileUse (s : State) (st : Store) (c : Mem) : (s.coverWords st c).tileUse = s.tileUse := by unfold State.coverWords; dsimp only; repeat' (first | rfl | split)
@[simp] theorem State.coverWords_tileMarks (s : State) (st : Store) (c : Mem) : (s.coverWords st c).tileMarks = s.tileMarks := by unfold State.coverWords; dsimp only; repeat' (first | rfl | split)
@[simp] theorem State.coverWords_tilesWritten (s : State) (st : Store) (c : Mem) : (s.coverWords st c).tilesWritten = s.tilesWritten := by unfold State.coverWords; dsimp only; repeat' (first | rfl | split)
@[simp] theorem State.coverWords_pool (s : State) (st : Store) (c : Mem) : (s.coverWords st c).pool = s.pool := by unfold State.coverWords; dsimp only; repeat' (first | rfl | split)
@[simp] theorem State.coverWords_settings (s : State) (st : Store) (c : Mem) : (s.coverWords st c).settings = s.settings := by unfold State.coverWords; dsimp only; repeat' (first | rfl | split)
@[simp] theorem State.coverWords_basin (s : State) (st : Store) (c : Mem) : (s.coverWords st c).basin = s.basin := by unfold State.coverWords; dsimp only; repeat' (first | rfl | split)
@[simp] theorem State.coverWords_ledger (s : State) (st : Store) (c : Mem) : (s.coverWords st c).ledger = s.ledger := by unfold State.coverWords; dsimp only; repeat' (first | rfl | split)
@[simp] theorem State.coverWords_ports (s : State) (st : Store) (c : Mem) : (s.coverWords st c).ports = s.ports := by unfold State.coverWords; dsimp only; repeat' (first | rfl | split)
@[simp] theorem State.coverWords_image (s : State) (st : Store) (c : Mem) : (s.coverWords st c).image = s.image := by unfold State.coverWords; dsimp only; repeat' (first | rfl | split)
@[simp] theorem State.coverWords_crossing (s : State) (st : Store) (c : Mem) : (s.coverWords st c).crossing = s.crossing := by unfold State.coverWords; dsimp only; repeat' (first | rfl | split)
@[simp] theorem State.coverWords_regs (s : State) (st : Store) (c : Mem) : (s.coverWords st c).regs = s.regs := by unfold State.coverWords; dsimp only; repeat' (first | rfl | split)
@[simp] theorem State.coverWords_cores (s : State) (st : Store) (c : Mem) : (s.coverWords st c).cores = s.cores := by unfold State.coverWords; dsimp only; repeat' (first | rfl | split)
@[simp] theorem State.coverWords_repair (s : State) (st : Store) (c : Mem) : (s.coverWords st c).repair = s.repair := by unfold State.coverWords; dsimp only; repeat' (first | rfl | split)
@[simp] theorem State.coverWords_recov (s : State) (st : Store) (c : Mem) : (s.coverWords st c).recov = s.recov := by unfold State.coverWords; dsimp only; repeat' (first | rfl | split)
@[simp] theorem State.coverWords_log (s : State) (st : Store) (c : Mem) : (s.coverWords st c).log = s.log := by unfold State.coverWords; dsimp only; repeat' (first | rfl | split)
@[simp] theorem State.coverWords_ao (s : State) (st : Store) (c : Mem) : (s.coverWords st c).ao = s.ao := by unfold State.coverWords; dsimp only; repeat' (first | rfl | split)
@[simp] theorem State.coverWords_fuses (s : State) (st : Store) (c : Mem) : (s.coverWords st c).fuses = s.fuses := by unfold State.coverWords; dsimp only; repeat' (first | rfl | split)
@[simp] theorem State.coverWords_sec (s : State) (st : Store) (c : Mem) : (s.coverWords st c).sec = s.sec := by unfold State.coverWords; dsimp only; repeat' (first | rfl | split)
@[simp] theorem State.coverWords_scrub (s : State) (st : Store) (c : Mem) : (s.coverWords st c).scrub = s.scrub := by unfold State.coverWords; dsimp only; repeat' (first | rfl | split)
@[simp] theorem State.coverWords_power (s : State) (st : Store) (c : Mem) : (s.coverWords st c).power = s.power := by unfold State.coverWords; dsimp only; repeat' (first | rfl | split)
@[simp] theorem State.coverWords_perf (s : State) (st : Store) (c : Mem) : (s.coverWords st c).perf = s.perf := by unfold State.coverWords; dsimp only; repeat' (first | rfl | split)
@[simp] theorem State.coverWords_dbg (s : State) (st : Store) (c : Mem) : (s.coverWords st c).dbg = s.dbg := by unfold State.coverWords; dsimp only; repeat' (first | rfl | split)
@[simp] theorem State.coverWords_pins (s : State) (st : Store) (c : Mem) : (s.coverWords st c).pins = s.pins := by unfold State.coverWords; dsimp only; repeat' (first | rfl | split)
@[simp] theorem State.coverWords_inputs (s : State) (st : Store) (c : Mem) : (s.coverWords st c).inputs = s.inputs := by unfold State.coverWords; dsimp only; repeat' (first | rfl | split)
@[simp] theorem State.coverWords_held (s : State) (st : Store) (c : Mem) : (s.coverWords st c).held = s.held := by unfold State.coverWords; dsimp only; repeat' (first | rfl | split)
@[simp] theorem State.coverWords_defects (s : State) (st : Store) (c : Mem) : (s.coverWords st c).defects = s.defects := by unfold State.coverWords; dsimp only; repeat' (first | rfl | split)
@[simp] theorem State.coverWords_pending (s : State) (st : Store) (c : Mem) : (s.coverWords st c).pending = s.pending := by unfold State.coverWords; dsimp only; repeat' (first | rfl | split)

/-! ### firstWait -/

@[simp] theorem State.firstWait_cfg (s : State) (p : StreamId) : (s.firstWait p).cfg = s.cfg := by unfold State.firstWait; split <;> simp
@[simp] theorem State.firstWait_slices (s : State) (p : StreamId) : (s.firstWait p).slices = s.slices := by unfold State.firstWait; split <;> simp
@[simp] theorem State.firstWait_clock (s : State) (p : StreamId) : (s.firstWait p).clock = s.clock := by unfold State.firstWait; split <;> simp
@[simp] theorem State.firstWait_unit (s : State) (p : StreamId) : (s.firstWait p).unit = s.unit := by unfold State.firstWait; split <;> simp
@[simp] theorem State.firstWait_collector (s : State) (p : StreamId) : (s.firstWait p).collector = s.collector := by unfold State.firstWait; split <;> simp
@[simp] theorem State.firstWait_collectAt (s : State) (p : StreamId) : (s.firstWait p).collectAt = s.collectAt := by unfold State.firstWait; split <;> simp
@[simp] theorem State.firstWait_inflight (s : State) (p : StreamId) : (s.firstWait p).inflight = s.inflight := by unfold State.firstWait; split <;> simp
@[simp] theorem State.firstWait_cycle (s : State) (p : StreamId) : (s.firstWait p).cycle = s.cycle := by unfold State.firstWait; split <;> simp
@[simp] theorem State.firstWait_tiles (s : State) (p : StreamId) : (s.firstWait p).tiles = s.tiles := by unfold State.firstWait; split <;> simp
@[simp] theorem State.firstWait_tileUse (s : State) (p : StreamId) : (s.firstWait p).tileUse = s.tileUse := by unfold State.firstWait; split <;> simp
@[simp] theorem State.firstWait_tileMarks (s : State) (p : StreamId) : (s.firstWait p).tileMarks = s.tileMarks := by unfold State.firstWait; split <;> simp
@[simp] theorem State.firstWait_tilesWritten (s : State) (p : StreamId) : (s.firstWait p).tilesWritten = s.tilesWritten := by unfold State.firstWait; split <;> simp
@[simp] theorem State.firstWait_pool (s : State) (p : StreamId) : (s.firstWait p).pool = s.pool := by unfold State.firstWait; split <;> simp
@[simp] theorem State.firstWait_settings (s : State) (p : StreamId) : (s.firstWait p).settings = s.settings := by unfold State.firstWait; split <;> simp
@[simp] theorem State.firstWait_basin (s : State) (p : StreamId) : (s.firstWait p).basin = s.basin := by unfold State.firstWait; split <;> simp
@[simp] theorem State.firstWait_ledger (s : State) (p : StreamId) : (s.firstWait p).ledger = s.ledger := by unfold State.firstWait; split <;> simp
@[simp] theorem State.firstWait_ports (s : State) (p : StreamId) : (s.firstWait p).ports = s.ports := by unfold State.firstWait; split <;> simp
@[simp] theorem State.firstWait_image (s : State) (p : StreamId) : (s.firstWait p).image = s.image := by unfold State.firstWait; split <;> simp
@[simp] theorem State.firstWait_crossing (s : State) (p : StreamId) : (s.firstWait p).crossing = s.crossing := by unfold State.firstWait; split <;> simp
@[simp] theorem State.firstWait_regs (s : State) (p : StreamId) : (s.firstWait p).regs = s.regs := by unfold State.firstWait; split <;> simp
@[simp] theorem State.firstWait_cores (s : State) (p : StreamId) : (s.firstWait p).cores = s.cores := by unfold State.firstWait; split <;> simp
@[simp] theorem State.firstWait_repair (s : State) (p : StreamId) : (s.firstWait p).repair = s.repair := by unfold State.firstWait; split <;> simp
@[simp] theorem State.firstWait_recov (s : State) (p : StreamId) : (s.firstWait p).recov = s.recov := by unfold State.firstWait; split <;> simp
@[simp] theorem State.firstWait_log (s : State) (p : StreamId) : (s.firstWait p).log = s.log := by unfold State.firstWait; split <;> simp
@[simp] theorem State.firstWait_ao (s : State) (p : StreamId) : (s.firstWait p).ao = s.ao := by unfold State.firstWait; split <;> simp
@[simp] theorem State.firstWait_fuses (s : State) (p : StreamId) : (s.firstWait p).fuses = s.fuses := by unfold State.firstWait; split <;> simp
@[simp] theorem State.firstWait_sec (s : State) (p : StreamId) : (s.firstWait p).sec = s.sec := by unfold State.firstWait; split <;> simp
@[simp] theorem State.firstWait_scrub (s : State) (p : StreamId) : (s.firstWait p).scrub = s.scrub := by unfold State.firstWait; split <;> simp
@[simp] theorem State.firstWait_power (s : State) (p : StreamId) : (s.firstWait p).power = s.power := by unfold State.firstWait; split <;> simp
@[simp] theorem State.firstWait_perf (s : State) (p : StreamId) : (s.firstWait p).perf = s.perf := by unfold State.firstWait; split <;> simp
@[simp] theorem State.firstWait_dbg (s : State) (p : StreamId) : (s.firstWait p).dbg = s.dbg := by unfold State.firstWait; split <;> simp
@[simp] theorem State.firstWait_pins (s : State) (p : StreamId) : (s.firstWait p).pins = s.pins := by unfold State.firstWait; split <;> simp
@[simp] theorem State.firstWait_inputs (s : State) (p : StreamId) : (s.firstWait p).inputs = s.inputs := by unfold State.firstWait; split <;> simp
@[simp] theorem State.firstWait_held (s : State) (p : StreamId) : (s.firstWait p).held = s.held := by unfold State.firstWait; split <;> simp
@[simp] theorem State.firstWait_defects (s : State) (p : StreamId) : (s.firstWait p).defects = s.defects := by unfold State.firstWait; split <;> simp
@[simp] theorem State.firstWait_eccBad (s : State) (p : StreamId) : (s.firstWait p).eccBad = s.eccBad := by unfold State.firstWait; split <;> simp
@[simp] theorem State.firstWait_eccOne (s : State) (p : StreamId) : (s.firstWait p).eccOne = s.eccOne := by unfold State.firstWait; split <;> simp
@[simp] theorem State.firstWait_eccCover (s : State) (p : StreamId) : (s.firstWait p).eccCover = s.eccCover := by unfold State.firstWait; split <;> simp
@[simp] theorem State.firstWait_pending (s : State) (p : StreamId) : (s.firstWait p).pending = s.pending := by unfold State.firstWait; split <;> simp

/-! ### come -/

@[simp] theorem State.come_cfg (s : State) (p : StreamId) : (s.come p).cfg = s.cfg := by unfold State.come; dsimp only; repeat' (first | rfl | split)
@[simp] theorem State.come_slices (s : State) (p : StreamId) : (s.come p).slices = s.slices := by unfold State.come; dsimp only; repeat' (first | rfl | split)
@[simp] theorem State.come_clock (s : State) (p : StreamId) : (s.come p).clock = s.clock := by unfold State.come; dsimp only; repeat' (first | rfl | split)
@[simp] theorem State.come_unit (s : State) (p : StreamId) : (s.come p).unit = s.unit := by unfold State.come; dsimp only; repeat' (first | rfl | split)
@[simp] theorem State.come_collector (s : State) (p : StreamId) : (s.come p).collector = s.collector := by unfold State.come; dsimp only; repeat' (first | rfl | split)
@[simp] theorem State.come_collectAt (s : State) (p : StreamId) : (s.come p).collectAt = s.collectAt := by unfold State.come; dsimp only; repeat' (first | rfl | split)
@[simp] theorem State.come_inflight (s : State) (p : StreamId) : (s.come p).inflight = s.inflight := by unfold State.come; dsimp only; repeat' (first | rfl | split)
@[simp] theorem State.come_cycle (s : State) (p : StreamId) : (s.come p).cycle = s.cycle := by unfold State.come; dsimp only; repeat' (first | rfl | split)
@[simp] theorem State.come_tiles (s : State) (p : StreamId) : (s.come p).tiles = s.tiles := by unfold State.come; dsimp only; repeat' (first | rfl | split)
@[simp] theorem State.come_tileUse (s : State) (p : StreamId) : (s.come p).tileUse = s.tileUse := by unfold State.come; dsimp only; repeat' (first | rfl | split)
@[simp] theorem State.come_tileMarks (s : State) (p : StreamId) : (s.come p).tileMarks = s.tileMarks := by unfold State.come; dsimp only; repeat' (first | rfl | split)
@[simp] theorem State.come_tilesWritten (s : State) (p : StreamId) : (s.come p).tilesWritten = s.tilesWritten := by unfold State.come; dsimp only; repeat' (first | rfl | split)
@[simp] theorem State.come_pool (s : State) (p : StreamId) : (s.come p).pool = s.pool := by unfold State.come; dsimp only; repeat' (first | rfl | split)
@[simp] theorem State.come_settings (s : State) (p : StreamId) : (s.come p).settings = s.settings := by unfold State.come; dsimp only; repeat' (first | rfl | split)
@[simp] theorem State.come_basin (s : State) (p : StreamId) : (s.come p).basin = s.basin := by unfold State.come; dsimp only; repeat' (first | rfl | split)
@[simp] theorem State.come_ledger (s : State) (p : StreamId) : (s.come p).ledger = s.ledger := by unfold State.come; dsimp only; repeat' (first | rfl | split)
@[simp] theorem State.come_ports (s : State) (p : StreamId) : (s.come p).ports = s.ports := by unfold State.come; dsimp only; repeat' (first | rfl | split)
@[simp] theorem State.come_image (s : State) (p : StreamId) : (s.come p).image = s.image := by unfold State.come; dsimp only; repeat' (first | rfl | split)
@[simp] theorem State.come_crossing (s : State) (p : StreamId) : (s.come p).crossing = s.crossing := by unfold State.come; dsimp only; repeat' (first | rfl | split)
@[simp] theorem State.come_regs (s : State) (p : StreamId) : (s.come p).regs = s.regs := by unfold State.come; dsimp only; repeat' (first | rfl | split)
@[simp] theorem State.come_cores (s : State) (p : StreamId) : (s.come p).cores = s.cores := by unfold State.come; dsimp only; repeat' (first | rfl | split)
@[simp] theorem State.come_repair (s : State) (p : StreamId) : (s.come p).repair = s.repair := by unfold State.come; dsimp only; repeat' (first | rfl | split)
@[simp] theorem State.come_recov (s : State) (p : StreamId) : (s.come p).recov = s.recov := by unfold State.come; dsimp only; repeat' (first | rfl | split)
@[simp] theorem State.come_log (s : State) (p : StreamId) : (s.come p).log = s.log := by unfold State.come; dsimp only; repeat' (first | rfl | split)
@[simp] theorem State.come_ao (s : State) (p : StreamId) : (s.come p).ao = s.ao := by unfold State.come; dsimp only; repeat' (first | rfl | split)
@[simp] theorem State.come_fuses (s : State) (p : StreamId) : (s.come p).fuses = s.fuses := by unfold State.come; dsimp only; repeat' (first | rfl | split)
@[simp] theorem State.come_sec (s : State) (p : StreamId) : (s.come p).sec = s.sec := by unfold State.come; dsimp only; repeat' (first | rfl | split)
@[simp] theorem State.come_scrub (s : State) (p : StreamId) : (s.come p).scrub = s.scrub := by unfold State.come; dsimp only; repeat' (first | rfl | split)
@[simp] theorem State.come_power (s : State) (p : StreamId) : (s.come p).power = s.power := by unfold State.come; dsimp only; repeat' (first | rfl | split)
@[simp] theorem State.come_perf (s : State) (p : StreamId) : (s.come p).perf = s.perf := by unfold State.come; dsimp only; repeat' (first | rfl | split)
@[simp] theorem State.come_dbg (s : State) (p : StreamId) : (s.come p).dbg = s.dbg := by unfold State.come; dsimp only; repeat' (first | rfl | split)
@[simp] theorem State.come_pins (s : State) (p : StreamId) : (s.come p).pins = s.pins := by unfold State.come; dsimp only; repeat' (first | rfl | split)
@[simp] theorem State.come_inputs (s : State) (p : StreamId) : (s.come p).inputs = s.inputs := by unfold State.come; dsimp only; repeat' (first | rfl | split)
@[simp] theorem State.come_held (s : State) (p : StreamId) : (s.come p).held = s.held := by unfold State.come; dsimp only; repeat' (first | rfl | split)
@[simp] theorem State.come_defects (s : State) (p : StreamId) : (s.come p).defects = s.defects := by unfold State.come; dsimp only; repeat' (first | rfl | split)
@[simp] theorem State.come_eccBad (s : State) (p : StreamId) : (s.come p).eccBad = s.eccBad := by unfold State.come; dsimp only; repeat' (first | rfl | split)
@[simp] theorem State.come_eccOne (s : State) (p : StreamId) : (s.come p).eccOne = s.eccOne := by unfold State.come; dsimp only; repeat' (first | rfl | split)
@[simp] theorem State.come_eccCover (s : State) (p : StreamId) : (s.come p).eccCover = s.eccCover := by unfold State.come; dsimp only; repeat' (first | rfl | split)
@[simp] theorem State.come_pending (s : State) (p : StreamId) : (s.come p).pending = s.pending := by unfold State.come; dsimp only; repeat' (first | rfl | split)

/-! ### reach -/

@[simp] theorem State.reach_cfg (s : State) (p : StreamId) : (s.reach p).cfg = s.cfg := by simp [State.reach]
@[simp] theorem State.reach_slices (s : State) (p : StreamId) : (s.reach p).slices = s.slices := by simp [State.reach]
@[simp] theorem State.reach_clock (s : State) (p : StreamId) : (s.reach p).clock = s.clock := by simp [State.reach]
@[simp] theorem State.reach_unit (s : State) (p : StreamId) : (s.reach p).unit = s.unit := by simp [State.reach]
@[simp] theorem State.reach_collector (s : State) (p : StreamId) : (s.reach p).collector = s.collector := by simp [State.reach]
@[simp] theorem State.reach_collectAt (s : State) (p : StreamId) : (s.reach p).collectAt = s.collectAt := by simp [State.reach]
@[simp] theorem State.reach_inflight (s : State) (p : StreamId) : (s.reach p).inflight = s.inflight := by simp [State.reach]
@[simp] theorem State.reach_cycle (s : State) (p : StreamId) : (s.reach p).cycle = s.cycle := by simp [State.reach]
@[simp] theorem State.reach_tiles (s : State) (p : StreamId) : (s.reach p).tiles = s.tiles := by simp [State.reach]
@[simp] theorem State.reach_tileUse (s : State) (p : StreamId) : (s.reach p).tileUse = s.tileUse := by simp [State.reach]
@[simp] theorem State.reach_tileMarks (s : State) (p : StreamId) : (s.reach p).tileMarks = s.tileMarks := by simp [State.reach]
@[simp] theorem State.reach_tilesWritten (s : State) (p : StreamId) : (s.reach p).tilesWritten = s.tilesWritten := by simp [State.reach]
@[simp] theorem State.reach_pool (s : State) (p : StreamId) : (s.reach p).pool = s.pool := by simp [State.reach]
@[simp] theorem State.reach_settings (s : State) (p : StreamId) : (s.reach p).settings = s.settings := by simp [State.reach]
@[simp] theorem State.reach_basin (s : State) (p : StreamId) : (s.reach p).basin = s.basin := by simp [State.reach]
@[simp] theorem State.reach_ledger (s : State) (p : StreamId) : (s.reach p).ledger = s.ledger := by simp [State.reach]
@[simp] theorem State.reach_ports (s : State) (p : StreamId) : (s.reach p).ports = s.ports := by simp [State.reach]
@[simp] theorem State.reach_image (s : State) (p : StreamId) : (s.reach p).image = s.image := by simp [State.reach]
@[simp] theorem State.reach_crossing (s : State) (p : StreamId) : (s.reach p).crossing = s.crossing := by simp [State.reach]
@[simp] theorem State.reach_regs (s : State) (p : StreamId) : (s.reach p).regs = s.regs := by simp [State.reach]
@[simp] theorem State.reach_cores (s : State) (p : StreamId) : (s.reach p).cores = s.cores := by simp [State.reach]
@[simp] theorem State.reach_repair (s : State) (p : StreamId) : (s.reach p).repair = s.repair := by simp [State.reach]
@[simp] theorem State.reach_recov (s : State) (p : StreamId) : (s.reach p).recov = s.recov := by simp [State.reach]
@[simp] theorem State.reach_log (s : State) (p : StreamId) : (s.reach p).log = s.log := by simp [State.reach]
@[simp] theorem State.reach_ao (s : State) (p : StreamId) : (s.reach p).ao = s.ao := by simp [State.reach]
@[simp] theorem State.reach_fuses (s : State) (p : StreamId) : (s.reach p).fuses = s.fuses := by simp [State.reach]
@[simp] theorem State.reach_sec (s : State) (p : StreamId) : (s.reach p).sec = s.sec := by simp [State.reach]
@[simp] theorem State.reach_scrub (s : State) (p : StreamId) : (s.reach p).scrub = s.scrub := by simp [State.reach]
@[simp] theorem State.reach_power (s : State) (p : StreamId) : (s.reach p).power = s.power := by simp [State.reach]
@[simp] theorem State.reach_perf (s : State) (p : StreamId) : (s.reach p).perf = s.perf := by simp [State.reach]
@[simp] theorem State.reach_dbg (s : State) (p : StreamId) : (s.reach p).dbg = s.dbg := by simp [State.reach]
@[simp] theorem State.reach_pins (s : State) (p : StreamId) : (s.reach p).pins = s.pins := by simp [State.reach]
@[simp] theorem State.reach_inputs (s : State) (p : StreamId) : (s.reach p).inputs = s.inputs := by simp [State.reach]
@[simp] theorem State.reach_held (s : State) (p : StreamId) : (s.reach p).held = s.held := by simp [State.reach]
@[simp] theorem State.reach_defects (s : State) (p : StreamId) : (s.reach p).defects = s.defects := by simp [State.reach]
@[simp] theorem State.reach_eccBad (s : State) (p : StreamId) : (s.reach p).eccBad = s.eccBad := by simp [State.reach]
@[simp] theorem State.reach_eccOne (s : State) (p : StreamId) : (s.reach p).eccOne = s.eccOne := by simp [State.reach]
@[simp] theorem State.reach_eccCover (s : State) (p : StreamId) : (s.reach p).eccCover = s.eccCover := by simp [State.reach]
@[simp] theorem State.reach_pending (s : State) (p : StreamId) : (s.reach p).pending = s.pending := by simp [State.reach]

/-! ### sendSec -/

@[simp] theorem State.sendSec_cfg (s : State) (o : BitVec 8) (l : List Byte) (u : SecUse) : (s.sendSec o l u).cfg = s.cfg := by unfold State.sendSec; split <;> rfl
@[simp] theorem State.sendSec_slices (s : State) (o : BitVec 8) (l : List Byte) (u : SecUse) : (s.sendSec o l u).slices = s.slices := by unfold State.sendSec; split <;> rfl
@[simp] theorem State.sendSec_clock (s : State) (o : BitVec 8) (l : List Byte) (u : SecUse) : (s.sendSec o l u).clock = s.clock := by unfold State.sendSec; split <;> rfl
@[simp] theorem State.sendSec_unit (s : State) (o : BitVec 8) (l : List Byte) (u : SecUse) : (s.sendSec o l u).unit = s.unit := by unfold State.sendSec; split <;> rfl
@[simp] theorem State.sendSec_streams (s : State) (o : BitVec 8) (l : List Byte) (u : SecUse) : (s.sendSec o l u).streams = s.streams := by unfold State.sendSec; split <;> rfl
@[simp] theorem State.sendSec_collector (s : State) (o : BitVec 8) (l : List Byte) (u : SecUse) : (s.sendSec o l u).collector = s.collector := by unfold State.sendSec; split <;> rfl
@[simp] theorem State.sendSec_collectAt (s : State) (o : BitVec 8) (l : List Byte) (u : SecUse) : (s.sendSec o l u).collectAt = s.collectAt := by unfold State.sendSec; split <;> rfl
@[simp] theorem State.sendSec_inflight (s : State) (o : BitVec 8) (l : List Byte) (u : SecUse) : (s.sendSec o l u).inflight = s.inflight := by unfold State.sendSec; split <;> rfl
@[simp] theorem State.sendSec_cycle (s : State) (o : BitVec 8) (l : List Byte) (u : SecUse) : (s.sendSec o l u).cycle = s.cycle := by unfold State.sendSec; split <;> rfl
@[simp] theorem State.sendSec_tiles (s : State) (o : BitVec 8) (l : List Byte) (u : SecUse) : (s.sendSec o l u).tiles = s.tiles := by unfold State.sendSec; split <;> rfl
@[simp] theorem State.sendSec_tileUse (s : State) (o : BitVec 8) (l : List Byte) (u : SecUse) : (s.sendSec o l u).tileUse = s.tileUse := by unfold State.sendSec; split <;> rfl
@[simp] theorem State.sendSec_tileMarks (s : State) (o : BitVec 8) (l : List Byte) (u : SecUse) : (s.sendSec o l u).tileMarks = s.tileMarks := by unfold State.sendSec; split <;> rfl
@[simp] theorem State.sendSec_tilesWritten (s : State) (o : BitVec 8) (l : List Byte) (u : SecUse) : (s.sendSec o l u).tilesWritten = s.tilesWritten := by unfold State.sendSec; split <;> rfl
@[simp] theorem State.sendSec_pool (s : State) (o : BitVec 8) (l : List Byte) (u : SecUse) : (s.sendSec o l u).pool = s.pool := by unfold State.sendSec; split <;> rfl
@[simp] theorem State.sendSec_settings (s : State) (o : BitVec 8) (l : List Byte) (u : SecUse) : (s.sendSec o l u).settings = s.settings := by unfold State.sendSec; split <;> rfl
@[simp] theorem State.sendSec_basin (s : State) (o : BitVec 8) (l : List Byte) (u : SecUse) : (s.sendSec o l u).basin = s.basin := by unfold State.sendSec; split <;> rfl
@[simp] theorem State.sendSec_ledger (s : State) (o : BitVec 8) (l : List Byte) (u : SecUse) : (s.sendSec o l u).ledger = s.ledger := by unfold State.sendSec; split <;> rfl
@[simp] theorem State.sendSec_ports (s : State) (o : BitVec 8) (l : List Byte) (u : SecUse) : (s.sendSec o l u).ports = s.ports := by unfold State.sendSec; split <;> rfl
@[simp] theorem State.sendSec_image (s : State) (o : BitVec 8) (l : List Byte) (u : SecUse) : (s.sendSec o l u).image = s.image := by unfold State.sendSec; split <;> rfl
@[simp] theorem State.sendSec_crossing (s : State) (o : BitVec 8) (l : List Byte) (u : SecUse) : (s.sendSec o l u).crossing = s.crossing := by unfold State.sendSec; split <;> rfl
@[simp] theorem State.sendSec_regs (s : State) (o : BitVec 8) (l : List Byte) (u : SecUse) : (s.sendSec o l u).regs = s.regs := by unfold State.sendSec; split <;> rfl
@[simp] theorem State.sendSec_cores (s : State) (o : BitVec 8) (l : List Byte) (u : SecUse) : (s.sendSec o l u).cores = s.cores := by unfold State.sendSec; split <;> rfl
@[simp] theorem State.sendSec_repair (s : State) (o : BitVec 8) (l : List Byte) (u : SecUse) : (s.sendSec o l u).repair = s.repair := by unfold State.sendSec; split <;> rfl
@[simp] theorem State.sendSec_recov (s : State) (o : BitVec 8) (l : List Byte) (u : SecUse) : (s.sendSec o l u).recov = s.recov := by unfold State.sendSec; split <;> rfl
@[simp] theorem State.sendSec_log (s : State) (o : BitVec 8) (l : List Byte) (u : SecUse) : (s.sendSec o l u).log = s.log := by unfold State.sendSec; split <;> rfl
@[simp] theorem State.sendSec_ao (s : State) (o : BitVec 8) (l : List Byte) (u : SecUse) : (s.sendSec o l u).ao = s.ao := by unfold State.sendSec; split <;> rfl
@[simp] theorem State.sendSec_fuses (s : State) (o : BitVec 8) (l : List Byte) (u : SecUse) : (s.sendSec o l u).fuses = s.fuses := by unfold State.sendSec; split <;> rfl
@[simp] theorem State.sendSec_scrub (s : State) (o : BitVec 8) (l : List Byte) (u : SecUse) : (s.sendSec o l u).scrub = s.scrub := by unfold State.sendSec; split <;> rfl
@[simp] theorem State.sendSec_power (s : State) (o : BitVec 8) (l : List Byte) (u : SecUse) : (s.sendSec o l u).power = s.power := by unfold State.sendSec; split <;> rfl
@[simp] theorem State.sendSec_perf (s : State) (o : BitVec 8) (l : List Byte) (u : SecUse) : (s.sendSec o l u).perf = s.perf := by unfold State.sendSec; split <;> rfl
@[simp] theorem State.sendSec_dbg (s : State) (o : BitVec 8) (l : List Byte) (u : SecUse) : (s.sendSec o l u).dbg = s.dbg := by unfold State.sendSec; split <;> rfl
@[simp] theorem State.sendSec_pins (s : State) (o : BitVec 8) (l : List Byte) (u : SecUse) : (s.sendSec o l u).pins = s.pins := by unfold State.sendSec; split <;> rfl
@[simp] theorem State.sendSec_inputs (s : State) (o : BitVec 8) (l : List Byte) (u : SecUse) : (s.sendSec o l u).inputs = s.inputs := by unfold State.sendSec; split <;> rfl
@[simp] theorem State.sendSec_held (s : State) (o : BitVec 8) (l : List Byte) (u : SecUse) : (s.sendSec o l u).held = s.held := by unfold State.sendSec; split <;> rfl
@[simp] theorem State.sendSec_defects (s : State) (o : BitVec 8) (l : List Byte) (u : SecUse) : (s.sendSec o l u).defects = s.defects := by unfold State.sendSec; split <;> rfl
@[simp] theorem State.sendSec_eccBad (s : State) (o : BitVec 8) (l : List Byte) (u : SecUse) : (s.sendSec o l u).eccBad = s.eccBad := by unfold State.sendSec; split <;> rfl
@[simp] theorem State.sendSec_eccOne (s : State) (o : BitVec 8) (l : List Byte) (u : SecUse) : (s.sendSec o l u).eccOne = s.eccOne := by unfold State.sendSec; split <;> rfl
@[simp] theorem State.sendSec_eccCover (s : State) (o : BitVec 8) (l : List Byte) (u : SecUse) : (s.sendSec o l u).eccCover = s.eccCover := by unfold State.sendSec; split <;> rfl
@[simp] theorem State.sendSec_pending (s : State) (o : BitVec 8) (l : List Byte) (u : SecUse) : (s.sendSec o l u).pending = s.pending := by unfold State.sendSec; split <;> rfl

end Sys2Proof.Machine
end

