-- ==== Sys2Proof/Laws/Issue.lean ====
section
/-! SUPPORT. The issue of a stream instruction: what reaching it, accepting it and going on to the next one leave of the state. -/

namespace Sys2Proof.Machine

theorem State.evalWait_stream_ne (s : State) {p q : StreamId} (h : q ≠ p) : (s.evalWait p).stream q = s.stream q := by
  unfold State.evalWait
  repeat' (first | rfl | split)
  exact s.stream_modStream_ne _ h

theorem State.evalWait_ctx (s : State) (p q : StreamId) : ((s.evalWait p).stream q).ctx = (s.stream q).ctx := by
  by_cases h : q = p
  · subst h; unfold State.evalWait
    repeat' (first | rfl | split)
    simp
  · rw [s.evalWait_stream_ne h]

theorem State.evalWait_next (s : State) (p q : StreamId) : ((s.evalWait p).stream q).next = (s.stream q).next := by
  by_cases h : q = p
  · subst h; unfold State.evalWait
    repeat' (first | rfl | split)
    simp
  · rw [s.evalWait_stream_ne h]

theorem State.firstWait_stream_ne (s : State) {p q : StreamId} (h : q ≠ p) : (s.firstWait p).stream q = s.stream q := by
  unfold State.firstWait; split
  · exact s.evalWait_stream_ne h
  · rfl

theorem State.firstWait_ctx (s : State) (p q : StreamId) : ((s.firstWait p).stream q).ctx = (s.stream q).ctx := by
  unfold State.firstWait; split
  · exact s.evalWait_ctx p q
  · rfl

theorem State.firstWait_next (s : State) (p q : StreamId) : ((s.firstWait p).stream q).next = (s.stream q).next := by
  unfold State.firstWait; split
  · exact s.evalWait_next p q
  · rfl

/-- The sequencer's coming to an instruction changes its own stream alone. -/
theorem State.come_stream_ne (s : State) {p q : StreamId} (h : q ≠ p) : (s.come p).stream q = s.stream q := by
  unfold State.come
  dsimp only
  repeat' (first | rfl | split)
  all_goals exact s.stream_modStream_ne _ h

theorem State.come_ctx (s : State) (p q : StreamId) : ((s.come p).stream q).ctx = (s.stream q).ctx := by
  by_cases h : q = p
  · subst h; unfold State.come
    dsimp only
    repeat' (first | rfl | split)
    all_goals simp
  · rw [s.come_stream_ne h]

theorem State.come_next (s : State) (p q : StreamId) : ((s.come p).stream q).next = (s.stream q).next := by
  by_cases h : q = p
  · subst h; unfold State.come
    dsimp only
    repeat' (first | rfl | split)
    all_goals simp
  · rw [s.come_stream_ne h]

/-- Reaching a waiting instruction changes its own stream alone. -/
theorem State.reach_stream_ne (s : State) {p q : StreamId} (h : q ≠ p) : (s.reach p).stream q = s.stream q :=
  ((s.come p).firstWait_stream_ne h).trans (s.come_stream_ne h)

theorem State.reach_ctx (s : State) (p q : StreamId) : ((s.reach p).stream q).ctx = (s.stream q).ctx :=
  ((s.come p).firstWait_ctx p q).trans (s.come_ctx p q)

theorem State.reach_next (s : State) (p q : StreamId) : ((s.reach p).stream q).next = (s.stream q).next :=
  ((s.come p).firstWait_next p q).trans (s.come_next p q)

theorem State.stream_event (s : State) (c i n : Nat) (q : StreamId) : (s.event c i n).stream q = s.stream q :=
  State.stream_congr (by simp) q

theorem State.accept_stream (s : State) (p : StreamId) : (s.accept p).stream p =
    { s.stream p with next := s.clock.offset + 1, reached := none, waitDl := none, waitOk := none } := by
  unfold State.accept
  rw [State.stream_event, State.stream_modStream_self]; rfl

theorem State.accept_stream_ne (s : State) {p q : StreamId} (h : q ≠ p) : (s.accept p).stream q = s.stream q := by
  unfold State.accept
  rw [State.stream_event, State.stream_modStream_ne _ _ h]; rfl

@[simp] theorem State.accept_unit (s : State) (p : StreamId) : (s.accept p).unit = { s.unit with window := false } := by
  simp [State.accept]

/-- An event counts, and changes nothing else of the counters. -/
theorem State.event_perf (s : State) (c i n : Nat) : { (s.event c i n).perf with counts := s.perf.counts } = s.perf := by
  unfold State.event; split <;> rfl

theorem State.accept_perf (s : State) (p : StreamId) : { (s.accept p).perf with counts := s.perf.counts } = s.perf := by
  unfold State.accept State.event; split <;> rfl

theorem State.advance_stream_ne (s : State) {p q : StreamId} (e : LoopEnd) (h : q ≠ p) :
    (s.advance p e).stream q = s.stream q := by
  unfold State.advance; split
  · rfl
  · exact s.stream_modStream_ne _ h

theorem State.advance_stream (s : State) (p : StreamId) (e : LoopEnd) (h : (s.stream p).ctx.state = .running) :
    (s.advance p e).stream p =
      { s.stream p with ctx := ((s.stream p).ctx.step e).1, pastEnd := ((s.stream p).ctx.step e).2 } := by
  unfold State.advance; rw [if_neg (by simp [h])]; simp

/-- An instruction that issues without a refusal has its effect, and the sequencer goes on (R95, R97, R110). -/
theorem State.issue_eq {s : State} {p : StreamId} {e : LoopEnd} {op : Op} (may : (s.reach p).mayIssue p e op = true)
    (fetch : (s.reach p).copyBad ((s.reach p).fetchWords p) = false)
    (tables : (s.reach p).copyBad ((s.reach p).tableWords p op) = false)
    (holds : (s.issued p op).foreign p op = none) (effect : State → State) :
    s.issue p e op effect = (effect (s.issued p op)).advance p e := by
  unfold State.issue
  unfold State.issued at holds ⊢
  simp [may, fetch, tables, holds]

/-- A stream whose instruction may issue is Running. -/
theorem State.mayIssue_running {s : State} {p : StreamId} {e : LoopEnd} {op : Op} (h : s.mayIssue p e op = true) :
    (s.stream p).ctx.state = .running := by
  simp only [State.mayIssue, State.sequencerFree, Bool.and_eq_true, decide_eq_true_eq] at h; exact h.1.1.1.1.1.1.1.1.1.2

end Sys2Proof.Machine
end

