-- ==== Sys2Proof/Laws/Mem.lean ====
section
/-! SUPPORT. The stores: a read after a write, and that every operation keeps the canonical form. -/

namespace Sys2Proof.Machine

variable {α : Type}

/-! ## Reads after writes -/

theorem sparseGet_erase (d : α) (m : Sparse α) (i j : Nat) :
    sparseGet d (sparseErase m i) j = if j = i then d else sparseGet d m j := by
  induction m with
  | nil => simp [sparseErase, sparseGet]
  | cons e m ih =>
    obtain ⟨k, v⟩ := e
    by_cases hk : k = i
    · subst hk
      rw [show sparseErase ((k, v) :: m) k = sparseErase m k by simp [sparseErase], ih]
      by_cases hj : j = k <;> simp [hj, sparseGet]
    · rw [show sparseErase ((k, v) :: m) i = (k, v) :: sparseErase m i by simp [sparseErase, hk]]
      by_cases hj : j = k
      · subst hj; simp [sparseGet, hk]
      · simp [sparseGet, hj, ih]

theorem sparseGet_insert (d : α) (m : Sparse α) (i j : Nat) (v : α) (h : ∀ e ∈ m, e.1 ≠ i) :
    sparseGet d (sparseInsert m i v) j = if j = i then v else sparseGet d m j := by
  induction m with
  | nil => simp [sparseInsert, sparseGet]
  | cons e m ih =>
    obtain ⟨k, w⟩ := e
    have hk : k ≠ i := h (k, w) (by simp)
    have hm := ih (fun e he => h e (by simp [he]))
    unfold sparseInsert
    split
    · simp [sparseGet]
    · by_cases hj : j = k
      · subst hj; simp [sparseGet, hk]
      · simp [sparseGet, hj, hm]

theorem erase_keys (m : Sparse α) (i : Nat) : ∀ e ∈ sparseErase m i, e.1 ≠ i := by
  intro e he; simpa using (List.mem_filter.1 he).2

/-- A read after a write of a store. -/
theorem sparseGet_set [DecidableEq α] (d : α) (m : Sparse α) (i j : Nat) (v : α) :
    sparseGet d (sparseSet d m i v) j = if j = i then v else sparseGet d m j := by
  unfold sparseSet
  split
  · rename_i h; subst h; exact sparseGet_erase _ m i j
  · rw [sparseGet_insert _ _ _ _ _ (erase_keys m i), sparseGet_erase]; split <;> simp_all

/-- A read after a write of a memory. -/
theorem memGet_memSet (m : Mem) (a x : Nat) (b : Byte) : memGet (memSet m a b) x = if x = a then b else memGet m x :=
  sparseGet_set 0 m a x b

theorem memGet_writeBytes (m : Mem) (a x : Nat) (bs : List Byte) :
    memGet (writeBytes m a bs) x = if a ≤ x ∧ x < a + bs.length then bs.getD (x - a) 0 else memGet m x := by
  induction bs generalizing m a with
  | nil => rw [if_neg (by simp only [List.length_nil]; omega)]; rfl
  | cons b bs ih =>
    rw [writeBytes, ih, memGet_memSet]
    by_cases h1 : a + 1 ≤ x ∧ x < a + 1 + bs.length
    · have : x - a = (x - (a + 1)) + 1 := by omega
      simp [h1, this]; omega
    · by_cases h2 : x = a
      · subst h2; rw [if_neg h1, if_pos rfl, if_pos (by simp)]; simp
      · rw [if_neg h1, if_neg h2, if_neg (by simp; omega)]

/-- A byte that no cell of a write names reads as before. -/
theorem memGet_writeCells_of_notMem (m : Mem) (cs : List Host.Cell) (x : Nat) (h : ∀ c ∈ cs, c.1 ≠ x) :
    memGet (writeCells m cs) x = memGet m x := by
  induction cs generalizing m with
  | nil => rfl
  | cons c cs ih =>
    obtain ⟨a, b⟩ := c
    rw [writeCells, ih _ (fun c hc => h c (by simp [hc])), memGet_memSet, if_neg (fun e => h (a, b) (by simp) e.symm)]

/-! ## The canonical form -/

/-- What the canonical form says. -/
theorem sparseWf_iff [DecidableEq α] (d : α) (m : Sparse α) :
    sparseWf d m = true ↔ m.Pairwise (fun a b => a.1 < b.1) ∧ ∀ e ∈ m, e.2 ≠ d := by
  simp [sparseWf]

theorem sparseWf_filter [DecidableEq α] (d : α) (m : Sparse α) (p : Nat × α → Bool) (h : sparseWf d m = true) :
    sparseWf d (m.filter p) = true := by
  rw [sparseWf_iff] at *
  exact ⟨h.1.filter p, fun e he => h.2 e ((List.mem_filter.1 he).1)⟩

theorem mem_insert (m : Sparse α) (i : Nat) (v : α) (e : Nat × α) (h : e ∈ sparseInsert m i v) : e = (i, v) ∨ e ∈ m := by
  induction m with
  | nil => simpa [sparseInsert] using h
  | cons x m ih =>
    obtain ⟨k, w⟩ := x
    unfold sparseInsert at h
    split at h
    · simpa using h
    · rcases List.mem_cons.1 h with h | h
      · simp [h]
      · rcases ih h with h | h <;> simp [h]

theorem sorted_insert (m : Sparse α) (i : Nat) (v : α) (h : m.Pairwise (fun a b => a.1 < b.1)) (hi : ∀ e ∈ m, e.1 ≠ i) :
    (sparseInsert m i v).Pairwise (fun a b => a.1 < b.1) := by
  induction m with
  | nil => simp [sparseInsert]
  | cons x m ih =>
    obtain ⟨k, w⟩ := x
    rw [List.pairwise_cons] at h
    unfold sparseInsert
    split
    · rename_i hlt
      rw [List.pairwise_cons]
      refine ⟨fun e he => ?_, List.pairwise_cons.2 h⟩
      rcases List.mem_cons.1 he with rfl | he
      · exact hlt
      · exact Nat.lt_trans hlt (h.1 e he)
    · rename_i hge
      rw [List.pairwise_cons]
      refine ⟨fun e he => ?_, ih h.2 (fun e he => hi e (by simp [he]))⟩
      rcases mem_insert m i v e he with rfl | he
      · have := hi (k, w) (by simp); simp at this ⊢; omega
      · exact h.1 e he

theorem sparseWf_set [DecidableEq α] (d : α) (m : Sparse α) (i : Nat) (v : α) (h : sparseWf d m = true) :
    sparseWf d (sparseSet d m i v) = true := by
  unfold sparseSet
  split
  · exact sparseWf_filter d m _ h
  · rename_i hv
    have he := (sparseWf_iff d _).1 (sparseWf_filter d m (fun e => e.1 != i) h)
    rw [sparseWf_iff]
    refine ⟨sorted_insert _ _ _ he.1 (erase_keys m i), fun e hm => ?_⟩
    rcases mem_insert _ _ _ _ hm with rfl | hm
    · exact hv
    · exact he.2 e hm

@[simp] theorem Memory.wf_nil : Memory.wf [] = true := rfl

theorem Memory.wf_memSet {m : Mem} (a : Nat) (b : Byte) (h : Memory.wf m = true) : Memory.wf (memSet m a b) = true :=
  sparseWf_set 0 m a b h

theorem Memory.wf_writeBytes {m : Mem} (a : Nat) (bs : List Byte) (h : Memory.wf m = true) :
    Memory.wf (writeBytes m a bs) = true := by
  induction bs generalizing m a with
  | nil => exact h
  | cons b bs ih => exact ih _ (Memory.wf_memSet a b h)

theorem Memory.wf_writeCells {m : Mem} (cs : List Host.Cell) (h : Memory.wf m = true) :
    Memory.wf (writeCells m cs) = true := by
  induction cs generalizing m with
  | nil => exact h
  | cons c cs ih => exact ih (Memory.wf_memSet c.1 c.2 h)

theorem Memory.wf_filter {m : Mem} (p : Host.Cell → Bool) (h : Memory.wf m = true) : Memory.wf (m.filter p) = true :=
  sparseWf_filter 0 m p h

theorem Memory.wf_zeroRange {m : Mem} (a n : Nat) (h : Memory.wf m = true) : Memory.wf (zeroRange m a n) = true :=
  Memory.wf_filter _ h

theorem lanesFrom_sorted (m : Nat) (bs : List Byte) : (lanesFrom m bs).Pairwise (fun a b => a.1 < b.1) := by
  rw [lanesFrom, List.pairwise_iff_getElem]
  intro i j hi hj hij
  simp; omega

/-- A memory filled from a list of bytes. -/
theorem Memory.wf_memOf (bs : List Byte) : Memory.wf (memOf bs) = true := by
  unfold Memory.wf memOf
  rw [sparseWf_iff]
  exact ⟨(lanesFrom_sorted 0 bs).filter _, fun e he => by simpa using (List.mem_filter.1 he).2⟩

/-- A sorted store lists nothing at or below the key before it. -/
theorem sparseGet_low (d : α) (l : Sparse α) (x : Nat) (w : α) (hl : ((x, w) :: l).Pairwise (fun a b => a.1 < b.1)) (y : Nat)
    (hy : y ≤ x) : sparseGet d l y = d := by
  replace hl := (List.pairwise_cons.1 hl).1
  induction l with
  | nil => rfl
  | cons e l ih =>
    have := hl e (by simp)
    simp only [sparseGet]
    rw [if_neg (by simp at this; omega)]
    exact ih (fun e he => hl e (by simp [he]))

/-- Stores in canonical form that read alike are equal. -/
theorem sparse_ext [DecidableEq α] (d : α) (m n : Sparse α) (hm : sparseWf d m = true) (hn : sparseWf d n = true)
    (h : ∀ i, sparseGet d m i = sparseGet d n i) : m = n := by
  induction m generalizing n with
  | nil =>
    cases n with
    | nil => rfl
    | cons e n =>
      obtain ⟨k, v⟩ := e
      have := ((sparseWf_iff d _).1 hn).2 (k, v) (by simp)
      exact absurd (by simpa [sparseGet] using (h k).symm) this
  | cons e m ih =>
    obtain ⟨k, v⟩ := e
    obtain ⟨sm, nm⟩ := (sparseWf_iff d _).1 hm
    have hv : v ≠ d := nm (k, v) (by simp)
    cases n with
    | nil => exact absurd (by simpa [sparseGet] using h k) hv
    | cons e' n =>
      obtain ⟨k', v'⟩ := e'
      obtain ⟨sn, nn⟩ := (sparseWf_iff d _).1 hn
      have hv' : v' ≠ d := nn (k', v') (by simp)
      have hk : k = k' := by
        rcases Nat.lt_trichotomy k k' with hlt | rfl | hlt
        · have := h k
          simp only [sparseGet] at this
          rw [if_pos trivial, if_neg (by omega), sparseGet_low d n k' v' sn k (by omega)] at this
          exact absurd this hv
        · rfl
        · have := h k'
          simp only [sparseGet] at this
          rw [if_neg (by omega), if_pos trivial, sparseGet_low d m k v sm k' (by omega)] at this
          exact absurd this.symm hv'
      subst hk
      have hvv : v = v' := by simpa [sparseGet] using h k
      subst hvv
      congr 1
      refine ih n ((sparseWf_iff d _).2 ⟨(List.pairwise_cons.1 sm).2, fun e he => nm e (by simp [he])⟩)
        ((sparseWf_iff d _).2 ⟨(List.pairwise_cons.1 sn).2, fun e he => nn e (by simp [he])⟩) (fun i => ?_)
      by_cases hi : i = k
      · subst hi; rw [sparseGet_low d m i v sm i (by omega), sparseGet_low d n i v sn i (by omega)]
      · simpa [sparseGet, hi] using h i

end Sys2Proof.Machine
end

