-- ==== Sys2Proof/Tests/Slice0.lean ====
section
/-! SUPPORT. Tests: the checks of well-formed words, words of the spec, worked examples of the spec, and for every statement a
concrete state that meets its hypotheses. -/

namespace Sys2Proof.Tests

open Sys2Proof Sys2Proof.Machine Sys2Proof.Claims

set_option Elab.async false

/-! ## A small machine: Psiuno-2 cut into 16 partitions of 64 lanes, stream 0 Running at index 0 -/

/-- Stream 0's record: present, tallies 0 to 63, endpoints 0 to 15, timers 0 to 7, wells 0 to 31, every window, the completion word
at 0x40000, every register and slot, regions 0, 1 and 2. -/
def record0 : List (Nat × List Byte) :=
  [(0, [4]), (64 + 0, [1]), (64 + 8, [0, 0, 64, 0, 0, 0, 16, 0, 0, 0, 8, 0, 0, 0, 0, 0, 32, 0, 0, 0]),
   (64 + 32, List.replicate 32 0xFF), (64 + 64, [0, 0, 4, 0, 0, 0, 0, 0]), (64 + 96, List.replicate 32 0xFF),
   (64 + 192, List.replicate 32 0xFF), (64 + 352, [0, 128, 1, 128, 2, 128])]

/-- Pool regions: 0 a plain one of 8 set-rows, 1 a landing region of 2 halves of 4, 2 a gather region of 8. -/
def regions : List (Nat × List Byte) :=
  [(0, leBytes 8 (1 + 2 ^ 9 + 2 ^ 10 + 2 ^ 27 * 8)), (16, leBytes 8 (1 + 2 ^ 1 * 2 + 2 ^ 16 * 8 + 2 ^ 27 * 8)),
   (32, leBytes 8 (1 + 2 ^ 1 * 1 + 2 ^ 16 * 16 + 2 ^ 27 * 8))]

def fill (l : List (Nat × List Byte)) : Mem := l.foldl (fun m e => writeBytes m e.1 e.2) []

def bank0 : Bank := { Bank.empty with streamTable := fill record0, poolRegions := fill regions }

/-- Cores that run. -/
def awake : Cores := { Cores.reset with ctx := Vector.replicate 4 .start }

/-- The small machine. -/
def small : State :=
  let s : State := { State.reset with
    cfg := .psiuno2
    clock := { Clock.reset with offset := 10, frame := 4, cycles := 100, ticks := 3, ctl := 100, centre := 5, control := 5 }
    unit := { UnitCtl.reset with state := .running }
    image := { State.reset.image with bank := bank0 }, cores := awake }
  s.modStream 0 (fun x => { x with ctx := { x.ctx with state := .running } })

/-- The small machine with an instruction at index 0 of stream 0. -/
def at0 (op : Op) : State :=
  { small with image := { small.image with bank := { bank0 with programs := [(0, encodeWord ⟨0, false⟩ op)] } } }

def e0 : LoopEnd := ⟨0, false⟩

/-- The conditions of `Issues`, with nothing before the instruction in its cycle, as one Boolean. -/
def issuesB (s : State) (p : StreamId) (e : LoopEnd) (op : Op) : Bool :=
  decide (s = s.turn p) && (s.reach p).mayIssue p e op && !(s.reach p).copyBad ((s.reach p).fetchWords p) && !(s.reach p).copyBad ((s.reach p).tableWords p op) &&
    (s.reach p).foreign p op == none

theorem issues_of (s : State) (p : StreamId) (e : LoopEnd) (op : Op) (h : issuesB s p e op = true) : Issues s s p e op := by
  simp only [issuesB, Bool.and_eq_true, Bool.not_eq_true', beq_iff_eq, decide_eq_true_eq] at h
  exact ⟨h.1.1.1.1, h.1.1.1.2, h.1.1.2, h.1.2, h.2⟩

/-- The conditions of `Serves` and of `Ready` outside the step of a tick. -/
def servesB (s : State) (m : Master) : Bool := !s.unit.window && s.gate m == .run && s.unblocked m

theorem serves_of (s : State) (m : Master) (h : servesB s m = true) : Serves s s m := by
  simp only [servesB, Bool.and_eq_true, Bool.not_eq_true', beq_iff_eq] at h
  exact ⟨by simp [State.closeTick, h.1.1], h.1.2, h.2⟩

def readyB (s : State) (m : Master) : Bool := servesB s m && s.logRoom

theorem ready_of (s : State) (m : Master) (h : readyB s m = true) : Ready s s m := by
  simp only [readyB, Bool.and_eq_true] at h
  exact ⟨serves_of s m h.1, h.2⟩

/-! ### Instructions that only go on -/

theorem witness_waits : issuesB (at0 (.nop ⟨3, true, 1, 5⟩)) 0 e0 (.nop ⟨3, true, 1, 5⟩) = true ∧
    issuesB (at0 (.twait ⟨0, 0, 0, false⟩)) 0 e0 (.twait ⟨0, 0, 0, false⟩) = true ∧
    (at0 (.twait ⟨0, 0, 0, false⟩)).ledgerBad [tallyAt 0] = none ∧
    issuesB (at0 (.fwait ⟨10, false⟩)) 0 e0 (.fwait ⟨10, false⟩) = true ∧
    (((at0 (.fwait ⟨10, false⟩)).reach 0).stream 0).reached = some (3, 10) ∧
    issuesB (at0 (.lfen 7)) 0 e0 (.lfen 7) = true := by decide +kernel

theorem witness_complete : issuesB (at0 .halt) 0 e0 .halt = true ∧ Instr.stream? (.tadd 0 e0 ⟨64, 1⟩) = some (0, e0, .tadd ⟨64, 1⟩) ∧
    ((at0 (.tadd ⟨64, 1⟩)).reach 0).mayIssue 0 e0 (.tadd ⟨64, 1⟩) = true ∧
    ((at0 (.tadd ⟨64, 1⟩)).reach 0).foreign 0 (.tadd ⟨64, 1⟩) = some 64 := by decide +kernel

/-! ### Slabs -/

/-- A PERM setting in sub-slot (0, 0). -/
def withSetting (s : State) : State := { s with settings := { s.settings with valid := [0] } }

def permF : PermF := ⟨2, 1, 1, 0, 0, false⟩
def pbpcF : PbpcF := ⟨2, 1, 0, BitVec.ofNat 65 (1 + 2 ^ 5 * 0 + 2 ^ 10 * 2 + 2 ^ 15 * 3 + 2 ^ 20 * 4 + 2 ^ 25 * 21)⟩
def convF : ConvF := ⟨2, 1, 0, 0x21, 0, true, 0, 0⟩
def ldtF : XferF := ⟨2, 1, 0, 64, 0, false, false, 64, 0, 0⟩

theorem witness_slabs : issuesB (withSetting (at0 (.perm permF))) 0 e0 (.perm permF) = true ∧
    (withSetting (at0 (.perm permF))).settingValid 0 = true ∧ (withSetting (at0 (.perm permF))).settingBad 0 = false ∧
    (withSetting (at0 (.perm permF))).slabBad 0 (.perm permF) = none ∧
    issuesB (at0 (.pbpc pbpcF)) 0 e0 (.pbpc pbpcF) = true ∧ issuesB (at0 (.conv convF)) 0 e0 (.conv convF) = true ∧
    issuesB (at0 (.pack ⟨2, 1, 0, 3, 1⟩)) 0 e0 (.pack ⟨2, 1, 0, 3, 1⟩) = true ∧
    issuesB (at0 (.unpk ⟨2, 1, 0, 3, 1⟩)) 0 e0 (.unpk ⟨2, 1, 0, 3, 1⟩) = true := by decide +kernel

/-- A Cascade with a switch stuck, through which stream 1 passes a slab in this cycle. -/
def defective : State :=
  { withSetting (at0 (.perm permF)) with
    defects := [(0, 0, .crossed)], cycle := { CycleUse.none with passing := [⟨1, some 0, 0, List.replicate 64 7, 9, 12, none⟩] } }

theorem witness_defective : issuesB defective 0 e0 (.perm permF) = true ∧ defective.defects ≠ [] ∧ defective.cycle.passing ≠ [] ∧
    defective.settingValid 0 = true ∧ defective.slabBad 0 (.perm permF) = none ∧ 17 % defective.parts ≠ (0 : StreamId).toNat ∧
    (defective.passingIn (17 % defective.parts)).isSome = true := by decide +kernel

/-- CONV from bf16 to an MX form, of 32 elements in a slab; from f32, of 16, so that a block is two slabs; and back. -/
theorem witness_conv_mx :
    issuesB (at0 (.conv ⟨2, 1, 0, 0xD4, 0, true, 80, 0⟩)) 0 e0 (.conv ⟨2, 1, 0, 0xD4, 0, true, 80, 0⟩) = true ∧
    (at0 (.conv ⟨2, 1, 0, 0xD4, 0, true, 80, 0⟩)).slabBad 0 (.conv ⟨2, 1, 0, 0xD4, 0, true, 80, 0⟩) = none ∧
    mxQuant 0xD4 = true ∧ 32 ≤ small.lanes / max (fmtBytes (cvtSrc 0xD4)) (fmtBytes (cvtDst 0xD4)) ∧
    mxQuant 0xE4 = true ∧ small.lanes / max (fmtBytes (cvtSrc 0xE4)) (fmtBytes (cvtDst 0xE4)) < 32 ∧
    issuesB (at0 (.conv ⟨2, 1, 0, 0x4D, 0, true, 80, 0⟩)) 0 e0 (.conv ⟨2, 1, 0, 0x4D, 0, true, 80, 0⟩) = true ∧
    mxQuant 0x4D = false ∧ mxDequant 0x4D = true ∧ mxQuant convF.cvt = false ∧ mxDequant convF.cvt = false := by decide +kernel

theorem witness_perm_other : issuesB (at0 (.perm ⟨0, 1, 0, 0, 0, true⟩)) 0 e0 (.perm ⟨0, 1, 0, 0, 0, true⟩) = true ∧
    (at0 (.perm ⟨0, 1, 0, 0, 0, true⟩)).slabBad 0 (.perm ⟨0, 1, 0, 0, 0, true⟩) = none ∧
    issuesB (at0 (.perm permF)) 0 e0 (.perm permF) = true ∧ (at0 (.perm permF)).settingValid 0 = false := by decide +kernel

theorem witness_transfers : issuesB (at0 (.ldt ldtF)) 0 e0 (.ldt ldtF) = true ∧ (at0 (.ldt ldtF)).xferFault 0 ldtF true = none ∧
    (at0 (.ldt ldtF)).ldtBad 0 ldtF = none ∧ issuesB (at0 (.stt ldtF)) 0 e0 (.stt ldtF) = true ∧
    (at0 (.stt ldtF)).xferFault 0 ldtF false = none ∧ (at0 (.stt ldtF)).slabBad 0 (.stt ldtF) = none ∧
    (at0 (.stt ldtF)).copySets 0 = [0] ∧ (at0 (.stt ldtF)).buffered 0 + 2 ≤ 16 * (at0 (.stt ldtF)).setBanks := by decide +kernel

/-! ### Sluice, Separator, Skimmer, Basin -/

/-- Descriptor 0: valid, one dimension of 1,024 bytes, stream 0, memory region 0. -/
def desc0 : List (Nat × List Byte) :=
  [(0, leBytes 8 (1 + 2 ^ 1 * 1)), (64, leBytes 8 (1024 + 2 ^ 32 * 1024)), (64 + 16, leBytes 8 1)]

/-- Memory region 0: 2^16 bytes, readable and writable. -/
def memRegion0 : List (Nat × List Byte) := [(8, leBytes 8 0x10000), (16, [7])]

def withDesc (s : State) : State :=
  { s with image := { s.image with bank := { s.image.bank with descs := fill desc0, memRegions := fill memRegion0 } } }

def gathF : SluiceF := ⟨0, 0, false, 1, 1, 0, 0, true⟩
def scatF : SluiceF := ⟨0, 0, false, 1, 0, 0, 0, false⟩

theorem witness_sluice :
    issuesB (withDesc (at0 (.gath gathF))) 0 e0 (.gath gathF) = true ∧ (withDesc (at0 (.gath gathF))).sluiceRangeBad 0 (.gath gathF) gathF = none ∧
    issuesB (withDesc (at0 (.scat scatF))) 0 e0 (.scat scatF) = true ∧ (withDesc (at0 (.scat scatF))).sluiceRangeBad 0 (.scat scatF) scatF = none ∧
    issuesB (withDesc (at0 (.bcst scatF))) 0 e0 (.bcst scatF) = true ∧ (withDesc (at0 (.bcst scatF))).sluiceRangeBad 0 (.bcst scatF) scatF = none ∧
    ((withDesc (at0 (.gath gathF))).image.bank.desc 0).slen = 1024 ∧ ((withDesc (at0 (.gath gathF))).image.bank.desc 0).grain = 1 ∧
    ((withDesc (at0 (.gath gathF))).stream 0).jobs = [] := by decide +kernel

def seprF : SeprF := ⟨0, 0, 0, 8, 15, 3, 0⟩
def skimF : SkimF := ⟨2, 0, 0, 63, 7, false, 0, 0, 0, false, 0⟩
def skimLong : SkimF := ⟨2, 0, 0, 1023, 7, false, 0, 0, 0, false, 0⟩

theorem witness_selection : issuesB (at0 (.sepr seprF)) 0 e0 (.sepr seprF) = true ∧ (at0 (.sepr seprF)).rangeBad 0 0 0 (2 * seprN seprF) false = none ∧
    (at0 (.sepr seprF)).rangeBad 0 0 256 (seprArea seprF) true = none ∧ (at0 (.sepr seprF)).unitBad 0 0 0 (min 512 (2 * seprN seprF)) = none ∧
    issuesB (at0 (.skim skimF)) 0 e0 (.skim skimF) = true ∧ (at0 (.skim skimF)).rangeBad 0 0 0 (fmtE 0 * skimM skimF) false = none ∧
    (at0 (.skim skimF)).unitBad 0 0 0 (min (512 * fmtE 0) (fmtE 0 * skimM skimF)) = none ∧ skimOcc skimF = 1 ∧
    issuesB (at0 (.skim skimLong)) 0 e0 (.skim skimLong) = true ∧ (at0 (.skim skimLong)).rangeBad 0 0 0 (fmtE 0 * skimM skimLong) false = none ∧
    (at0 (.skim skimLong)).unitBad 0 0 0 (min (512 * fmtE 0) (fmtE 0 * skimM skimLong)) = none ∧ skimOcc skimLong = 2 := by decide +kernel

def combF : CombF := ⟨2, 3, 5, 0, 7⟩
def drainF (clr : Bool) : DrainF := ⟨2, 4, 27, 0, clr⟩

theorem witness_basin : issuesB (at0 (.skp combF)) 0 e0 (.skp combF) = true ∧ issuesB (at0 (.comb combF)) 0 e0 (.comb combF) = true ∧
    (at0 (.comb combF)).slabBad 0 (.comb combF) = none ∧ (∀ r ∈ slabSources (.comb combF) 0, (at0 (.comb combF)).tileMark 0 r = none) ∧
    (at0 (.comb combF)).basinFault 0 (((at0 (.comb combF)).summands 0 combF).map (·.1)) = none := by decide +kernel

theorem witness_basin_poisoned :
    issuesB { at0 (.skp combF) with tileMarks := [(2, .internal)] } 0 e0 (.skp combF) = true ∧
    (joinMarks ((slabSources (.skp combF) 0).map (State.tileMark { at0 (.skp combF) with tileMarks := [(2, .internal)] } 0))).isSome = true := by
  decide +kernel

/-- The small machine with its last well as given. -/
def welled (anchor : BitVec 10) (count : BitVec 10) : State := { small with basin := { small.basin with wells := [(31, ⟨5, anchor, count⟩)] } }

/-- Anchors of SKP: an empty well, a well in a state without a sum, and an anchored one at 2^0 under a larger, an equal and a smaller one. -/
theorem witness_skp_step : 31 < small.wellCount 0 ∧ small.well (small.wellRead 0 31) = Well.clear ∧ Well.clear.anchor = 0 ∧
    dyadicLog 4 0 = 2 ∧ ((welled anchorNan 1).well ((welled anchorNan 1).wellRead 0 31)).anchorOf = none ∧ anchorNan ≠ 0 ∧
    ((welled 288 0).well ((welled 288 0).wellRead 0 31)).anchorOf = some 0 ∧ dyadicLog 1 0 = 0 ∧ dyadicLog 4 0 > 0 ∧
    ((welled 288 0).well ((welled 288 0).wellRead 0 31)).count = 0 ∧ ((welled 288 1023).well ((welled 288 1023).wellRead 0 31)).count ≠ 0 := by decide +kernel

/-- Summands of COMB at an anchored well: an infinity, a NaN, a product over the anchor, one at it. -/
theorem witness_comb_step : ([(31, Product.fin true 3 (-2))].filterMap (fun x => if x.1 = 31 then some x.2 else none)) ≠ [] ∧
    ([(31, Product.fin true 3 (-2))].filterMap (fun x => if x.1 = 30 then some x.2 else none)) = [] ∧
    Product.nan ∈ [Product.nan] ∧ Product.inf true ∈ [Product.inf true] ∧ dyadicLog 3 (-2) = -1 ∧ dyadicLog 3 (-1) = 0 ∧ dyadicLog 2 0 > 0 ∧
    ((welled 288 1023).well ((welled 288 1023).wellRead 0 31)).anchor ≠ anchorMiss := by decide +kernel

/-- Contributions at an anchor of 2^0: exact, and rounded from half an ulp of U to even. -/
theorem witness_contribution : (0 : Int) - 171 ≤ -171 ∧ (-172 : Int) < 0 - 171 ∧ contribution 0 false 3 (-171) = 3 ∧
    contribution 0 true 3 (-172) = -2 ∧ contribution 0 false 1 (-172) = 0 := by decide +kernel

/-- DRAIN of the stream's last well, with and without CLR. -/
theorem witness_drain : issuesB (at0 (.drain (drainF true))) 0 e0 (.drain (drainF true)) = true ∧
    issuesB (at0 (.drain (drainF false))) 0 e0 (.drain (drainF false)) = true ∧ 4 + 27 + 1 ≤ (at0 (.drain (drainF true))).wellCount 0 ∧
    (∀ a < 28, (at0 (.drain (drainF true))).wellBad 0 (4 + a) = false) := by decide +kernel

/-! ### Ledger instructions -/

def alarmF : AlarmF := ⟨7, 0, false, true, 63, 0, 5⟩
def csendF : CsendF := ⟨15, 1, 8, 7⟩
def crecvF : CrecvF := ⟨0, 2, 8, 3, true, 0, false⟩

/-- Endpoint 0 of the small machine: open, with one message of 8 bytes. -/
def withMessage (s : State) : State :=
  { s with ledger := { s.ledger with bytes := writeBytes (writeBytes s.ledger.bytes (endpointAt 0) [1, 0, 0, 0, 1]) (endpointAt 0 + 8) [0, 0, 0, 0] } }

theorem witness_ledger : issuesB (at0 (.tsig ⟨60, 3⟩)) 0 e0 (.tsig ⟨60, 3⟩) = true ∧ issuesB (at0 (.tadd ⟨63, 1⟩)) 0 e0 (.tadd ⟨63, 1⟩) = true ∧
    issuesB (at0 (.copen ⟨15, 4095⟩)) 0 e0 (.copen ⟨15, 4095⟩) = true ∧ issuesB (at0 (.cclos 15)) 0 e0 (.cclos 15) = true ∧
    issuesB (at0 (.alarm alarmF)) 0 e0 (.alarm alarmF) = true ∧ issuesB (at0 (.csend csendF)) 0 e0 (.csend csendF) = true ∧
    (at0 (.csend csendF)).slabBad 0 (.csend csendF) = none ∧ ((at0 (.csend csendF)).stream 0).performed 0 = none := by decide +kernel

/-- An effect that an earlier attempt performed. -/
def replayed (op : Op) : State := (at0 op).modStream 0 (fun x => { x with effects := [⟨0, [7], [1]⟩] })

theorem witness_replayed : issuesB (replayed (.csend csendF)) 0 e0 (.csend csendF) = true ∧ (replayed (.csend csendF)).slabBad 0 (.csend csendF) = none ∧
    ((replayed (.csend csendF)).stream 0).performed 0 ≠ none ∧ issuesB (replayed (.tadd ⟨63, 1⟩)) 0 e0 (.tadd ⟨63, 1⟩) = true ∧
    issuesB (replayed (.crecv crecvF)) 0 e0 (.crecv crecvF) = true ∧
    issuesB { at0 (.csend csendF) with tileMarks := [(1, .internal)] } 0 e0 (.csend csendF) = true ∧
    State.tileMark { at0 (.csend csendF) with tileMarks := [(1, .internal)] } 0 1 ≠ none := by decide +kernel

theorem witness_crecv : issuesB (withMessage (at0 (.crecv crecvF))) 0 e0 (.crecv crecvF) = true ∧
    (withMessage (at0 (.crecv crecvF))).ledgerBad ((withMessage (at0 (.crecv crecvF))).messageWords 0) = none := by decide +kernel

theorem witness_chk : issuesB (at0 (.chk ⟨1, 2, 0, 0⟩)) 0 e0 (.chk ⟨1, 2, 0, 0⟩) = true ∧ issuesB (at0 (.chk ⟨1, 0, 1, 9⟩)) 0 e0 (.chk ⟨1, 0, 1, 9⟩) = true ∧
    (at0 (.chk ⟨1, 0, 1, 9⟩)).shareWord 0 1 ≠ 9 ∧ (at0 (.chk ⟨1, 0, 1, 9⟩)).slabBad 0 (.chk ⟨1, 0, 1, 9⟩) = none := by decide +kernel

/-- An endpoint 1 bound to endpoint 0, open. -/
def withSender (s : State) (count : Byte) : State :=
  { s with ledger := { s.ledger with bytes := writeBytes (writeBytes [] (endpointAt 0 + 4) [count]) (endpointAt 1) [1] } }

theorem witness_ledger_ops : small.uncorrectable .ledger (tallyAt 16383 / 8) = false ∧
    (∀ d < 256, small.ledgerLe (detectorAt d) 4 % 2 ^ 18 ≠ 16382 / 2) ∧ (withSender small 3).endpointOpen 1 = true ∧
    (withSender small 3).queued ((withSender small 3).peerOf 1) = 3 ∧ (withSender small 4).queued ((withSender small 4).peerOf 1) = 4 ∧
    (withSender small 0).endpointOpen 2 = false := by decide +kernel

/-- Detector 200 on bit 3 of word 63, with LEVEL 0 and TALLY 5, selecting rising edges. -/
def watching : State := { small with ledger := { small.ledger with
  bytes := writeBytes [] (detectorAt 200) (leBytes 4 (63 + 3 * 2 ^ 18 + 2 ^ 24) ++ leBytes 4 5) } }

theorem witness_detector : bitOf 0 3 = bitOf (watching.ledgerLe (detectorAt 200) 4) 26 ∧ bitOf 8 3 ≠ bitOf (watching.ledgerLe (detectorAt 200) 4) 26 ∧
    bitOf (watching.ledgerLe (detectorAt 200) 4) 24 = true ∧ bitOf (watching.ledgerLe (detectorAt 200) 4) 25 = false ∧
    watching.uncorrectable .ledger (tallyAt 5 / 8) = false ∧ (watching.ledgerPut 504 [8]).tally 5 = 1 ∧ (watching.ledgerPut 496 [8]).tally 5 = 0 := by
  decide +kernel

theorem witness_watchers : (∀ d < 256, (watching.ledgerSet 504 [8]).ledgerLe (detectorAt d) 4 % 2 ^ 18 = 504 / 8 ↔ d = 200) ∧
    (∀ d < 256, (watching.ledgerSet 496 [8]).ledgerLe (detectorAt d) 4 % 2 ^ 18 ≠ 496 / 8) := by
  have h : (List.range 256).all (fun d => (decide ((watching.ledgerSet 504 [8]).ledgerLe (detectorAt d) 4 % 2 ^ 18 = 504 / 8) == decide (d = 200)) &&
      decide ((watching.ledgerSet 496 [8]).ledgerLe (detectorAt d) 4 % 2 ^ 18 ≠ 496 / 8)) = true := by decide +kernel
  rw [List.all_eq_true] at h
  refine ⟨fun d hd => ?_, fun d hd => ?_⟩
  all_goals have k := h d (List.mem_range.mpr hd)
  all_goals simp only [Bool.and_eq_true, beq_iff_eq, decide_eq_decide, decide_eq_true_eq] at k
  · exact k.1
  · exact k.2

/-- A TWAIT and a CRECV reached, not yet evaluated; and evaluated once without success. -/
def awaiting (op : Op) (ok : Option Bool) : State :=
  (at0 op).modStream 0 (fun x => { x with reached := some (3, 5), waitDl := some 0xFFFFFFFF, waitOk := ok })

theorem witness_wait : ((awaiting (.twait ⟨0, 5, 0, true⟩) none).stream 0).waitDl = some 0xFFFFFFFF ∧
    (awaiting (.twait ⟨0, 5, 0, true⟩) none).ledgerPending 0 = false ∧
    decodeWord ((awaiting (.twait ⟨0, 5, 0, true⟩) none).wordAt 0) = some (e0, .twait ⟨0, 5, 0, true⟩) ∧
    ((awaiting (.crecv crecvF) (some false)).stream 0).waitOk = some false ∧
    decodeWord ((awaiting (.crecv crecvF) (some false)).wordAt 0) = some (e0, .crecv crecvF) ∧
    (awaiting (.crecv crecvF) (some false)).ledgerPending 0 = false ∧
    ((withMessage (awaiting (.crecv crecvF) (some false))).evalWait 0).waitDone 0 (.crecv crecvF) = true ∧
    ((awaiting (.crecv crecvF) (some false)).evalWait 0).waitDone 0 (.crecv crecvF) = false := by decide +kernel

theorem witness_unwatched : ChannelsUnwatched (withSender small 3) := by unfold ChannelsUnwatched; decide +kernel

/-- A wait past its deadline. -/
def overdue (op : Op) : State :=
  (at0 op).modStream 0 (fun x => { x with reached := some (3, 5), waitDl := some 0, waitOk := some false })

theorem witness_timeout : overdue (.twait ⟨0, 5, 0, true⟩) = (overdue (.twait ⟨0, 5, 0, true⟩)).turn 0 ∧
    overdue (.crecv crecvF) = (overdue (.crecv crecvF)).turn 0 ∧
    ((overdue (.twait ⟨0, 5, 0, true⟩)).reach 0).sequencerFree 0 = true ∧ ((overdue (.twait ⟨0, 5, 0, true⟩)).reach 0).deadlinePassed 0 = true ∧
    decodeWord (((overdue (.twait ⟨0, 5, 0, true⟩)).reach 0).wordAt 0) = some (e0, .twait ⟨0, 5, 0, true⟩) ∧
    ((overdue (.crecv crecvF)).reach 0).sequencerFree 0 = true ∧ ((overdue (.crecv crecvF)).reach 0).deadlinePassed 0 = true ∧
    decodeWord (((overdue (.crecv crecvF)).reach 0).wordAt 0) = some (e0, .crecv crecvF) ∧
    ((overdue (.crecv crecvF)).reach 0).operandsReady 0 (.crecv crecvF) = true ∧ ((overdue (.crecv crecvF)).reach 0).done? 0 = none ∧
    ((overdue (.crecv crecvF)).reach 0).foreign 0 (.crecv crecvF) = none ∧
    ((overdue (.crecv crecvF)).reach 0).copyBad (((overdue (.crecv crecvF)).reach 0).fetchWords 0) = false := by decide +kernel

theorem witness_timeout_bad :
    State.ledgerBad { overdue (.twait ⟨0, 5, 0, true⟩) with eccBad := [(.ledger, 0)] } (waitWords (.twait ⟨0, 5, 0, true⟩)) = some 0 ∧
    State.sequencerFree (State.reach { overdue (.twait ⟨0, 5, 0, true⟩) with eccBad := [(.ledger, 0)] } 0) 0 = true := by decide +kernel

/-- A wait that times out on an uncorrectable tally raises ECC_UNCORR with the word's offset (R115, R345). -/
theorem test_timeout_bad : (match exec (.waitTimeout 0) { overdue (.twait ⟨7, 5, 0, true⟩) with eccBad := [(.ledger, 3)] } with
    | .next t => decide ((t.stream 0).ctx.faddr = 24 ∧ (t.stream 0).ctx.fault = faultECC ∧ (t.stream 0).stat.waitTo = 0)
    | _ => false) = true := by decide +kernel

/-! ### Setter, collector, tick, row -/

def job0 (phase : SetterPhase) : SetterJob :=
  { pc := 0, slot := 0, sub := 0, dst := List.range 64, issued := 0, begins := 5, ends := 10, phase := phase }

def withJob (phase : SetterPhase) : State :=
  { small with clock := { small.clock with offset := 60 } }.modStream 0 (fun x => { x with setter := { x.setter with job := some (job0 phase) } })

theorem witness_setter : ((withJob .taken).stream 0).setter.job = some (job0 .taken) ∧ framesRun (withJob .taken).unit.state = true ∧
    offendingLane (withJob .taken).lanes (job0 .taken).dst = none ∧ 0 + 4 + intakeCycles (withJob .taken).lanes ≤ (withJob .taken).clock.offset + 1 ∧
    ((withJob .computing).stream 0).setter.job = some (job0 .computing) ∧ (job0 .computing).ends ≤ (withJob .computing).clock.offset := by
  decide +kernel

def done0 : Completion := ⟨4, 2047, true, true, 2⟩
def collected : State := { small with collector := [(0, done0)], clock := { small.clock with frame := 5 } }

theorem witness_completion : collected = collected.portAEnd ∧ collected.collector = (0, done0) :: [] ∧ collected.unit.state ≠ .frozen ∧ collected.collectAt ≤ collected.clock.cycles ∧
    ¬(done0.frame = collected.clock.frame ∧ done0.attempt = collected.unit.attempt ∧ collected.clock.offset ≤ done0.offset) ∧ done0.offset < 2048 ∧
    collected.recAt 0 64 8 = 0x40000 := by decide +kernel

/-- A crossing with a freeze that the next tick releases. -/
def freezing : State := { small with crossing := [⟨0, .freeze⟩] }

theorem witness_tick : 0 < small.clock.offset ∧ small.unit.state ≠ .off ∧ small.unit.state ≠ .frozen ∧ small.unit.state ≠ .reset ∧
    small.freezes = false ∧ freezing.freezes = true := by decide +kernel

/-- A frame that has written a paired register, a halved region and a persistent well, with a result of the Setter, or with a deferred
computation. -/
def ending (results : List SetterJob) (job : Option SetterJob) : State :=
  State.modStream { small with tilesWritten := [shareKey 0 9], pool := { small.pool with written := [1, 5] },
                               basin := { small.basin with written := [3] }, clock := { small.clock with offset := 2048 } } 0
    (fun x => { x with setter := { x.setter with results := results, job := job } })

theorem witness_commit : (ending [] none).tilesWritten.Nodup ∧ (ending [] none).pool.written.Nodup ∧ (ending [] none).basin.written.Nodup ∧
    (ending [] none).unit.matrixOff = false ∧ (ending [] none).unit.replayReq = false ∧
    (∀ q ∈ allStreams, (((ending [job0 .computing] none).stream q).setterEnd 2048).setter.results = if q = 0 then [job0 .computing] else []) ∧
    (∀ q ∈ allStreams, ((ending [job0 .computing] none).stream q).setter.job = none) ∧
    ((ending [] (some (job0 .deferred))).stream 0).setter.job = some (job0 .deferred) ∧ (job0 .deferred).phase = .deferred := by decide +kernel

/-- The small machine in the step of a tick. -/
def inTick : State := { small with unit := { small.unit with window := true, committing := true }, clock := { small.clock with offset := 0 } }

def streamIn (st : StreamState) : State := inTick.modStream 0 (fun x => { x with ctx := { x.ctx with state := st } })

theorem witness_commands : inTick.unit.window = true ∧ (0 : StreamId).toNat < inTick.parts ∧ ((streamIn .running).stream 0).ctx.state = .running ∧
    ((streamIn .halted).stream 0).ctx.state = .halted ∧ ((streamIn .faulted).stream 0).ctx.state = .faulted ∧
    ((streamIn .armed).stream 0).ctx.state = .armed ∧ framePast 5 (streamIn .armed).clock.frame = false ∧
    ((streamIn .idle).stream 0).ctx.state = .idle := by decide +kernel

/-- Timer 7 armed for a frame: kind 0, tally 63. -/
def timed (target : Nat) (late : List Nat) : State :=
  { inTick with ledger := { bytes := writeBytes [] (timerAt 7) (leBytes 8 target ++ [1, 0, 0, 0] ++ leBytes 4 (16 * 63)), armed := [7], lateArmed := late, portAt := none } }

theorem witness_timer : timed 4 [] = (timed 4 []).beforeTimer 7 ∧ (timed 4 []).timerDue 7 = true ∧ (timed 4 []).timerCfg 7 % 4 = 0 ∧ (timed 4 []).timerTarget 7 % 2 ^ 48 = (timed 4 []).clock.frame.toNat ∧
    (timed 3 []).timerDue 7 = true ∧ (timed 3 []).timerTarget 7 % 2 ^ 48 ≠ (timed 3 []).clock.frame.toNat ∧ (timed 4 [7]).timerDue 7 = true := by
  decide +kernel

/-- Timer 7 periodic, every 3 frames: on time in frame 4; and so late that its next frame is past too. -/
def periodic (target : Nat) : State :=
  { inTick with ledger := { bytes := writeBytes [] (timerAt 7) (leBytes 8 target ++ [1, 0, 0, 0] ++ leBytes 4 (2 + 16 * 63 + 2 ^ 18 * 3)), armed := [7],
                            lateArmed := [], portAt := none } }

theorem witness_timer_periodic : periodic 4 = (periodic 4).beforeTimer 7 ∧ (periodic 4).timerDue 7 = true ∧ (periodic 4).timerCfg 7 % 4 = 2 ∧
    framePast (BitVec.ofNat 48 ((periodic 4).timerTarget 7 + field ((periodic 4).timerCfg 7) 18 14)) (periodic 4).clock.frame = false ∧
    periodic 1 = (periodic 1).beforeTimer 7 ∧ (periodic 1).timerDue 7 = true ∧
    framePast (BitVec.ofNat 48 ((periodic 1).timerTarget 7 + field ((periodic 1).timerCfg 7) 18 14)) (periodic 1).clock.frame = true := by
  decide +kernel

theorem witness_timer_edges : NoEdges (timed 4 []) ∧ ∀ w, (timed 4 []).uncorrectable .ledger w = false :=
  ⟨by unfold NoEdges; decide +kernel, fun _ => rfl⟩

theorem witness_replay : framesRun { small.unit with state := .hold }.state = false ∧ framesRun small.unit.state = true ∧ (4 : Frame) = small.clock.frame ∧
    small.unit.attempt.toNat < 2 ∧ (5 : Frame) ≠ small.clock.frame ∧ 2 ≤ ({ small.unit with attempt := 2 }).attempt.toNat := by decide +kernel

/-- Stream 0 with a landing at offset 10 in register 7 and a release at offset 13. -/
def scheduled : State :=
  State.modStream { small with image := { small.image with bank := { bank0 with landings := [⟨0, 10, 7⟩], releases := [⟨0, 13, 7⟩] } } } 0
    (fun x => { x with opened := true })

def vector (f : BitVec 4) (sb : BitVec 32) : FlumeIn := ⟨f, sb, List.replicate 64 1⟩

theorem witness_row : (∀ v ∈ [vector 0 0x80000000], v.data.length = flumeBytes scheduled.cfg) ∧ framesRun scheduled.unit.state = true ∧
    scheduled.landingNow 0 = some 7 ∧ scheduled.unit.state ≠ .recovery ∧ scheduled.releaseNow 0 = some 7 ∧ scheduled.scheduled 0 = true := by
  decide +kernel

/-- A third request for the frame, and a weir whose source reads uncorrectable. -/
def thrice : State := { small with unit := { small.unit with attempt := 2 } }
def weirBad : State := { scheduled with tileUse := [shareKey 0 7], eccBad := [(.tiles, 7 * 1024)] }

theorem witness_row_bad : thrice = thrice.closeTick ∧ framesRun thrice.unit.state = true ∧ (4 : Frame) = thrice.clock.frame ∧ 2 ≤ thrice.unit.attempt.toNat ∧
    scheduled = scheduled.closeTick ∧ scheduled.tileBad 0 7 = false ∧ weirBad = weirBad.closeTick ∧ weirBad.releaseNow 0 = some 7 ∧
    weirBad.scheduled 0 = true ∧ weirBad.tileBad 0 7 = true ∧ (weirBad.stream 0).ctx.state = .running := by decide +kernel

/-- The same schedule with its one release entry, or its one landing entry, uncorrectable. -/
def schedBad (w : Nat) : State := { scheduled with eccBad := [(.imageCopies, w)] }

theorem witness_schedule_bad : scheduled.releaseWords 0 = [scheduleWord 0 1] ∧ schedBad (scheduleWord 0 1) = (schedBad (scheduleWord 0 1)).closeTick ∧
    (schedBad (scheduleWord 0 1)).scheduled 0 = true ∧ (schedBad (scheduleWord 0 1)).unit.state ≠ .recovery ∧
    (schedBad (scheduleWord 0 1)).copyBad ((schedBad (scheduleWord 0 1)).releaseWords 0) = true ∧
    (∀ p ∈ allStreams, scheduled.copyBad (scheduled.landWords p) = false) ∧
    { scheduled with clock := { scheduled.clock with offset := 20 } }.releaseNow 0 = none ∧
    State.copyBad { scheduled with clock := { scheduled.clock with offset := 20 } } (State.releaseWords { scheduled with clock := { scheduled.clock with offset := 20 } } 0) = false := by
  decide +kernel

def recovering : State :=
  { scheduled with unit := { scheduled.unit with state := .recovery }, clock := { scheduled.clock with offset := 13 } }

theorem witness_recovery_release : recovering.unit.state = .recovery ∧
    (recovering.image.bank.releases.any (fun x => x.stream == 0 && x.offset == recovering.clock.offset)) = true ∧
    recovering.image.bank.present 0 = true ∧ recovering.copyBad (recovering.releaseWordsAt 0 13) = false ∧
    State.copyBad { recovering with eccBad := [(.imageCopies, scheduleWord 0 1)] } (recovering.releaseWordsAt 0 13) = true := by decide +kernel

/-! ### Memory traffic -/

def sjob (op : Op) (f : SluiceF) (phase : JobPhase) (plan : List BlockPlan) : SluiceJob :=
  { order := 0, pc := 0, op := op, f := f, p0 := 0, eff := 0, frame := 4, half := 1, tables := [], at_ := 90, from_ := 95, phase := phase, recorded := false, plan := plan,
    fills := [], fill := 0, left := [0, 1], raw := [], defer := [], key := 0, remote := false, failed := false, gone := false }

def plan0 : List BlockPlan := [⟨0, 0, [(0, 0), (1, 1)], false, .waiting⟩]

def withSluice (op : Op) (f : SluiceF) (phase : JobPhase) (plan : List BlockPlan) : State :=
  (withDesc small).modStream 0 (fun x => { x with jobs := [sjob op f phase plan] })

def checking : State := withSluice (.gath gathF) gathF .issued []
def reading : State := withSluice (.gath gathF) gathF .checked plan0
def writing : State := withSluice (.scat scatF) scatF .checked plan0

theorem witness_passes : (checking.stream 0).onWays false = some (sjob (.gath gathF) gathF .issued []) ∧
    (checking.stream 0).job 0 = some (sjob (.gath gathF) gathF .issued []) ∧ checking.sluiceActive 0 = true ∧ checking.wayFree 0 false = true ∧
    (reading.stream 0).job 0 = some (sjob (.gath gathF) gathF .checked plan0) ∧ (sjob (.gath gathF) gathF .checked plan0).from_ ≤ reading.clock.cycles ∧
    (∀ b ∈ plan0, b.bytes ≠ []) ∧
    (sjob (.gath gathF) gathF .issued []).at_ < checking.clock.cycles ∧
    (reading.stream 0).onWays false = some (sjob (.gath gathF) gathF .checked plan0) ∧ (∀ b ∈ plan0, b.taint = false) ∧
    (∀ o ∈ (reading.stream 0).jobs, o.defer = []) ∧
    (writing.stream 0).onWays true = some (sjob (.scat scatF) scatF .checked plan0) ∧ (writing.stream 0).job 0 = some (sjob (.scat scatF) scatF .checked plan0) ∧
    writing.eccBad = [] ∧ writing.eccOne = [] ∧ writing.pool.marks = [] ∧ (plan0[0].bytes.map (·.1)).Nodup := by decide +kernel

theorem witness_check_lands :
    (checking.checkBlocks 0 (sjob (.gath gathF) gathF .issued []) (checking.image.bank.desc 0) (checking.image.bank.memRegion 0) 1 0).any
      (fun c => c.used.any (fun u => checking.landLate 0 u.1 u.2.1 u.2.2)) = false ∧
    (checking.checkBlocks 0 (sjob (.gath gathF) gathF .issued []) (checking.image.bank.desc 0) (checking.image.bank.memRegion 0) 1 0).findSome? (·.fault) = none := by
  decide +kernel

/-- Index entries, and a BCST pattern, in a landing region to which a GATH of the frame before has not landed all. -/
def landing0 : SluiceJob := { sjob (.gath { gathF with region := 1 }) { gathF with region := 1 } .formed [] with frame := 3 }
def lateF : SluiceF := ⟨0, 0, true, 1, 2, 0, 0, false⟩
def patternF : SluiceF := ⟨0, 0, false, 1, 1, 0, 0, false⟩
def lateJob : SluiceJob := { sjob (.gath lateF) lateF .issued [] with order := 1 }
def patternJob : SluiceJob := { sjob (.bcst patternF) patternF .checked plan0 with order := 1 }
def lateSluice (j : SluiceJob) : State :=
  State.modStream { small with image := { small.image with bank := { bank0 with
      descs := fill [(0, leBytes 8 (1 + 2 ^ 1 * 1 + 2 ^ 38)), (16, leBytes 8 1), (64, leBytes 8 (1024 + 2 ^ 32 * 1024)), (64 + 16, leBytes 8 1)]
      memRegions := fill memRegion0 } } } 0 (fun x => { x with jobs := [landing0, j], order := 2 })

theorem witness_late : ((lateSluice lateJob).stream 0).onWays false = some lateJob ∧ ((lateSluice lateJob).stream 0).job 1 = some lateJob ∧
    (lateSluice lateJob).sluiceActive 0 = true ∧ (lateSluice lateJob).wayFree 0 false = true ∧
    ((lateSluice lateJob).checkBlocks 0 lateJob ((lateSluice lateJob).image.bank.desc 0) ((lateSluice lateJob).image.bank.memRegion 0) 1 0).any
      (fun c => c.used.any (fun u => (lateSluice lateJob).landLateIn lateJob.frame 0 u.1 u.2.1 u.2.2)) = true ∧
    ((lateSluice lateJob).checkBlocks 0 lateJob ((lateSluice lateJob).image.bank.desc 0) ((lateSluice lateJob).image.bank.memRegion 0) 1 0).findSome?
      (·.fault) = none ∧
    ((lateSluice patternJob).stream 0).onWays true = some patternJob ∧ ((lateSluice patternJob).stream 0).job 1 = some patternJob ∧
    (lateSluice patternJob).formsNow 0 patternJob = true ∧ (lateSluice patternJob).wayFree 0 true = true ∧
    (lateSluice patternJob).patternLate 0 patternJob = true ∧ writing.formsNow 0 (sjob (.scat scatF) scatF .checked plan0) = true ∧
    writing.wayFree 0 true = true ∧ writing.patternLate 0 (sjob (.scat scatF) scatF .checked plan0) = false := by decide +kernel

theorem witness_buffers : ∀ i, (writing.port i).wbuf.length + plan0.length ≤ 5120 := by
  intro i
  by_cases h : i < 8
  · have : i = 0 ∨ i = 1 ∨ i = 2 ∨ i = 3 ∨ i = 4 ∨ i = 5 ∨ i = 6 ∨ i = 7 := by omega
    rcases this with rfl | rfl | rfl | rfl | rfl | rfl | rfl | rfl <;> decide +kernel
  · have : (writing.port i) = .idle := by
      unfold State.port; rw [Vector.getElem?_eq_none (by omega)]; rfl
    rw [this]; decide +kernel

def req0 (cells : Mem) : Req :=
  { from_ := .stream 0 0, block := 0, key := 0, remote := false, num := 0, tick := 3, formed := 95, bytes := [(0, 0), (1, 1)], cells := cells, old := false }

def ported (q : Port) : State := { reading with ports := Vector.replicate 8 q }

theorem witness_requests : (ported { Port.idle with reads := [req0 []] }).portLive 0 = true ∧ small.unit.state ≠ .frozen ∧ small.domReq domSL = 0 ∧
    ((ported { Port.idle with reads := [req0 []] }).port 0).freeTag 100 = some 0 ∧
    ((ported { Port.idle with reads := [req0 []] }).port 0).afterR ≤ 100 ∧
    (ported { Port.idle with reads := [req0 []] }).shownRead 0 = some (req0 []) ∧
    (ported { Port.idle with writes := [req0 [(0, 1)]] }).shownRead 0 = none ∧
    (ported { Port.idle with writes := [req0 [(0, 1)]] }).shownWrite 0 = some (req0 [(0, 1)]) ∧
    ((ported { Port.idle with writes := [req0 [(0, 1)]] }).port 0).afterW ≤ 100 ∧
    ((ported { Port.idle with shownR := some (req0 [], 9) }).port 0).shownR = some (req0 [], 9) ∧
    (((ported { Port.idle with shownR := some (req0 [], 9) }).presentAt 0).port 0).shownR = some (req0 [], 9) ∧
    (((ported { Port.idle with writes := [req0 [(0, 1)]] }).presentAt 0).port 0).shownW = some (req0 [(0, 1)], 0) := by decide +kernel

def tagged (write : Bool) : State := ported { Port.idle with tags := [⟨5, write, req0 [], 0, none⟩] }

theorem witness_responses : ((tagged false).port 0).tags.find? (fun x => x.tag == 5 && !x.write && x.held.isNone) = some ⟨5, false, req0 [], 0, none⟩ ∧
    ((tagged false).stream 0).job 0 = some (sjob (.gath gathF) gathF .checked plan0) ∧ gathF.cvt = 0 ∧ ((req0 []).bytes.map (·.2)).Nodup ∧
    (req0 []).bytes ≠ [] ∧ ((tagged false).stream 0).writesBefore 0 = false ∧
    ((tagged true).port 0).tags.find? (fun x => x.tag == 5 && x.write && x.held.isNone) = some ⟨5, true, req0 [], 0, none⟩ := by decide +kernel

/-- A request of a GATH that converts bf16, one of the loader, one of an overlay's page-in, and a write of the scrub engine. -/
def convertF : SluiceF := { gathF with cvt := 0x12 }
def converting : State :=
  { withSluice (.gath convertF) convertF .checked plan0 with
    ports := Vector.replicate 8 { Port.idle with tags := [⟨5, false, { req0 [] with bytes := [(0, 0), (1, 1), (2, 2), (3, 3)] }, 0, none⟩] } }
def asked (from_ : Requester) (write : Bool) : State :=
  { ported { Port.idle with tags := [⟨5, write, { req0 [] with from_ := from_ }, 0, none⟩] } with
    image := { small.image with loader := some ⟨3, 0, 0, 1, [], [], [], none⟩, overlays := [⟨4, 1, 9, 0, false, [], [], [], false, none⟩] } }

theorem witness_responses_other : (converting.stream 0).job 0 = some (sjob (.gath convertF) convertF .checked plan0) ∧ convertF.cvt ≠ 0 ∧
    fmtBytes (cvtSrc convertF.cvt) = 4 ∧ (∀ i < 4, 0 + i ∈ ([(0, 0), (1, 1), (2, 2), (3, 3)] : List (Nat × Nat)).map (·.2)) ∧
    (converting.stream 0).writesBefore 0 = false ∧
    (((converting.port 0).tags.find? (fun x => x.tag == 5 && !x.write && x.held.isNone)).map (·.req.from_)) = some (.stream 0 0) ∧
    (asked (.loader 3 1 0) false).respLive 0 = true ∧ (asked (.loader 3 1 0) false).image.loader = some ⟨3, 0, 0, 1, [], [], [], none⟩ ∧
    loadRange (asked (.loader 3 1 0) false).image.shadow.bytes 1 = some (256, 256) ∧
    loadRange (asked (.loader 3 1 0) false).image.shadow.bytes 0 = some (0, 256) ∧
    (((asked (.loader 3 1 0) false).port 0).tags.find? (fun x => x.tag == 5 && !x.write && x.held.isNone)).isSome = true ∧
    (asked (.overlay 4 1) false).image.overlays[0]? = some ⟨4, 1, 9, 0, false, [], [], [], false, none⟩ ∧
    (((asked (.overlay 4 1) false).port 0).tags.find? (fun x => x.tag == 5 && !x.write && x.held.isNone)).isSome = true ∧
    (((asked (.scrub 0) true).port 0).tags.find? (fun x => x.tag == 5 && x.write && x.held.isNone)).isSome = true ∧
    0 ∉ (asked (.scrub 0) true).scrub.failed := by decide +kernel

/-- A read response under the number of a write's tag, and a response under a number that is not outstanding. -/
theorem witness_unknown : (tagged true).respLive 0 = true ∧ (∀ x ∈ ((tagged true).port 0).tags, x.tag = 5 → x.write = false → x.held ≠ none) ∧
    (∀ x ∈ ((tagged false).port 0).tags, x.tag = 1023 → x.write = true → x.held ≠ none) ∧ (List.replicate 512 (0 : Byte)).length = 512 := by decide +kernel

/-! ### Pool and patrol -/

def entry0 : PoolEntry := ⟨0, 0, [(31, 1), (32, 2)], 5, 10⟩
def buffered : State := { small with pool := { small.pool with wbuf := [entry0] } }
def rekey (n : Nat) : Rekey := ⟨2, 7, 1, n⟩
def churning (n offset : Nat) : State :=
  { small with pool := { small.pool with churn := { Churn.idle with step := some (rekey n) } }, clock := { small.clock with offset := offset } }
def flipped : State := { small with eccOne := [(.pool, 0), (.bootRom, 9)] }

theorem witness_pool : buffered.coresLive = true ∧ buffered.nextReads 0 = [] ∧ buffered.pool.wbuf = [] ++ entry0 :: [] ∧ entry0.others ≤ buffered.clock.offset ∧
    (entry0.cells.map (·.1)).Nodup ∧ entry0.word.2 ≠ [] ∧
    ((buffered.modStream 3 (fun x => { x with poolReadEnd := 11 })).stream 3).poolReadEnd = 11 ∧ (churning 6 2000).rekeyDue = some (rekey 6) ∧ (churning 7 2030).rekeyDue = some (rekey 7) ∧
    (churning 6 2000).rekeyFits (rekey 6) = true ∧ (churning 7 2030).rekeyFits (rekey 7) = true ∧ (churning 7 2031).rekeyFits (rekey 7) = false ∧
    0 ∈ (churning 6 2000).copySets 2 ∧ ((churning 6 2000).image.bank.region 2).rows = 8 ∧ Memory.wf (churning 6 2000).pool.bytes = true ∧ (Store.pool, 0) ∈ flipped.eccOne ∧ (Store.pool, 0) ∉ flipped.eccBad ∧ flipped.pendingWord 0 = false ∧ (Store.bootRom, 9) ∈ flipped.eccOne := by
  decide +kernel

def draining0 : State :=
  { at0 (.ldt ldtF) with pool := { (at0 (.ldt ldtF)).pool with wbuf := [⟨0, 0, [(1024, 1)], 0, 0⟩] } }

/-- A bank that the set's stream may yet read, and a bank that has served in the cycle. -/
theorem witness_pool_waits : draining0.closeTick = draining0 ∧ draining0.drainBank 0 = some (draining0.bankAt 1024) ∧ draining0.bankAt 1024 ∈ draining0.nextReads 0 ∧ buffered.closeTick = buffered ∧
    (∀ c ∈ entry0.word.1, buffered.bankAt c.1 ∉ buffered.cycle.banks) ∧ buffered.drainBank 0 = some (buffered.bankAt 31) ∧
    buffered.bankAt 31 ∈ (buffered.takeBanks [buffered.bankAt 31]).cycle.banks := by decide +kernel

/-! ### Images, recovery, cores -/

def loader0 (v : Option (BitVec 8 × BitVec 32)) : Loader :=
  { gen := 0, source := 0, key := 0, step := 0, asked := [], got := [], ovl := [], verdict := v }

def held (reason : BitVec 8) : State := { State.reset with cfg := .psiuno2, cores := awake, unit := { UnitCtl.reset with state := .hold, reason := reason } }
def loadingState : State := { held 1 with image := { State.reset.image with loader := some (loader0 (some (5, 7))) } }

def overlay0 : OverlayInfo :=
  { index := 1, source := 0, offset := 512, size := 4, digest := [], stream := 0, dest := 0, head := [], words := [] }
def overlayCmd0 : OverlayCmd :=
  { gen := 0, overlay := 1, frame := 9, at_ := 0, ready := true, asked := [0], got := [0], bytes := [], checked := false, bad := none }
def overlaid : State :=
  { small with image := { small.image with active := { ImageStore.empty with overlays := [overlay0] }, overlays := [overlayCmd0] } }

theorem witness_loader : loadingState.image.loader = some (loader0 (some (5, 7))) ∧ loading loadingState.unit.state = true ∧
    loadEnded loadingState.image.shadow (loader0 (some (5, 7))) = true ∧
    overlaid.image.overlays = [] ++ overlayCmd0 :: [] ∧ overlaid.overlayKept overlayCmd0.overlay = some overlay0 ∧
    (blocksOf (overlayRange overlay0)).all overlayCmd0.got.contains = true ∧ overlaid.unit.matrixOff = false := by decide +kernel

def clearing (r : Nat) : State := { held 1 with unit := { (held 1).unit with initAt := some 0, clear := some r } }

theorem witness_clear : (clearing 0).clearing = true ∧ (clearing 2047).clearing = true ∧ (clearing 0).cycle.banks = [] := by decide +kernel

def initialising : State := { held 1 with unit := { (held 1).unit with initAt := some 0 } }
def staging : State := { small with image := { small.image with exchange := some ⟨5, false⟩ } }
def exchanging : State := { inTick with image := { inTick.image with exchange := some ⟨4, true⟩ } }

theorem witness_stores : initialising.unit.initAt.isSome = true ∧ initialising.unit.initDone = false ∧ initialising.unit.state = .hold ∧
    initialising.unit.clear = none ∧ (∀ d ∈ initialising.switchable, initialising.domReq d = 0 ∧ initialising.domCur d = 0) ∧ staging.image.exchange = some ⟨5, false⟩ ∧ staging.unit.state ≠ .frozen ∧
    staging.unit.matrixOff = false := by
  decide +kernel

/-- A machine in Hold whose stores are initialised. -/
def initialised : State :=
  { held 1 with unit := { (held 1).unit with initAt := some 0, initDone := true }, clock := { Clock.reset with offset := 2048 }
                image := { State.reset.image with bank := bank0 } }

theorem witness_armed : initialised.unit.initDone = true ∧ initialised.unit.state = .hold ∧ initialised.unit.limpDue = false ∧
    initialised.unit.noCore = false ∧ 0 < initialised.clock.offset ∧ initialised.freezes = false ∧ initialised.image.overlays = [] ∧
    (∀ p ∈ allStreams, (initialised.stream p).start = none) ∧ initialised.present 0 = true := by decide +kernel

/-- The staged bank of `exchanging` is empty: no stream is present; the other clause has a bank with stream 0. -/
theorem witness_exchange : exchanging.image.exchange = some ⟨4, true⟩ ∧ exchanging.unit.window = true ∧ exchanging.unit.committing = true ∧
    framePast 4 exchanging.clock.frame = true ∧ exchanging.unit.state = .running ∧ Bank.empty.present 0 = false ∧ bank0.present 0 = true ∧
    bank0.present 1 = false := by decide +kernel

def draining (a : AfterDrain) : State :=
  { inTick with unit := { inTick.unit with state := .draining, drainTo := some a, drainTick := 2 } }

theorem witness_tick_order : exchanging = exchanging.crossingStep ∧ exchanging.unit.window = true ∧
    draining .armed = (draining .armed).crossingStep.exchangeStep ∧ draining .hold = (draining .hold).crossingStep.exchangeStep := by decide +kernel

theorem witness_drain_complete : (draining .hold).unit.drainTo = some .hold ∧ (draining .armed).unit.state = .draining ∧
    (draining .armed).unit.drainTick < (draining .armed).clock.ticks ∧ (draining .armed).anyRequest = false ∧
    (∀ p ∈ allStreams, ((draining .armed).stream p).setterOpen = false) := by decide +kernel

def inRecovery : State := { small with unit := { small.unit with state := .recovery } }
def probing : State := { inRecovery with recov := { Recov.reset with probeTick := some 3 }, clock := { small.clock with offset := 140 } }
def readyTimedOut : State :=
  { inRecovery with unit := { inRecovery.unit with ready := true, window := true, readyTick := 3 }, clock := { small.clock with ticks := 65539 } }
/-- Sub-slots 0 and 1 valid under cut 4, sub-slot 16 staged under cut 0, SXPOS 4 after 0. -/
def reforming : State :=
  { small with settings := { small.settings with reform := some 0, sxpos := 4, valid := [0, 1], staged := [16] }, clock := { small.clock with offset := 2047 } }
def copyBroken (bad : List (Store × Nat)) : State := { inRecovery with unit := { inRecovery.unit with copyBad := true }, eccBad := bad }

theorem witness_recovery : probing.unit.state = .recovery ∧ probing.recov.probeTick = some probing.clock.ticks ∧ 140 ≤ probing.clock.offset ∧
    probing.defects = [] ∧ readyTimedOut.unit.ready = true ∧ readyTimedOut.unit.window = true ∧
    readyTimedOut.unit.readyTick + 65536 ≤ readyTimedOut.clock.ticks ∧ reforming.settings.reform = some 0 ∧ 2047 ≤ reforming.clock.offset ∧
    sxLegal reforming.cfg 0 = true ∧ sxLegal reforming.cfg 4 = true ∧ reforming.cut ≤ 4 ∧ reforming.image.staged.cut ≤ 4 ∧
    (reforming.settings.valid.map (fun n => (reforming.cut, n)) ++ reforming.settings.staged.map (fun n => (reforming.image.staged.cut, n))).Pairwise
      (fun x y => rangesMeet (slotPlace reforming.cfg x.1 x.2) (usedBytes reforming.cfg x.1) (slotPlace reforming.cfg y.1 y.2)
        (usedBytes reforming.cfg y.1) = false) ∧
    (0 : Nat) < 2 * probing.cfg.laneBits ∧
    (copyBroken [(.imageStores, 0)]).imageBad = true ∧ (copyBroken [(.imageCopies, 0)]).imageBad = false ∧
    (copyBroken [(.imageCopies, 0)]).unit.copyBad = true := by decide +kernel

/-- A frame that ends with a firmware cause pending, and Recovery ready to resume at frame 4, with and without a Running context. -/
def caused : State := { small with unit := { small.unit with causes := causeFirmware }, clock := { small.clock with offset := 2048 } }
def resuming : State := { inRecovery with unit := { inRecovery.unit with ready := true, resumeG := 4, readyTick := 3 } }

theorem witness_recovery_bounds : (7 : Frame) ≠ caused.clock.frame + 1 ∧ caused.causesNow false false ≠ 0 ∧ caused.unit.state ≠ .limp ∧
    ({ caused.unit with replayReq := true } : UnitCtl).replayReq = true ∧
    resuming.unit.state = .recovery ∧ resuming.unit.ready = true ∧ resuming.clock.frame = resuming.unit.resumeG ∧
    resuming.clock.ticks < resuming.unit.readyTick + 65536 ∧ resuming.anyRunning = true ∧
    State.anyRunning (resuming.mapStreams (fun _ x => { x with ctx := { x.ctx with state := .halted } })) = false ∧ inRecovery.unit.ready = false ∧
    readyTimedOut = readyTimedOut.crossingStep.exchangeStep.drainStep := by decide +kernel

def holdDue : State := { inRecovery with unit := { inRecovery.unit with holdDue := some 0x43 } }
def limpDue : State := { small with unit := { small.unit with limpDue := true } }
theorem witness_due : holdDue.unit.holdDue = some 0x43 ∧ holdDue.unit.state = .recovery ∧ holdDue.unit.limpDue = false ∧
    limpDue.unit.limpDue = true ∧ limpDue.unit.holdDue = none ∧ limpDue.cores.failed.getLsbD 0 = false := by decide +kernel

def watched (failed : BitVec 4) : State :=
  { small with cores := { awake with assigned := true, failed := failed }, clock := { small.clock with control := 100000000 } }

theorem witness_cores : (watched 0).holdsFunction 1 = true ∧ (watched 0).cores.failed.getLsbD 1 = false ∧
    (watched 0).cores.kicked[1].toNat + 100000000 ≤ (watched 0).clock.control.toNat ∧ (watched 0).cores.receiver 2 = some 3 ∧
    (watched 13).cores.failed.getLsbD 1 = false ∧ (watched 13).cores.receiver 15 = none ∧ limpable small.unit.state = true ∧
    tickState small.unit.state = true ∧ limpable (held 1).unit.state = true ∧ tickState (held 1).unit.state = false ∧
    (held 1).cores.failed.getLsbD 0 = false ∧ small.cores.failed.getLsbD 0 = false ∧ (watched 1).cores.failed.getLsbD 0 = true ∧ limpable UnitState.limp = false := by decide +kernel

/-- CC0's watchdog in Limp. -/
theorem witness_limp_core : ({ watched 0 with unit := { small.unit with state := .limp } } : State).holdsFunction 0 = true ∧
    (watched 0).cores.failed.getLsbD 0 = false ∧ (watched 0).cores.kicked[0].toNat + 100000000 ≤ (watched 0).clock.control.toNat := by decide +kernel

/-! ### Commands of masters -/

/-- A queue of the event log with n records. -/
def logged (n : Nat) (s : State) : State := { s with log := { s.log with queue := List.replicate n { mkRec 9 3 255 5 4 0 0 with seq := 1 } } }

/-- One entry in the Control crossing, released in the step of a tick in frame 4. -/
def crossing1 (x : Crossing) (u : UnitCtl) : State :=
  { inTick with unit := { u with window := true, committing := true }, crossing := [⟨50, x⟩] }
def onUnit (st : UnitState) (reason : BitVec 8) : UnitCtl := { small.unit with state := st, reason := reason }

theorem witness_crossing : (crossing1 (.image .load 0) (onUnit .running 0)).unit.window = true ∧ 50 + 16 ≤ inTick.clock.ctl ∧ inTick.image.waiting = [] := by
  decide +kernel

/-- The images of a machine with both stores filled: the active one present, the shadow one admitted. -/
def stored : State :=
  { inTick with image := { inTick.image with active := { ImageStore.empty with present := true }, shadow := { ImageStore.empty with admitted := true } } }

theorem witness_commands_accepted : (1 : Nat) ∉ [5, 6, 7, 8, 0x46] ∧ inTick.image.loader = none ∧ inTick.image.exchange = none ∧
    stored.image.shadow.admitted = true ∧ stored.image.active.present = true ∧ (0x40 : Nat) ≤ (0x41 : BitVec 8).toNat ∧
    stored.exchangeFits = true ∧ stored.unit.state = .running ∧ stale 9 stored.clock.frame = false ∧ framePast 9 stored.clock.frame = false ∧
    framePast 4 stored.clock.frame = true ∧ stale 4 stored.clock.frame = false ∧ stored.unit.committing = true ∧
    stale (4 - 65537) stored.clock.frame = true ∧ stale (4 - 65536) stored.clock.frame = false ∧ (stored.stream 0).ctx.state = .running ∧
    loadingState.image.loader.isSome = true ∧ exchanging.image.loader = none ∧ exchanging.image.exchange.isSome = true ∧
    (exchanging.applyEntry ⟨50, .image .load 0⟩).regs.imgRefused = true ∧ stored.unit.matrixOff = false := by decide +kernel

/-- A shadow image whose one section writes slot 0, which stream 0 holds. -/
def unfitting : State :=
  { stored with image := { stored.image with
      bank := { bank0 with streamTable := writeBytes bank0.streamTable 256 [1] }
      shadow := { stored.image.shadow with bytes := writeBytes (writeBytes [] 6 [1]) 256 ([4, 0, 0, 0] ++ leBytes 4 (16 + usedBytes stored.cfg 0) ++ leBytes 8 512) } } }

theorem witness_exchange_unfit : unfitting.exchangeFits = false ∧ unfitting.image.shadow.admitted = true := by decide +kernel

/-- A DRAIN of frame 4 that has waited, behind it an UNLOAD. -/
def waitingDrain : State := { inTick with image := { inTick.image with waiting := [(.drain, 4), (.unload, 4)] } }

theorem witness_waiting : waitingDrain.image.waiting = (.drain, 4) :: [(.unload, 4)] ∧ framePast 4 waitingDrain.clock.frame = true ∧
    waitingDrain.unit.committing = true ∧ waitingDrain.unit.state = .running := by decide +kernel

theorem witness_control : readyB small (.host 0 5) = true ∧ readyB small (.core 2) = true ∧ readyB overlaid (.core 2) = true ∧
    mayWrite (.host 0 5) 0x40 = true ∧ mayWrite (.core 2) 0x40 = true ∧ mayWrite (.host 0 5) 0x80 = true ∧ mayWrite (.host 0 5) 0x58 = true ∧
    (overlaid.overlayKept 1).isSome = true ∧ overlaid.image.overlays.length < 16 := by decide +kernel

def scrubbing (sent : List (BitVec 3 × Nat)) (stopped : Bool) : State :=
  { held 1 with unit := { (held 1).unit with state := .scrub }
                scrub := { Scrub.reset with status := 2, list := [⟨0, 1, 0⟩], sent := sent.map (fun x => (x.1.toNat, x.2)), stopped := stopped } }

/-- A list of one entry with LAST at 0, and a list in memory that is all zeros. -/
def listed : State := { held 1 with cores := { awake with sram := writeBytes [] 0 (leBytes 8 0 ++ leBytes 8 (1 + 2 ^ 63)) } }

/-- Phase MAPPED of a switch, with F0 on core 0. -/
def mapped (phase : SwitchPhase) : State :=
  { scrubbing [(0, 1)] false with scrub := { (scrubbing [(0, 1)] false).scrub with switch := some (phase, 7) } }

theorem witness_log_full : (logged 256 holdDue).logRoom = false ∧ holdDue.logRoom = true ∧
    readyB (logged 254 (mapped .mapped)) (.core (mapped .mapped).cores.f0) = true ∧ (253 : Nat) < (logged 254 (mapped .mapped)).log.queue.length ∧
    (logged 253 (mapped .mapped)).log.queue.length ≤ 253 ∧ 252 < (logged 253 (mapped .scrubbing)).log.queue.length ∧
    (logged 252 (mapped .scrubbing)).log.queue.length ≤ 252 ∧ (logged 252 (mapped .scrubbing)).scrub.status = 2 := by decide +kernel

theorem witness_scrub : readyB (held 1) (.host 1 5) = true ∧ readyB listed (.host 1 5) = true ∧ (held 1).unit.state = .hold ∧ (held 1).unit.reason ≠ 8 ∧
    (held 1).unit.matrixOff = false ∧ (held 1).scrub.switch = none ∧ readyB small (.host 1 5) = true ∧ small.unit.state ≠ .hold ∧
    readyB (mapped .mapped) (.core (mapped .mapped).cores.f0) = true ∧ (mapped .mapped).scrub.switch = some (.mapped, 7) ∧
    readyB (scrubbing [] false) (.host 1 5) = true ∧ (listed.scrubList 0 4096 0 []).getRight? = some [⟨0, 1, 0⟩] ∧
    ((held 1).scrubList 0 4096 0 []).getLeft? = some (2, 0) ∧
    (scrubbing [] true).scrub.status = 2 ∧ (scrubbing [] true).scrubOpen = false ∧ (scrubbing [] true).unit.state = .scrub ∧
    (scrubbing [(0, 1)] false).logRoom = true ∧
    scrubBlocks (scrubbing [(0, 1)] false).scrub.list ≤ (scrubbing [(0, 1)] false).scrubSent := by decide +kernel

def switching : State := { held 1 with scrub := { Scrub.reset with switch := some (.begin, 7) }, unit := { (held 1).unit with state := .scrub } }

theorem witness_switch : mayWrite (.host 1 5) 0x158 = true ∧ (7 : BitVec 32) ≠ 0 ∧ (held 1).unit.state = .hold ∧ (held 1).sec.busy = false ∧
    switching.scrub.switch = some (.begin, 7) ∧ switching.sec.req = none ∧ switching.unit.state = .scrub ∧
    (∀ d ∈ switching.switchable, switching.domCur d = 0) ∧ (∀ i < 8, (switching.port i).shownR = none ∧ (switching.port i).shownW = none) ∧
    (mapped .scrubbing).scrub.switch = some (.scrubbing, 7) ∧ (mapped .scrubbing).scrub.status = 2 ∧ (mapped .scrubbing).scrubOpen = false ∧
    (mapped .scrubbing).scrub.stopped = false ∧ scrubBlocks (mapped .scrubbing).scrub.list ≤ (mapped .scrubbing).scrubSent ∧
    (mapped .scrubbing).scrubErrors = 0 := by decide +kernel

theorem witness_switch_ports : ∀ i, (switching.port i).shownR = none ∧ (switching.port i).shownW = none := by
  intro i
  by_cases h : i < 8
  · exact witness_switch.2.2.2.2.2.2.2.2.1 i h
  · have : switching.port i = .idle := by unfold State.port; rw [Vector.getElem?_eq_none (by omega)]; rfl
    rw [this]; decide

/-- A bound tenant; then an open session with one key record. -/
def bound : State := { held 1 with ao := { AlwaysOn.first with tenant := 7 } }
def inSession : State :=
  { bound with sec := { Security.reset with session := some (0, []), mailbox := writeBytes (writeBytes [] 104 [1]) 128 [1, 1] } }
def answered : State :=
  { inSession with sec := { inSession.sec with busy := true, req := some ⟨6, [], 1, some 0, .deliverInstall⟩, rsp := some (0, [], 0) }
                   clock := { Clock.reset with control := 20000000000 } }

theorem witness_security : servesB bound (.host 0 5) = true ∧ servesB inSession (.host 0 5) = true ∧ bound.romOnly = false ∧ bound.sec.busy = false ∧ bound.sec.req = none ∧ bound.ao.tenant ≠ 0 ∧
    bound.sec.session = none ∧ inSession.deliverRefusal = none ∧ answered.sec.req = some ⟨6, [], 1, some 0, .deliverInstall⟩ ∧
    answered.sec.rsp = some (0, [], 0) ∧ 0 + fixedTime 6 ≤ answered.clock.control.toNat ∧ (∀ x ∈ answered.sec.offered, keyUse x ≠ 3) ∧
    answered.inputs.secReady = true ∧ (1 : Nat) < (SecReq.mk 5 (List.replicate 98 0) 1 none .deliverEcdh).beats.length ∧
    answered.sec.session = some (0, []) ∧ (0 : BitVec 64).toNat + 10000000000 ≤ answered.clock.control.toNat := by decide +kernel

/-- READY not set, in the frame G and before it; a re-form under way, and SXPOS written as it stands and anew. -/
def unready (g : Frame) : State := { inRecovery with unit := { inRecovery.unit with resumeG := g } }

theorem witness_recovery_releases : (unready 9).unit.ready = false ∧ (unready 9).clock.frame ≠ (unready 9).unit.resumeG ∧
    (unready 4).clock.frame = (unready 4).unit.resumeG ∧ resuming.unit.ready = true ∧ (unready 9).settings.reform.isSome = false ∧
    ({ unready 9 with settings := reforming.settings } : State).settings.reform.isSome = true ∧ (unready 9).settings.sxpos = 0 ∧
    (4 : BitVec 5) ≠ (unready 9).settings.sxpos ∧ (unready 9).repair.lanesNext = [] := by decide +kernel

theorem witness_recovery_commands : readyB inRecovery (.core 2) = true ∧ readyB small (.core 2) = true ∧ inRecovery.unit.state = .recovery ∧
    small.unit.state ∈ [UnitState.armed, .running, .replay, .draining] ∧ sxLegal inRecovery.cfg (4 % 32) = true ∧
    inRecovery.legalWord (0x1A0 + 4 * 7) 0x8180 = true := by decide +kernel

def copy0 : List Byte := leBytes 8 0 ++ leBytes 4 (crc32c (leBytes 8 0)).toNat ++ leBytes 4 0

theorem witness_maker : readyB (held 6) (.host 2 5) = true ∧ readyB (held 5) (.host 2 5) = true ∧ (held 5).romOnly = false ∧ (held 6).sec.req = none ∧ (held 6).repair.fwBusy = false ∧
    (held 6).unit.reason = 6 ∧ (held 5).unit.reason = 5 ∧ (held 5).repair.fuseBusy = false ∧ (2 : BitVec 2) ≠ 3 ∧ (held 5).ao.tenant = 0 ∧
    copyIntact ((({ Repair.reset with maps := [copy0, copy0, copy0] } : Repair).copies false).getD 2 []) = true := by decide +kernel

/-! ### Registers and windows -/

def booting : State :=
  { State.reset with cfg := .psiuno2, unit := { UnitCtl.reset with state := .boot }, clock := { Clock.reset with control := 520007 }
                     cores := { Cores.reset with ctx := Cores.reset.ctx.set 0 .start } }
def profiled : State := { small with ao := { AlwaysOn.first with consent := 2 } }

theorem witness_core_writes : servesB small (.core 2) = true ∧ servesB booting (.core 0) = true ∧ booting.unit.state = .boot ∧
    (10 : BitVec 4).getLsbD 1 = true ∧ (10 : BitVec 4).getLsbD 2 = false ∧ profiled.profileOn = true ∧ servesB profiled (.host 0 5) = true ∧
    readyB profiled (.host 2 5) = true ∧ (∀ x ∈ wordsOfWrite (0x300 + 4 * 6) true 0x0000FFFF00000001, profiled.legalWord x.1 x.2 = true) ∧
    (∀ x ∈ wordsOfWrite (0x300 + 4 * 3) false 0x1F101F0F, profiled.legalWord x.1 x.2 = true) := by decide +kernel

/-- EVENT 0x11 is reserved, and FILTER 16 too; the reserved bits of a word read 0 (R17, R397, R429). -/
theorem test_perfctl : small.legalWord 0x300 0x11 = false ∧ small.legalWord 0x300 0x1000 = false ∧ small.legalWord 0x300 0xE0001F10 = true ∧
    ((small.perfWrite 0 0xE0001F10).regWord 6 0x300, (small.perfWrite 5 0x12345).regWord 6 0x314) = (0x1F10, 0x2345) := by decide +kernel

theorem witness_register_writes : readyB small (.host 1 5) = true ∧ readyB small (.host 0 5) = true ∧ (4 : BitVec 64).toNat % 8 ≤ 4 ∧ small.unit.locked = false ∧
    ({ small.unit with locked := true }).locked = true ∧ 4 < (5 : BitVec 64).toNat % 8 ∧ (0x100 : BitVec 16).toNat % 4 = 0 ∧
    regExists 0x100 = true ∧ isSelection 0x100 = false ∧ mayWrite (.host 0 5) 0x100 = false := by decide +kernel

/-- Boundary values of the plain and the locked registers, and a bit of PSI_ALERT that hardware has set in the cycle (R16, R414). -/
theorem witness_register_values : servesB small (.host 0 5) = true ∧ readyB { small with unit := { small.unit with locked := true } } (.host 1 5) = true ∧
    2000 * small.cfg.ports = 2000 ∧ (0x07D007D0 : BitVec 64).toNat % 65536 = 2000 ∧ (0x07D107D0 : BitVec 64).toNat / 65536 = 2001 ∧
    1 ≤ (0x00010001 : BitVec 64).toNat % 65536 ∧ (0x77 : BitVec 64).toNat % 8 ≤ (0x77 : BitVec 64).toNat / 16 % 8 ∧
    (small.alertBit 3).regs.fresh.contains (32 * 0x20 + 3) = true ∧ servesB (small.alertBit 3) (.host 0 5) = true := by decide +kernel

theorem witness_wide : (0x84 : BitVec 16) ∈ ([0x40, 0x44, 0x58, 0x5C, 0x80, 0x84] : List (BitVec 16)) ∧ mayWrite (.core 1) 0x84 = true ∧
    servesB small (.core 1) = true := by decide +kernel

theorem witness_capture : wideReg 0x8 = some (0x8, 2) ∧ wideReg (0x8 + 4 * 1) = some (0x8, 2) ∧
    wideReg 0x1F00 = some (0x1F00, 64) ∧ wideReg (0x1F00 + 4 * 63) = some (0x1F00, 64) ∧ (0xFFFC : BitVec 16).toNat % 4 = 0 ∧
    (0xFFF8 : BitVec 16).toNat % 8 = 0 ∧ servesB small (.core 1) = true ∧ servesB small (.host 0 5) = true := by decide +kernel

/-- Endpoint 100, open and with one message: no stream owns it, and the cores do. -/
def portB : State := { small with ledger := { small.ledger with bytes := writeBytes [] (endpointAt 100) [1, 0, 0, 0, 1], portAt := some 100 } }

/-- A master finds port B free: the last access lay in another cycle. -/
theorem takes_of (s : State) (m : Master) (addr : Nat) (h : servesB s m = true) (i : s.portWaits m addr = false)
    (x : s.unit.matrixOff = false) (p : s = s.takePort addr) : TakesPortB s s m addr := by
  have hs := serves_of s m h
  have e := hs.tick
  exact ⟨by rw [← e]; exact hs, by rw [← e]; exact i, by rw [← e]; exact p, x⟩

def before : State := { portB with ledger := { portB.ledger with portAt := some 99 } }

theorem witness_port_b_turn : servesB before (.core 1) = true ∧ before.portWaits (.core 1) 0x0320FFFC = false ∧ before.unit.matrixOff = false ∧
    portB = before.takePort 0x0320FFFC ∧ portB = before.takePort 0x03301900 ∧ portB = before.takePort 0x03401940 ∧ before.portWaits (.core 1) 0x03401940 = false ∧
    portB.portWaits (.core 1) 0x0320FFFC = true ∧ portB.unit.matrixOff = false := by decide +kernel

theorem witness_port_b : portB.logRoom = true ∧ (portB.ownerOf 4 8 16383 = .control ∧ agentOf (.core 1) = .control) ∧ portB.ownerOf 8 12 100 = agentOf (.core 1) ∧
    portB.endpointOpen 100 = true ∧ portB.ledgerBad (portB.sendWords 100) = none ∧ portB.ledgerBad (portB.timerReads 1023 1) = none ∧
    portB.ledgerBad (portB.timerReads 1023 5) = none ∧
    portB.ownerOf 12 16 1023 = agentOf (.core 1) ∧ leNat [0xF1, 0, 0, 0] % 16 = 1 ∧ leNat [5, 0, 0, 0] % 16 = 5 ∧ portB.timerArmed 1023 = false ∧
    portB.ledgerBad (portB.messageWords 100) = none ∧ 0 < portB.queued 100 ∧ portB.queued 101 = 0 ∧
    portB.ownerOf 8 12 101 = agentOf (.core 1) ∧ portB.ledgerBad [endpointAt 101, endpointAt 101 + 8] = none ∧
    (0xFFFF8 : BitVec 21).toNat % 8 = 0 ∧ (0xFFFF8 : BitVec 21).toNat < 0x100000 := by decide +kernel

theorem witness_windows : readyB small (.core 1) = true ∧ small.gate (.host 3 0) = .deny 1 ∧ inSettings 0x01FFFFFC 8 = true ∧ inSettings 0x0233FFFF 1 = true ∧
    inSettings 0x02340000 1 = false ∧ small.unit.matrixOff = false ∧ small.dmaReady true 0 1 = true ∧ small.dmaReady false 0 1 = true ∧
    small.dmaReady true 0x3FFFFFF 1 = true ∧ small.dmaReady false 0x3FFFFFF 1 = true ∧ small.poolWaits (.core 1) (0x10000000 + 0x3FFFFFF) = false ∧
    (small.poolWhere 0).isSome = true ∧ small.poolWhere 0x3FFFFFF = none ∧ wellSized (0x01000000 + 0x3FFFC0) 64 = true ∧
    0x3FFFC0 + 64 ≤ 0x400000 := by decide +kernel

/-- Region 0, at set-row 0, is open to the host; region 1, at set-row 8, is not. -/
def row8 : Nat := 8 * 32 * small.cfg.banks

theorem witness_window_host : readyB small (.host 0 5) = true ∧ readyB small (.host 1 5) = true ∧ readyB small (.host 2 5) = true ∧
    sramRight (.host 0 5) = false ∧ sramRight (.host 2 5) = true ∧ sramRight (.core 1) = true ∧ small.poolWaits (.host 1 5) 0x10000000 = false ∧
    (List.range 64).all (fun i => match small.poolWhere i with
      | some (r, _, _) => (small.image.bank.region r).hostR && (small.image.bank.region r).hostW
      | none => true) = true ∧ (small.poolWhere 0).isSome = true ∧ wellSized 0 64 = true ∧ small.dmaReady true 0 64 = true ∧ small.dmaReady false 0 64 = true ∧
    ((small.poolWhere row8).any (fun p => (small.image.bank.region p.1).hostW || (small.image.bank.region p.1).hostR)) = false ∧
    (small.poolWhere row8).isSome = true ∧ small.cores.remap = false := by decide +kernel

theorem witness_remap : readyB { small with cores := { small.cores with remap := true } } (.host 2 5) = true ∧ wellSized 0x3FFFC0 64 = true ∧
    (∀ w, small.uncorrectable .bootRom w = false) := ⟨by decide +kernel, by decide +kernel, fun _ => rfl⟩

theorem witness_image_read : wellSized 0xFFFFC0 64 = true ∧ 0xFFFFC0 + 64 ≤ 0x1000000 ∧
    ((wordsOf 0xFFFFC0 64).any (fun w => ({ small with eccBad := [(.imageStores, 0x3FFFFF)] } : State).uncorrectable .imageStores (w + 0x200000))) = true ∧
    ((wordsOf 0xFFFFC0 64).any (fun w => ({ small with eccBad := [(.imageStores, 0x3FFFFF)] } : State).uncorrectable .imageStores w)) = false := by
  decide +kernel

theorem witness_off_map : OffMap true 0x00400000 4 ∧ OffMap false 0x01000001 2 ∧
    OffMap true 0x20000000 2 ∧ OffMap false 0x01FFFFF8 16 ∧ inPortB 0x01FFFFF8 = false ∧
    small.poolWaits (.host 1 5) 0x01FFFFF8 = false := by
  refine ⟨?_, ?_, ?_, ?_, by decide +kernel, by decide +kernel⟩ <;> unfold OffMap <;> decide +kernel

theorem witness_sram : (∀ w, small.uncorrectable .sram w = false) ∧ ∀ w, small.uncorrectable .pool w = false := ⟨fun _ => rfl, fun _ => rfl⟩

/-! ### Reset, power, debug -/

def resetting : State := { State.reset with clock := { Clock.reset with ctl := 50000 } }

theorem witness_reset : small.unit.state ≠ .reset ∧ small.unit.porN = true ∧ small.unit.state ≠ .off ∧
    ({ small.unit with porN := false }).porN = false ∧ resetting.unit.state = .reset ∧ resetting.unit.porN = true ∧ resetting.unit.warmReq = false ∧
    resetting.unit.resetAt + 50000 ≤ resetting.clock.ctl ∧ State.reset.clock.ctl < State.reset.unit.resetAt + 50000 ∧
    resetting.sec.req = none ∧ booting.unit.state = .boot ∧ booting.cores.verified = false := by decide +kernel

/-- Boot with a request at the security block, sent at `sent`, and its response. -/
def bootAsked (sent : Nat) (opcode : BitVec 8) (use : SecUse) (status : BitVec 8) : State :=
  { booting with sec := { Security.reset with req := some ⟨opcode, [], 1, some (BitVec.ofNat 64 sent), use⟩, rsp := some (status, [], 9) } }

/-- Boot with the firmware running and six copies of the sets. -/
def bootRead (maps trims : List (List Byte)) : State :=
  { booting with cores := { booting.cores with verified := true }, repair := { Repair.reset with maps := maps, trims := trims, setsRead := true } }

theorem witness_boot : (bootAsked 7 0x0D .bootFetch 0).sec.req = some ⟨0x0D, [], 1, some 7, .bootFetch⟩ ∧
    (bootAsked 7 0x0D .bootFetch 1).sec.rsp = some (1, [], 9) ∧ 7 + fixedTime 0x0D ≤ booting.clock.control.toNat ∧
    7 + fixedTime 3 ≤ booting.clock.control.toNat ∧ booting.clock.control.toNat < 8 + fixedTime 3 ∧
    (bootAsked 7 3 .bootVerify 0).ao.value 3 ≤ Config.bundleVersion (bootAsked 7 3 .bootVerify 0).sec.draft ∧
    7 + fixedTime 0x0B ≤ booting.clock.control.toNat ∧ booting.cores.failed.getLsbD 3 = false ∧
    (bootRead [copy0, copy0, copy0] [[], [], []]).cores.verified = true ∧ (bootRead [] []).repair.setsRead = true ∧
    selectReason [copy0, copy0, copy0] = 0 ∧ selectReason [[], [], []] = 6 ∧ booting.logRoom = true ∧ (logged 256 booting).logRoom = false ∧
    254 < (logged 255 (bootRead [] [])).log.queue.length ∧ (bootRead [] []).log.queue.length ≤ 254 := by decide +kernel

def rec0 : LogRec := { mkRec 9 3 255 5 4 0 0 with seq := 8192 }

theorem witness_always_on : (({ State.reset with clock := { Clock.reset with tb := BitVec.ofNat 64 (2 ^ 30) } } : State).ao.value 1).toNat < 2 ^ 30 / 2 ^ 30 ∧
    ({ small with log := { small.log with queue := [rec0] } } : State).log.queue = rec0 :: [] ∧ small.log.nextAt ≤ small.clock.ctl ∧
    small.clock.ctl < ({ small.log with nextAt := 101 }).nextAt ∧ small.held = [] ∧ small.log.lost = 0 ∧ small.unit.state ≠ .off ∧
    small.unit.state ≠ .reset ∧ small.unit.state ≠ .frozen := by decide +kernel

def requested (d v : Nat) : State := { small with power := { Power.reset with req := [(d, BitVec.ofNat 2 v)] } }
def acked (f : Frame) : State := { small with power := { Power.reset with opOut := true, opFrame := f }, clock := { small.clock with offset := 1984 } }
def passing : State :=
  { small with cores := { awake with assigned := true }, clock := { small.clock with control := 1000000 }
               regs := { Regs.reset with forceSlow := true } }

theorem witness_power : (requested 19 3).domReq 19 ≠ (requested 19 3).domCur 19 ∧ (requested 19 3).power.wake.contains 19 = false ∧
    (requested 19 3).domReq 19 = 3 ∧ (requested 0 1).domReq 0 ≠ 3 ∧ (acked 5).power.opOut = true ∧ (acked 5).power.opAck = false ∧
    (acked 5).power.opFrame = (acked 5).clock.frame + 1 ∧ framePast 4 (acked 4).clock.frame = true ∧ passing.power.passAt ≤ passing.clock.control ∧
    passing.coreRuns passing.cores.f1 = true ∧ passing.clock.point ≠ passing.regs.slowest ∧ passing.power.opTick = none ∧
    passing.regs.fastest ≤ passing.regs.slowest ∧ passing.logRoom = true ∧ (requested 21 3).domReq 21 = 3 ∧ (requested 16 3).domReq 16 = 3 := by decide +kernel

theorem witness_sensors : (0x19 : BitVec 6).toNat < 0x1A ∧ small.unit.state ≠ .off ∧ small.unit.state ≠ .reset := by decide +kernel

def debugged : State := { small with ao := { AlwaysOn.first with consent := 1 } }
def readOut : State :=
  { debugged with dbg := { Debug.reset with readAt := some 84, read := List.replicate 64 3, frozen := true }, unit := { small.unit with state := .frozen } }

theorem witness_debug : debugged.debugOn = true ∧ debugged.unit.state ≠ .frozen ∧ small.debugOn = false ∧ small.logRoom = true ∧ readOut.dbg.readAt = some 84 ∧
    84 + 16 ≤ readOut.clock.ctl ∧ readOut.dbg.read.length = 64 ∧ ({ readOut.clock with ctl := 99 }).ctl < 84 + 16 ∧
    wellSized 0xFFFFC0 64 = true ∧ readOut.unit.state = .frozen ∧ readOut.debugOn = true ∧ servesB small (.host 2 5) = true ∧ readOut.unit.matrixOff = false := by
  decide +kernel

theorem witness_step : ({ small with pending := [.pmOpAck] } : State).pending = .pmOpAck :: [] ∧ small.pending = [] ∧ small.unit.window = false ∧ small.held = [] ∧
    small.clock.tbRem < coreMHz small.clock.point ∧ small.clock.ctlRem < coreMHz small.clock.point := by decide +kernel

/-- One thing on its way, due in the cycle that comes, and a Ledger access due in the one that ends. -/
def arriving (due : Nat) (act : Arrival) : State := { small with inflight := [⟨due, 0, act⟩] }

theorem witness_arrivals : (arriving 11 (.tile 7 [(63, 1)] (some .upstream))).inflight = [⟨small.clock.offset + 1, 0, .tile 7 [(63, 1)] (some .upstream)⟩] ∧
    (arriving 11 (.landing 7 [(63, 1)] none)).inflight = [⟨small.clock.offset + 1, 0, .landing 7 [(63, 1)] none⟩] ∧
    (arriving 11 (.land 0 [(64, 1)] [0])).pool.wbuf = [] ∧ (∀ q ∈ allStreams, ((arriving 11 (.land 0 [(64, 1)] [0])).stream q).jobs = []) ∧
    (arriving 10 (.ledger (.tadd 63 1) 0 0)).inflight = [⟨small.clock.offset, 0, .ledger (.tadd 63 1) 0 0⟩] ∧
    (arriving 11 (.release (List.replicate 64 1) false true)).inflight = [⟨small.clock.offset + 1, 0, .release (List.replicate 64 1) false true⟩] ∧
    (15 : Fin 16).val % small.parts ≠ (0 : StreamId).toNat ∧ (0 : Fin 16).val % small.parts = (0 : StreamId).toNat := by decide +kernel

/-- A result reaches its share as the cycle comes in which it is due (R26, R279). -/
theorem test_result_arrives : let t := (arriving 11 (.tile 7 [(63, 1)] (some .upstream))).coreCycle
    (t.tileByte 0 7 63, t.tileByte 0 7 62, t.tileMark 0 7, t.inflight) = (1, 0, some .upstream, []) := by decide +kernel

/-- A release drives the flume of its partition and no other (R27, R29, R82). -/
theorem test_release_drives : let t := (arriving 11 (.release (List.replicate 64 1) false true)).coreCycle
    (memGet t.pins.data 0, memGet t.pins.data 512, sbValid t.pins.sb[0], sbValid t.pins.sb[1], t.pins.slip) = (1, 0, true, false, true) := by
  decide +kernel

theorem witness_mems : small.MemsWf := by unfold State.MemsWf; decide +kernel

/-! ### Statements about operations alone -/

theorem witness_bit_permutes : 6 ≤ 13 ∧ ((List.range 6).map (fun i => field pbpcF.map.toNat (5 * i) 5 % 16)).Perm (List.range 6) ∧
    (List.replicate 64 (0 : Byte)).length = 2 ^ 6 ∧ (0 : Nat) < 2 ^ 6 := by decide +kernel

theorem witness_plane_form : ([1, 2, 3, 4, 5, 6, 7, 8] : List Byte).length % 8 = 0 ∧
    (7 : Nat) < ([1, 2, 3, 4, 5, 6, 7, 8] : List Byte).length := by decide

theorem witness_separator : (65536 : Nat) ≤ 65536 ∧ (0 : Nat) < [7, 7].length ∧
    (seprPlace 8 1 8 (seprPrefix 1 (seprOffered 8 [7, 7])) [7, 7]).pos.getD 0 none = some 7 := by decide +kernel

def ctxWith (n : BitVec 24) : Ctx := { Ctx.idle with loop := Vector.replicate 4 n }

theorem witness_loops : (⟨1, false⟩ : LoopEnd).lend = false ∧ (⟨1, true⟩ : LoopEnd).lend = true ∧ (ctxWith 0xFFFFFF).loop[1] = 0xFFFFFF ∧
    (ctxWith 2).loop[1] ≠ 0xFFFFFF ∧ 1 < (ctxWith 2).loop[1] ∧ (ctxWith 1).loop[1] = 1 ∧ (ctxWith 1).pc ≠ 8191 := by decide +kernel

theorem witness_conservation : (1 : Byte) ≠ 2 ∧ ([1, 2] : List Byte).Perm [2, 1] := by decide +kernel

/-! ## Well-formed operands: for each check an ill-formed term that it refuses -/

def bad (op : Op) : Bool := !wordWf e0 op

theorem test_ill_sequencer : bad (.nop ⟨0, true, 0, 0xFFFFFF⟩) ∧ bad (.nop ⟨0, false, 1, 0⟩) ∧ bad (.nop ⟨0, false, 0, 1⟩) ∧
    wordWf ⟨0, true⟩ .halt = false ∧ bad (.fwait ⟨1984, false⟩) ∧ bad (.lfen 0) := by decide +kernel

theorem test_ill_perm : bad (.perm ⟨1, 2, 0, 0, 0, true⟩) ∧ bad (.perm ⟨0, 2, 1, 0, 0, true⟩) ∧ bad (.perm ⟨0, 255, 0, 0, 0, true⟩) ∧
    bad (.perm ⟨255, 0, 1, 0, 0, false⟩) ∧ bad (.perm ⟨0, 255, 1, 0, 0, false⟩) ∧ bad (.pbpc ⟨254, 0, 2, 0⟩) ∧ bad (.pbpc ⟨0, 254, 2, 0⟩) := by
  decide +kernel

theorem test_ill_transfer : bad (.ldt ⟨255, 1, 0, 0, 0, false, false, 0, 0, 0⟩) ∧ bad (.ldt ⟨0, 0, 0, 0, 0, false, true, 0, 0, 0⟩) ∧
    bad (.stt ⟨0, 0, 0, 0, 0, false, true, 0, 9, 0⟩) ∧ bad (.stt ⟨0, 0, 0, 0, 0, false, false, 0, 1, 0⟩) ∧
    bad (.ldt ⟨0, 0, 0, 0, 0, false, false, 0, 0, 0x11⟩) ∧ bad (.ldt ⟨0, 0, 0, 0, 0, false, false, 0, 0, 0x2D⟩) := by decide +kernel

theorem test_ill_sluice : bad (.gath ⟨0, 0, false, 0, 0, 0, 0, false⟩) ∧ bad (.gath ⟨0, 0, false, 1, 0, 16, 0, false⟩) ∧
    bad (.scat ⟨0, 0, false, 1, 0, 0, 0xD8, false⟩) ∧ bad (.bcst ⟨0, 0, true, 1, 0, 0, 0, false⟩) ∧ bad (.bcst ⟨0, 0, false, 1, 0, 0, 0x12, false⟩) := by
  decide +kernel

theorem test_ill_conv : bad (.conv ⟨0, 1, 0, 0x00, 0, false, 0, 0⟩) ∧ bad (.conv ⟨0, 1, 0, 0x12, 2, false, 0, 0⟩) ∧
    bad (.conv ⟨0, 1, 0, 0x12, 0, false, 3, 0⟩) ∧ bad (.conv ⟨0, 1, 0, 0x12, 0, false, 0, 1⟩) ∧ bad (.conv ⟨255, 0, 1, 0x12, 0, false, 0, 0⟩) ∧
    bad (.conv ⟨0, 255, 1, 0x12, 0, false, 0, 0⟩) ∧ bad (.conv ⟨0, 1, 1, 0x8D, 0, false, 255, 0⟩) ∧ bad (.conv ⟨4, 1, 1, 0xD8, 0, false, 5, 0⟩) ∧
    bad (.pack ⟨0, 1, 0, 2, 2⟩) ∧ bad (.unpk ⟨255, 1, 1, 0, 0⟩) ∧ bad (.pack ⟨1, 255, 1, 0, 0⟩) := by decide +kernel

theorem test_ill_units : bad (.sepr ⟨0, 0, 1, 0, 0, 65535, 2⟩) ∧ bad (.skim ⟨0, 0, 0, 0, 0, true, 0, 5, 0, false, 0⟩) ∧
    bad (.skim ⟨0, 0, 0, 0, 0, false, 1, 0, 0, false, 0⟩) ∧ bad (.skp ⟨0, 0, 0, 5, 0⟩) ∧ bad (.comb ⟨0, 255, 0, 0, 0⟩) ∧ bad (.comb ⟨0, 0, 255, 0, 0⟩) ∧
    bad (.drain ⟨0, 0, 0, 5, false⟩) ∧ bad (.chk ⟨0, 0, 2, 0⟩) ∧ bad (.chk ⟨0, 1, 1, 0⟩) ∧ bad (.chk ⟨0, 1, 0, 1⟩) := by decide +kernel

theorem test_ill_ledger : bad (.tsig ⟨16383, 1⟩) ∧ bad (.tadd ⟨0, 0⟩) ∧ bad (.csend ⟨0, 0, 4, 0⟩) ∧ bad (.crecv ⟨0, 0, 4, 0, false, 0, false⟩) ∧
    bad (.crecv ⟨0, 7, 0, 7, true, 0, false⟩) ∧ bad (.crecv ⟨0, 7, 0, 1, false, 0, false⟩) ∧ bad (.alarm ⟨0, 3, false, false, 0, 0, 0⟩) ∧
    bad (.alarm ⟨0, 2, false, false, 0, 0, 0⟩) ∧ bad (.alarm ⟨0, 0, false, false, 0, 1, 0⟩) ∧ bad (.alarm ⟨0, 0, false, false, 0, 0, 0x1000000000000⟩) := by
  decide +kernel

theorem test_ill_commands : (Instr.memoryReadResponse 0 0 0 [1]).wf = false ∧
    (Instr.inboundVector [⟨3, 0, []⟩, ⟨3, 0, []⟩]).wf = false ∧ (Instr.settingStoreWrite (.host 2 0) 0 []).wf = false ∧
    (Instr.poolWindowAccess (.host 1 0) true 0 8 [1]).wf = false ∧ (Instr.freezeReadout (.host 3 0) 0 0).wf = false ∧
    (Instr.hostControlRequest (.host 1 0) false 0 65 []).wf = false ∧ (Instr.timerWrite (.core 1) 0 0 []).wf = false ∧
    (Instr.bootComplete ⟨true, 0, []⟩ [[]] [[], [], []]).wf = false := by decide +kernel

/-! ## Words written out from the encoding tables of R104 to R142

Those of SKP, COMB, SEPR, SKIM and PBPC are printed in the spec's worked examples. -/

theorem test_word_nop : decodeWord 0x2B00030600 = some (⟨2, true⟩, .nop ⟨3, true, 1, 5⟩) := by decide +kernel
theorem test_word_halt : decodeWord 0x1 = some (⟨0, false⟩, .halt) := by decide +kernel
theorem test_word_perm : decodeWord 0x9560234120010 = some (⟨0, false⟩, .perm ⟨0x12, 0x34, 2, 0x56, 9, false⟩) := by decide +kernel
theorem test_word_perm_mode1 : decodeWord 0x19560034000010 = some (⟨0, false⟩, .perm ⟨0, 0x34, 0, 0x56, 9, true⟩) := by decide +kernel
theorem test_word_ldt : decodeWord 0x123FFFFFCEAAF37BEA501070020 = some (⟨0, false⟩, .ldt ⟨7, 1, 0x2A5, 0x2ABCDEF, 2, true, true, 0xFFFFFC, 3, 0x12⟩) := by decide +kernel
theorem test_word_stt : decodeWord 0x1000900070021 = some (⟨0, false⟩, .stt ⟨7, 0, 9, 64, 0, false, false, 0, 0, 0⟩) := by decide +kernel
theorem test_word_gath : decodeWord 0x1120000101551234DABC0030 = some (⟨0, false⟩, .gath ⟨0xABC, 5, true, 0x1234, 0x155, 0x40, 0x12, true⟩) := by decide +kernel
theorem test_word_scat : decodeWord 0x8002000100010031 = some (⟨0, false⟩, .scat ⟨1, 0, false, 1, 2, 32, 0, false⟩) := by decide +kernel
theorem test_word_bcst : decodeWord 0x8002000100010032 = some (⟨0, false⟩, .bcst ⟨1, 0, false, 1, 2, 32, 0, false⟩) := by decide +kernel
theorem test_word_conv : decodeWord 0x52905D8001E1F0040 = some (⟨0, false⟩, .conv ⟨31, 30, 0, 0xD8, 1, true, 32, 0xA5⟩) := by decide +kernel
theorem test_word_pack : decodeWord 0xA0104030041 = some (⟨0, false⟩, .pack ⟨3, 4, 1, 2, 1⟩) := by decide +kernel
theorem test_word_unpk : decodeWord 0x70004030042 = some (⟨0, false⟩, .unpk ⟨3, 4, 0, 7, 0⟩) := by decide +kernel
theorem test_word_drain : decodeWord 0x240FFABCD380054 = some (⟨0, false⟩, .drain ⟨56, 0xABCD, 255, 2, true⟩) := by decide +kernel
theorem test_word_twait : decodeWord 0x1FFFFFFFF89ABCDEF23450060 = some (⟨0, false⟩, .twait ⟨0x2345, 0x89ABCDEF, 0xFFFFFFFF, true⟩) := by decide +kernel
theorem test_word_tsig : decodeWord 0x3C3840061 = some (⟨0, false⟩, .tsig ⟨900, 15⟩) := by decide +kernel
theorem test_word_tadd : decodeWord 0x8000000103840062 = some (⟨0, false⟩, .tadd ⟨900, 0x80000001⟩) := by decide +kernel
theorem test_word_csend : decodeWord 0xBFF881FFE0070 = some (⟨0, false⟩, .csend ⟨0xFFE, 0x81, 0x1FF8, 5⟩) := by decide +kernel
theorem test_word_crecv : decodeWord 0x10000004D032004081FFE0071 = some (⟨0, false⟩, .crecv ⟨0xFFE, 0x81, 64, 0x90, true, 77, true⟩) := by decide +kernel
theorem test_word_copen : decodeWord 0xFFF0030072 = some (⟨0, false⟩, .copen ⟨3, 0xFFF⟩) := by decide +kernel
theorem test_word_cclos : decodeWord 0x8030073 = some (⟨0, false⟩, .cclos 0x803) := by decide +kernel
theorem test_word_fwait : decodeWord 0xFBF0080 = some (⟨0, false⟩, .fwait ⟨1983, true⟩) := by decide +kernel
theorem test_word_alarm : decodeWord 0x2AF37BC048D17FFF0E13AA50081 = some (⟨0, false⟩, .alarm ⟨0x2A5, 2, true, true, 900, 16383, 0xABCDEF012345⟩) := by decide +kernel
theorem test_word_chk : decodeWord 0x37AB6FBBD00040090 = some (⟨0, false⟩, .chk ⟨4, 0, 1, 0xDEADBEEF⟩) := by decide +kernel
theorem test_word_lfen : decodeWord 0x50091 = some (⟨0, false⟩, .lfen 5) := by decide +kernel
theorem test_word_skp : decodeWord 0x7FF03634320052 = some (⟨0, false⟩, .skp ⟨0x32, 0x34, 0x36, 0, 2047⟩) := by decide +kernel
theorem test_word_comb : decodeWord 0x7FF03634320053 = some (⟨0, false⟩, .comb ⟨0x32, 0x34, 0x36, 0, 2047⟩) := by decide +kernel
theorem test_word_sepr : decodeWord 0x0008003FC1FFC0000005000000090050 = some (⟨0, false⟩, .sepr ⟨9, 0, 10, 0, 2047, 255, 32⟩) := by decide +kernel
theorem test_word_skim : decodeWord 0x000000033333F9FFFF80000014280051 = some (⟨0, false⟩, .skim ⟨0x28, 20, 0, 262143, 63, true, 52428, 0, 0, false, 0⟩) := by decide +kernel
theorem test_word_pbpc_pairs : decodeWord 0x000000C5A928398A418830030C100011 = some (⟨0, false⟩, .pbpc ⟨0x10, 0x0C, 3, 0x0C5A928398A418830⟩) := by decide +kernel
theorem test_word_pbpc_full : decodeWord 0x0000006290620B16A4A0E00314180011 = some (⟨0, false⟩, .pbpc ⟨0x18, 0x14, 3, 0x06290620B16A4A0E0⟩) := by decide +kernel

/-- A reserved opcode, a reserved bit of the common fields and one above the operands are refused (R104, R105). -/
theorem test_word_reserved : decodeWord 0x02 = none ∧ decodeWord 0x0801 = none ∧ decodeWord 0x10001 = none ∧
    decodeWord 0x80000000000000000000000000000001 = none := by decide +kernel

/-! ## Worked examples of the spec -/

/-- The algorithm on eight lanes (R163). -/
theorem test_setter_eight_lanes : (setter 3 [5, 2, 7, 0, 3, 6, 1, 4]).map (·.map Bool.toNat) =
    [[0, 0, 0, 0], [0, 0, 0, 0], [1, 0, 1, 0], [1, 1, 0, 1], [1, 1, 1, 1]] := by decide +kernel

/-- Lane 395 goes to lane 647 under the printed map of the head split (R123). -/
theorem test_pbpc_lane : bpcDest 13 0x06290620B16A4A0E0 395 = 647 := by decide +kernel

/-- The tie 0x3F808000 goes to 0x3F80 at nearest even, and by the value u under stochastic rounding (R226). -/
theorem test_round_tie : convertElem 0x12 none true 0x3F808000 = 0x3F80 ∧ convertElem 0x12 (some 0x7FFFFFFF) true 0x3F808000 = 0x3F81 ∧
    convertElem 0x12 (some 0x80000000) true 0x3F808000 = 0x3F80 := by decide +kernel

/-- The MXFP4 block and its return (R231, R232). -/
theorem test_mx_block :
    mxQuantise 8 (([0x4120, 0xC040, 0x3F80, 0x3E9A] ++ List.replicate 28 0).map (fun v => (decodeNum 2 v, none))) =
      (0x80, [0x06, 0x0B, 0x01, 0x00] ++ List.replicate 28 0) ∧
    [0x06, 0x0B, 0x01, 0x00].map (fun v => mxDequantise 8 2 0x80 v none false) = [0x4100, 0xC040, 0x3F80, 0] := by decide +kernel

def grouped : Desc :=
  { valid := true, ndim := 2, esz := 1, pw := 0, plog := 0, strm := 0, region := 0, rpb := 2, idxv := false, idim := 0, grpv := true, gdim := 0
    glog := 7, ownen := false, odim := 0, olog := 0, baseoff := 0, fill := 0, ireg := 0, ioff := 0, oreg := 0, ooff := 0, ocnt := 0, gstr := 2
    dims := [⟨7168, 7168, 0, 0, 65536⟩, ⟨256, 256, 0, 0, 256⟩] }

/-- Token 3, channel 300 of the channel-grouped hidden state lies 131,928 bytes from BASEOFF (R182, R187). -/
theorem test_grouped_offset : (grouped.locate ⟨0, 2 ^ 30, true, true, false, false, 0⟩ (fun _ => 0) (fun _ => 0) (2 * (3 * 7168 + 300)) false false).place =
    .addr 131928 := by decide +kernel

def kvPage : Desc :=
  { grouped with region := 40, rpb := 1, grpv := false, gdim := 0, glog := 0, gstr := 0, ownen := true, odim := 1, olog := 8, oreg := 3, ocnt := 65536
                 dims := [⟨256, 256, 0, 0, 2⟩, ⟨16777216, 16777216, 0, 2, 512⟩] }

def kvRegion : MemRegion := ⟨0x2000000000, 0x1000000000, true, true, false, true, 7⟩
def kvOwner (n : Nat) : Nat := if n = 19531 then 0x000001D2E00010A3 else 0

/-- The KV page descriptor: token 5,000,000 has its owner's address, and a token of an absent page fills (R182, R188, R189). -/
theorem test_kv_page : kvPage.slen = 8589934592 ∧ (kvPage.locate kvRegion (fun _ => 0) kvOwner 2560000000 false false).place = .addr 0x0A300023A5C08000 ∧
    (kvPage.locate kvRegion (fun _ => 0) kvOwner (5000190 * 512) false false).place = .addr 0x0A300023A5C1FC00 ∧
    (kvPage.locate kvRegion (fun _ => 0) kvOwner (5000192 * 512) false false).place = .fill := by decide +kernel

/-- The summands 0 and 3 of the combined token: products, anchor and contributions (R251 to R253). -/
theorem test_combine_contributions : product (decodeNum 2 0x4B80) (decodeNum 2 0x3F80) = .fin false (128 * 128) 10 ∧
    contribution 24 false (128 * 128) 10 = 2 ^ 171 ∧
    (match product (decodeNum 2 0x3F40) (decodeNum 2 0x3F00) with | .fin n m q => contribution 24 n m q | _ => 0) = 3 * 2 ^ 144 ∧
    (match product (decodeNum 2 0x0380) (decodeNum 2 0x3080) with | .fin n m q => contribution 24 n m q | _ => 1) = 0 := by decide +kernel

/-- A timer armed in frame 500,000 at 1,000,000,000 tb, its STATE and whether it waits for the next tick (R75). -/
def armedAs (point kind target : Nat) : Nat × Bool :=
  let c : Clock := { Clock.reset with frame := 500000, centre := 1000000000, point := BitVec.ofNat 3 point }
  let s : State := { small with clock := c }
  let t := s.alarmWrite 0 (BitVec.ofNat 2 kind) false 0 0 (BitVec.ofNat 64 target)
  (t.timerMid 0 % 16, t.timerArmed 0)

/-- Late and stale alarms. -/
theorem test_alarms : armedAs 0 0 500001 = (1, true) ∧ armedAs 0 0 500000 = (1, true) ∧ armedAs 0 0 499990 = (1, true) ∧
    armedAs 0 0 430000 = (4, false) ∧ armedAs 0 1 900000000 = (4, false) ∧ armedAs 7 1 900000000 = (1, true) := by decide +kernel

/-- The value 0x0000002DC6C00004 written in one request at 0x40 enters an EXCHANGE at frame 3,000,000; a 4-byte write of word 0 is discarded
(R401, R410). -/
theorem test_exchange_value :
    (match small.registerWrite (.host 0 5) 0x40 true 0x0000002DC6C00004 with | .next t => t.crossing.map (·.act) | _ => []) = [.image .exchange 3000000] ∧
    (match small.registerWrite (.host 0 5) 0x40 false 0xC6C00004 with | .next t => t.crossing.map (·.act) | _ => [.freeze]) = [] := by decide +kernel

end Sys2Proof.Tests
end

section
/-! Writes of one register word by a master (R15 to R18, R302 to R306, R399): a request that is served reaches the bridge, a word is refused,
discarded or performed, and a performed write enters its record before its effect. -/

namespace Sys2Proof.Machine

open Sys2Proof.Claims

/-! ## The counter store -/

/-- Writing back what a canonical store holds leaves it as it is. -/
theorem sparseSet_get_self {α : Type} [DecidableEq α] (d : α) (m : Sparse α) (i : Nat) (h : sparseWf d m = true) :
    sparseSet d m i (sparseGet d m i) = m := by
  refine sparse_ext d _ _ (sparseWf_set d m i _ h) h (fun j => ?_)
  rw [sparseGet_set]
  split
  · next hj => rw [hj]
  · rfl

/-- A counter that gains nothing leaves the state as it is, where the counters are in canonical form. -/
theorem State.count_zero_of_canonical {s : State} (h : sparseWf 0 s.regs.counts = true) (c : Counter) : s.count c 0 = s := by
  have same : sparseSet 0 s.regs.counts (counterOffset c) (sparseGet 0 s.regs.counts (counterOffset c) + BitVec.ofNat 32 0) = s.regs.counts := by
    simpa using sparseSet_get_self 0 s.regs.counts (counterOffset c) h
  unfold State.count State.countAt
  rw [same]

@[simp] theorem State.counter_count_self (s : State) (c : Counter) (n : Nat) : (s.count c n).counter c = s.counter c + BitVec.ofNat 32 n := by
  simp [State.counter, State.count, State.countAt, sparseGet_set]

/-! ## Records and answers -/

/-- A record is the newest where the queue holds none of its control cycle (R311). -/
theorem logInsert_eq_append {l : List LogRec} {r : LogRec} (h : ∀ q ∈ l, q.at_ ≠ r.at_) : logInsert l r = l ++ [r] := by
  induction l with
  | nil => rfl
  | cons q l ih =>
    rw [logInsert, if_neg (fun c => h q (by simp) c.1), ih (fun x hx => h x (by simp [hx]))]
    rfl

/-- A state whose log is the one that `enterLog` makes holds the new record. -/
theorem logs_of_enterLog {s t : State} {kind : Nat} {role : BitVec 2} {agent addr value aux code : Nat}
    (h : t.log = (s.enterLog (mkRec kind role agent addr value aux code)).log) : Logs s t kind role agent addr value aux code := by
  refine ⟨by rw [h]; rfl, fun fresh => ?_⟩
  rw [h]
  exact logInsert_eq_append fresh

/-- A response given after changes that touch neither the pins nor the delay of the slices. -/
theorem answers_respond {s u : State} (m : Master) (stat : BitVec 2) (data : List Byte) (pins : u.pins = s.pins) (ctl : u.clock.ctl = s.clock.ctl)
    (slices : u.slicesCrossed = s.slicesCrossed) : Answers s (u.respond m stat data) m stat data := by
  unfold Answers State.respond
  rw [pins, ctl, slices]

/-! ## A request that is served -/

/-- Nothing of a master's source waits, so no request of it waits behind another (R37, R42). -/
theorem State.behind_of_unblocked {s : State} {m : Master} (h : s.unblocked m = true) (write : Bool) (addr size : Nat) :
    s.behind m write addr size = false := by
  simp only [State.unblocked, Bool.and_eq_true, Bool.or_eq_true, Bool.not_eq_true'] at h
  obtain ⟨hready, hheld⟩ := h
  rw [List.any_eq_false] at hheld
  have noneBefore : s.held.any (fun a => a.before m write addr size) = false := by
    rw [List.any_eq_false]
    intro a ha
    have := hheld a ha
    cases a <;> simp_all [HeldAct.before]
  have noStore : s.held.countP (·.isStore m) = 0 := by
    rw [List.countP_eq_zero]
    intro a ha
    have := hheld a ha
    cases a <;> simp_all [HeldAct.isStore]
  rcases hready with hm | hr
  · simp [State.behind, blockedBy, noneBefore, noStore, hm]
  · simp [State.behind, blockedBy, noneBefore, noStore, hr]

/-- A served request outside port B and the Pool window runs at once. -/
theorem State.gated_of_serves {s0 s : State} {m : Master} (h : Serves s0 s m) {addr : Nat} (portB : inPortB addr = false)
    (pool : inPool addr = false) (write : Bool) (size : Nat) (data : List Byte) (k : State → Out) :
    s0.gated m write addr size data k = k s := by
  obtain ⟨rfl, gate, free⟩ := h
  simp [State.gated, State.behind_of_unblocked free, State.portWaits, portB, State.poolWaits, pool, State.serve, gate, State.takePort]

/-- A served REGISTER_WRITE reaches the bridge (R302). -/
theorem exec_registerWrite_of_serves {s0 s : State} {m : Master} (h : Serves s0 s m) (off : BitVec 16) (wide : Bool) (v : BitVec 64) :
    exec (.registerWrite m off wide v) s0 = s.bridgeWrite m off.toNat wide v := by
  have portB : inPortB (bridgeAt + off.toNat) = false := decide_eq_false (by unfold bridgeAt; omega)
  have pool : inPool (bridgeAt + off.toNat) = false := decide_eq_false (by unfold bridgeAt; omega)
  change s0.registerWrite m off.toNat wide v.toNat = _
  rw [State.registerWrite, State.gated_of_serves h portB pool, BitVec.ofNat_toNat, BitVec.setWidth_eq]

/-! ## A word at the bridge -/

/-- A master may write a word: the register exists, is neither a command register nor PSI_PERFCTL, and the master has the right (R302, R306). -/
structure WordWritable (s : State) (m : Master) (off v : Nat) : Prop where
  aligned : off % 4 = 0
  present : regExists off = true
  may : mayWrite m off = true
  right : s.stateRight m off v = true
  single : isWideCommand off = false
  perf : ¬ (0x300 ≤ off ∧ off < 0x320)

/-- A write of a word that its master may write is performed where its value is legal, and discarded where it is not (R18, R403). -/
theorem State.bridgeWrite_word {s : State} {m : Master} {off : Nat} {v : BitVec 64} (h : WordWritable s m off (v.toNat % 2 ^ 32)) :
    s.bridgeWrite m off false v = if s.legalWord off (v.toNat % 2 ^ 32) then s.performWrite m off false v else s.discardWrite m := by
  have right : s.stateRight m off (v.toNat % 4294967296) = true := h.right
  simp [State.bridgeWrite, wordsOfWrite, h.aligned, h.present, h.may, right, h.single, h.perf]

/-- A write of a word without the right is refused (R306). -/
theorem State.bridgeWrite_word_refused {s : State} {m : Master} {off : Nat} (v : BitVec 64) (aligned : off % 4 = 0)
    (present : regExists off = true) (plain : isSelection off = false) (may : mayWrite m off = false) :
    s.bridgeWrite m off false v = s.refuseWrite m (bridgeAt + off) (leBytes 4 v.toNat) false := by
  simp [State.bridgeWrite, wordsOfWrite, aligned, present, plain, may]

/-- A performed write of a word that makes a record: with room in the log, the record goes before the effect (R304). -/
theorem State.performWrite_word_logged {s : State} {m : Master} {off : Nat} {v : BitVec 64} {r : LogRec} (present : regExists off = true)
    (plain : isSelection off = false) (single : isWideCommand off = false) (room : s.logRoom = true)
    (record : writeRecord m off (v.toNat % 2 ^ 32) (if s.unit.locked then rwlMask off else 0) (s.regWord (masterId m) off) = some r) :
    s.performWrite m off false v = .next ((((s.enterLog r).applyWord m off (v.toNat % 2 ^ 32)).count .badWr 0).respond m 0 []) := by
  simp only [Nat.reducePow] at record ⊢
  simp [State.performWrite, wordsOfWrite, State.wasValue, present, plain, single, room, record]

/-- A performed write of a word that makes no record (R304). -/
theorem State.performWrite_word_unlogged {s : State} {m : Master} {off : Nat} {v : BitVec 64} (present : regExists off = true)
    (plain : isSelection off = false) (single : isWideCommand off = false) (recov : off ≠ 0x218)
    (record : writeRecord m off (v.toNat % 2 ^ 32) (if s.unit.locked then rwlMask off else 0) (s.regWord (masterId m) off) = none) :
    s.performWrite m off false v = .next (((s.applyWord m off (v.toNat % 2 ^ 32)).count .badWr 0).respond m 0 []) := by
  simp only [Nat.reducePow] at record ⊢
  simp [State.performWrite, wordsOfWrite, State.wasValue, present, plain, single, recov, record]

/-- A discarded write of a served word: it is counted and answered, and changes nothing else (R18, R401, R403). -/
theorem discardWrite_spec (s : State) (m : Master) :
    ∃ t, s.discardWrite m = .next t ∧ t = { s with regs := { s.regs with counts := t.regs.counts }, pins := t.pins } ∧
      t.counter .badWr = s.counter .badWr + 1 ∧ Answers s t m 0 [] :=
  ⟨_, rfl, rfl, s.counter_count_self .badWr 1, answers_respond m 0 [] rfl rfl rfl⟩

/-! ## The value of a word -/

theorem ofNat_word_mod (v : BitVec 64) (n : Nat) (h : n ≤ 32) : BitVec.ofNat n (v.toNat % 2 ^ 32) = v.setWidth n := by
  apply BitVec.eq_of_toNat_eq
  simp only [BitVec.toNat_ofNat, BitVec.toNat_setWidth]
  exact Nat.mod_mod_of_dvd _ (Nat.pow_dvd_pow 2 h)

theorem ofNat_word_div (v : BitVec 64) (lo n : Nat) (h : lo + n ≤ 32) :
    BitVec.ofNat n (v.toNat % 2 ^ 32 / 2 ^ lo) = v.extractLsb' lo n := by
  apply BitVec.eq_of_getLsbD_eq
  intro i hi
  rw [BitVec.getLsbD_ofNat, BitVec.getLsbD_extractLsb', Nat.testBit_div_two_pow, Nat.testBit_mod_two_pow, BitVec.testBit_toNat]
  simp [hi, show lo + i < 32 by omega, Nat.add_comm]

theorem bitOf_eq_testBit (v i : Nat) : bitOf v i = v.testBit i := by
  rw [Nat.testBit_eq_decide_div_mod_eq]
  rfl

theorem bitOf_word (v : BitVec 64) (i : Nat) (h : i < 32) : bitOf (v.toNat % 2 ^ 32) i = v.getLsbD i := by
  rw [bitOf_eq_testBit, Nat.testBit_mod_two_pow, BitVec.testBit_toNat, decide_eq_true h, Bool.true_and]

/-! ## A performed write, from the command on -/

/-- The outcome of a performed write that makes a record, where the counters are in canonical form. -/
theorem exec_word_logged {s0 s u : State} {m : Master} {off : BitVec 16} {v : BitVec 64} {r : LogRec} (h : Ready s0 s m)
    (writable : WordWritable s m off.toNat (v.toNat % 2 ^ 32)) (plain : isSelection off.toNat = false)
    (legal : s.legalWord off.toNat (v.toNat % 2 ^ 32) = true) (canonical : sparseWf 0 s.regs.counts = true)
    (record : writeRecord m off.toNat (v.toNat % 2 ^ 32) (if s.unit.locked then rwlMask off.toNat else 0) (s.regWord (masterId m) off.toNat) = some r)
    (effect : (s.enterLog r).applyWord m off.toNat (v.toNat % 2 ^ 32) = u) (counts : u.regs.counts = s.regs.counts) :
    exec (.registerWrite m off false v) s0 = .next (u.respond m 0 []) := by
  rw [exec_registerWrite_of_serves h.toServes, State.bridgeWrite_word writable, if_pos legal,
    State.performWrite_word_logged writable.present plain writable.single h.room record, effect,
    State.count_zero_of_canonical (counts ▸ canonical)]

/-- The outcome of a performed write that makes no record, as the counters' store stands. -/
theorem exec_word_unlogged {s0 s : State} {m : Master} {off : BitVec 16} {v : BitVec 64} (h : Serves s0 s m)
    (writable : WordWritable s m off.toNat (v.toNat % 2 ^ 32)) (plain : isSelection off.toNat = false) (recov : off.toNat ≠ 0x218)
    (legal : s.legalWord off.toNat (v.toNat % 2 ^ 32) = true)
    (record : writeRecord m off.toNat (v.toNat % 2 ^ 32) (if s.unit.locked then rwlMask off.toNat else 0) (s.regWord (masterId m) off.toNat) = none) :
    exec (.registerWrite m off false v) s0 =
      .next (((s.applyWord m off.toNat (v.toNat % 2 ^ 32)).count .badWr 0).respond m 0 []) := by
  rw [exec_registerWrite_of_serves h, State.bridgeWrite_word writable, if_pos legal,
    State.performWrite_word_unlogged writable.present plain writable.single recov record]

/-- The installer's record: of kind locked-write where the word has locked bits, of kind register-write where it has none (R15, R304). -/
theorem writeRecord_installer (id : BitVec 5) (off v mask was : Nat) :
    writeRecord (.host 1 id) off v mask was = some (if mask = 0 then mkRec 5 1 6 off v was 0 else mkRec 3 1 6 off v mask 0) := by
  by_cases h : mask = 0
  · simp [writeRecord, masterId, h]
  · simp [writeRecord, masterId, h]

/-! ## The RWL registers -/

/-- The RWL registers of the installer, each with its legal values, the registers once it takes a value, and the mask of its RWL bits
(R18, R414). -/
def rwlRows (s : State) (v : BitVec 64) : List (BitVec 16 × Prop × Regs × Nat) :=
  let lo := v.toNat % 65536
  let hi := v.toNat % 2 ^ 32 / 65536
  [(0x100, v.toNat % 8 ≤ 4, { s.regs with partLimit := v.setWidth 3 }, 7),
   (0x104, lo ≤ 2000 * s.cfg.ports ∧ hi ≤ 2000 * s.cfg.ports, { s.regs with memRead := v.setWidth 16, memWrite := v.extractLsb' 16 16 }, 0xFFFFFFFF),
   (0x108, 1 ≤ lo ∧ 1 ≤ hi, { s.regs with latLocal := v.setWidth 16, latRemote := v.extractLsb' 16 16 }, 0xFFFFFFFF)]

/-- What the model makes of a row of `rwlRows`. -/
structure RwlRow (s : State) (id : BitVec 5) (off : Nat) (v : BitVec 64) (legal : Prop) (takes : Regs) (mask : Nat) : Prop where
  writable : WordWritable s (.host 1 id) off (v.toNat % 2 ^ 32)
  plain : isSelection off = false
  legal_iff : s.legalWord off (v.toNat % 2 ^ 32) = true ↔ legal
  rwl : rwlMask off = mask
  rwl_ne : mask ≠ 0
  keeps : ∀ t : State, t.unit.locked = true → t.applyWord (.host 1 id) off (v.toNat % 2 ^ 32) = t
  moves : ∀ t : State, t.regs = s.regs → t.unit.locked = false → t.applyWord (.host 1 id) off (v.toNat % 2 ^ 32) = { t with regs := takes }
  counts : takes.counts = s.regs.counts

theorem rwlRow_of_mem {s : State} (id : BitVec 5) {v : BitVec 64} {off : BitVec 16} {legal : Prop} {takes : Regs} {mask : Nat}
    (row : (off, legal, takes, mask) ∈ rwlRows s v) : RwlRow s id off.toNat v legal takes mask := by
  have low3 : BitVec.ofNat 3 (v.toNat % 4294967296) = v.setWidth 3 := ofNat_word_mod v 3 (by decide)
  have low16 : BitVec.ofNat 16 (v.toNat % 4294967296) = v.setWidth 16 := ofNat_word_mod v 16 (by decide)
  have high16 : BitVec.ofNat 16 (v.toNat % 4294967296 / 65536) = v.extractLsb' 16 16 := ofNat_word_div v 16 16 (by decide)
  have lo8 : v.toNat % 4294967296 % 8 = v.toNat % 8 := by omega
  have lo16 : v.toNat % 4294967296 % 65536 = v.toNat % 65536 := by omega
  simp only [rwlRows, List.mem_cons, List.not_mem_nil, or_false, Prod.mk.injEq] at row
  rcases row with ⟨rfl, rfl, rfl, rfl⟩ | ⟨rfl, rfl, rfl, rfl⟩ | ⟨rfl, rfl, rfl, rfl⟩
  · exact
      { writable := ⟨rfl, rfl, rfl, rfl, rfl, by decide⟩, plain := rfl, rwl := rfl, rwl_ne := by decide, counts := rfl
        legal_iff := by simp [State.legalWord, lo8]
        keeps := fun t h => by simp [State.applyWord, h]
        moves := fun t hr h => by simp [State.applyWord, h, hr, low3] }
  · exact
      { writable := ⟨rfl, rfl, rfl, rfl, rfl, by decide⟩, plain := rfl, rwl := rfl, rwl_ne := by decide, counts := rfl
        legal_iff := by simp [State.legalWord, lo16]
        keeps := fun t h => by simp [State.applyWord, h]
        moves := fun t hr h => by simp [State.applyWord, h, hr, low16, high16] }
  · exact
      { writable := ⟨rfl, rfl, rfl, rfl, rfl, by decide⟩, plain := rfl, rwl := rfl, rwl_ne := by decide, counts := rfl
        legal_iff := by simp [State.legalWord, lo16]
        keeps := fun t h => by simp [State.applyWord, h]
        moves := fun t hr h => by simp [State.applyWord, h, hr, low16, high16] }

/-- The installer's write of an RWL register, in a state with canonical counters: a legal value is taken while the register is not locked and
recorded while it is; any other is discarded and counted (R15, R18, R304, R414). -/
theorem installer_writes_rwl {s0 s : State} {id : BitVec 5} {off : BitVec 16} {v : BitVec 64} {legal : Prop} {takes : Regs} {mask : Nat}
    (h : Ready s0 s (.host 1 id)) (canonical : sparseWf 0 s.regs.counts = true) (row : (off, legal, takes, mask) ∈ rwlRows s v) :
    (legal → s.unit.locked = false →
      ∃ t, exec (.registerWrite (.host 1 id) off false v) s0 = .next t ∧
        t = { s with regs := takes, log := t.log, ao := t.ao, pins := t.pins } ∧
        Logs s t 5 1 6 off.toNat (v.toNat % 2 ^ 32) (s.regWord 6 off.toNat) 0 ∧ Answers s t (.host 1 id) 0 []) ∧
    (legal → s.unit.locked = true →
      ∃ t, exec (.registerWrite (.host 1 id) off false v) s0 = .next t ∧ t = { s with log := t.log, ao := t.ao, pins := t.pins } ∧
        Logs s t 3 1 6 off.toNat (v.toNat % 2 ^ 32) mask 0 ∧ Answers s t (.host 1 id) 0 []) ∧
    (¬ legal →
      ∃ t, exec (.registerWrite (.host 1 id) off false v) s0 = .next t ∧
        t = { s with regs := { s.regs with counts := t.regs.counts }, pins := t.pins } ∧
        t.counter .badWr = s.counter .badWr + 1 ∧ Answers s t (.host 1 id) 0 []) := by
  have R := rwlRow_of_mem id row
  refine ⟨fun hl unlocked => ?taken, fun hl locked => ?kept, fun hl => ?discarded⟩
  case taken =>
    refine ⟨_, exec_word_logged h R.writable R.plain (R.legal_iff.2 hl) canonical (writeRecord_installer ..) (R.moves _ rfl unlocked) R.counts,
      rfl, logs_of_enterLog ?_, answers_respond _ 0 [] rfl rfl rfl⟩
    simp [unlocked, masterId]
  case kept =>
    refine ⟨_, exec_word_logged h R.writable R.plain (R.legal_iff.2 hl) canonical (writeRecord_installer ..) (R.keeps _ locked) rfl,
      rfl, logs_of_enterLog ?_, answers_respond _ 0 [] rfl rfl rfl⟩
    simp [locked, R.rwl, R.rwl_ne]
  case discarded =>
    rw [exec_registerWrite_of_serves h.toServes, State.bridgeWrite_word R.writable, if_neg (fun c => hl (R.legal_iff.1 c))]
    exact discardWrite_spec s _

/-! ## PSI_PWRPOLICY -/

theorem State.applyWord_pwrPolicy (s : State) (m : Master) (v : BitVec 64) :
    s.applyWord m 0x10C (v.toNat % 2 ^ 32) =
      { s with regs := { s.regs with fastest := v.setWidth 3, slowest := v.extractLsb' 4 3, forceSlow := v.getLsbD 8, tmax := v.extractLsb' 16 16 } } := by
  have fastest : BitVec.ofNat 3 (v.toNat % 4294967296) = v.setWidth 3 := ofNat_word_mod v 3 (by decide)
  have slowest : BitVec.ofNat 3 (v.toNat % 4294967296 / 16) = v.extractLsb' 4 3 := ofNat_word_div v 4 3 (by decide)
  have slow : bitOf (v.toNat % 4294967296) 8 = v.getLsbD 8 := bitOf_word v 8 (by decide)
  have tmax : BitVec.ofNat 16 (v.toNat % 4294967296 / 65536) = v.extractLsb' 16 16 := ofNat_word_div v 16 16 (by decide)
  simp [State.applyWord, fastest, slowest, slow, tmax]

/-- The installer's write of PSI_PWRPOLICY, in a state with canonical counters: the register takes what is written, with one record
(R304). -/
theorem installer_writes_pwrPolicy {s0 s : State} {id : BitVec 5} {v : BitVec 64} (h : Ready s0 s (.host 1 id))
    (canonical : sparseWf 0 s.regs.counts = true) (legal : v.toNat % 8 ≤ v.toNat / 16 % 8) :
    ∃ t, exec (.registerWrite (.host 1 id) 0x10C false v) s0 = .next t ∧
      t = { s with regs := { s.regs with fastest := v.setWidth 3, slowest := v.extractLsb' 4 3, forceSlow := v.getLsbD 8, tmax := v.extractLsb' 16 16 }
                   log := t.log, ao := t.ao, pins := t.pins } ∧
      Logs s t 5 1 6 0x10C (v.toNat % 2 ^ 32) (s.regWord 6 0x10C) 0 ∧ Answers s t (.host 1 id) 0 [] := by
  have writable : WordWritable s (.host 1 id) (0x10C : BitVec 16).toNat (v.toNat % 2 ^ 32) := ⟨rfl, rfl, rfl, rfl, rfl, by decide⟩
  have inRange : s.legalWord (0x10C : BitVec 16).toNat (v.toNat % 2 ^ 32) = true :=
    decide_eq_true (show v.toNat % 2 ^ 32 % 8 ≤ v.toNat % 2 ^ 32 / 2 ^ 4 % 2 ^ 3 by omega)
  exact ⟨_, exec_word_logged h writable rfl inRange canonical (writeRecord_installer ..) (State.applyWord_pwrPolicy ..) rfl, rfl,
    logs_of_enterLog (by simp [rwlMask, masterId]), answers_respond _ 0 [] rfl rfl rfl⟩

/-! ## PSI_ALERT -/

theorem maskOf_range_succ (f : Nat → Bool) (n : Nat) :
    maskOf ((List.range (n + 1)).map f) = maskOf ((List.range n).map f) + natBit (f n) n := by
  simp [maskOf, List.range_succ, List.mapIdx_append]

theorem maskOf_range_lt (f : Nat → Bool) (n : Nat) : maskOf ((List.range n).map f) < 2 ^ n := by
  induction n with
  | zero => exact Nat.two_pow_pos 0
  | succ n ih =>
    rw [maskOf_range_succ, Nat.pow_succ]
    cases f n
    · simp only [natBit, Bool.false_eq_true, if_false]; omega
    · simp only [natBit, if_true]; omega

/-- A mask of n flags holds them bit by bit, and no bit above them. -/
theorem testBit_maskOf_range (f : Nat → Bool) (n i : Nat) : (maskOf ((List.range n).map f)).testBit i = (decide (i < n) && f i) := by
  induction n with
  | zero => exact Nat.zero_testBit i
  | succ n ih =>
    rcases Nat.lt_trichotomy i n with lt | rfl | gt
    · have below : (maskOf ((List.range (n + 1)).map f)).testBit i = (maskOf ((List.range n).map f)).testBit i := by
        rw [maskOf_range_succ]
        cases f n
        · rfl
        · exact (congrArg (Nat.testBit · i) (Nat.add_comm ..)).trans (Nat.testBit_two_pow_add_gt lt _)
      rw [below, ih, decide_eq_true lt, decide_eq_true (Nat.lt_succ_of_lt lt)]
    · have top : (maskOf ((List.range i).map f)).testBit i = false := Nat.testBit_lt_two_pow (maskOf_range_lt f i)
      rw [maskOf_range_succ, decide_eq_true (Nat.lt_succ_self i), Bool.true_and]
      cases f i
      · exact top
      · exact (congrArg (Nat.testBit · i) (Nat.add_comm ..)).trans ((Nat.testBit_two_pow_add_eq _ i).trans (by rw [top]; rfl))
    · have bound : maskOf ((List.range (n + 1)).map f) < 2 ^ i :=
        Nat.lt_of_lt_of_le (maskOf_range_lt f (n + 1)) (Nat.pow_le_pow_right (by decide) gt)
      rw [Nat.testBit_lt_two_pow bound, decide_eq_false (Nat.not_lt_of_le gt), Bool.false_and]

theorem State.applyWord_alert (s : State) (m : Master) (v : Nat) :
    s.applyWord m 0x20 v =
      { s with regs := { s.regs with alert := s.regs.alert &&& ~~~(BitVec.ofNat 8 (maskOf ((List.range 8).map (s.regs.clears 0x20 v)))) } } := rfl

/-- The operator's write of PSI_ALERT is performed at once and makes no record (R304, R408). -/
theorem exec_alert_of_serves {s0 s : State} {id : BitVec 5} (h : Serves s0 s (.host 0 id)) (v : BitVec 64) :
    exec (.registerWrite (.host 0 id) 0x20 false v) s0 =
      .next (((s.applyWord (.host 0 id) 0x20 (v.toNat % 2 ^ 32)).count .badWr 0).respond (.host 0 id) 0 []) :=
  exec_word_unlogged h ⟨rfl, rfl, rfl, rfl, rfl, by decide⟩ rfl (by decide) rfl rfl

/-- The operator's write of PSI_ALERT, in a state with canonical counters: a written 1 clears its bit, but for one that hardware set in the same
cycle (R16, R408). -/
theorem operator_writes_alert {s0 s : State} {id : BitVec 5} (h : Serves s0 s (.host 0 id)) (canonical : sparseWf 0 s.regs.counts = true)
    (v : BitVec 64) :
    ∃ t, exec (.registerWrite (.host 0 id) 0x20 false v) s0 = .next t ∧
      t = { s with regs := { s.regs with alert := t.regs.alert }, pins := t.pins } ∧ Answers s t (.host 0 id) 0 [] ∧
      ∀ b < 8, t.regs.alert.getLsbD b = (s.regs.alert.getLsbD b && !(v.getLsbD b && !s.regs.fresh.contains (32 * 0x20 + b))) := by
  rw [exec_alert_of_serves h, State.count_zero_of_canonical (by rw [State.applyWord_alert]; exact canonical), State.applyWord_alert]
  refine ⟨_, rfl, rfl, answers_respond _ 0 [] rfl rfl rfl, fun b hb => ?_⟩
  have clears : s.regs.clears 0x20 (v.toNat % 2 ^ 32) b = (v.getLsbD b && !s.regs.fresh.contains (32 * 0x20 + b)) :=
    congrArg (· && !s.regs.fresh.contains (32 * 0x20 + b)) (bitOf_word v b (by omega))
  change (s.regs.alert &&& ~~~(BitVec.ofNat 8 (maskOf _))).getLsbD b = _
  rw [← clears, BitVec.getLsbD_and, BitVec.getLsbD_not, BitVec.getLsbD_ofNat, testBit_maskOf_range,
    decide_eq_true hb, Bool.true_and, Bool.true_and, Bool.true_and]

/-! ## A write without the right -/

theorem leNat_leBytes (n v : Nat) : leNat (leBytes n v) = v % 256 ^ n := by
  induction n generalizing v with
  | zero => simp [leBytes, leNat, Nat.mod_one]
  | succ n ih =>
    rw [leBytes, leNat, ih, BitVec.toNat_ofNat, Nat.pow_succ' (m := 256)]
    exact (Nat.mod_mul ..).symm

/-- A write of a register without the right: refused with one record of kind role-refused, and nothing else changes (R304 to R306). -/
theorem write_without_right_refused {s0 s : State} {m : Master} {off : BitVec 16} {v : BitVec 64} (h : Ready s0 s m)
    (aligned : off.toNat % 4 = 0) (present : regExists off.toNat = true) (plain : isSelection off.toNat = false)
    (may : mayWrite m off.toNat = false) :
    ∃ t, exec (.registerWrite m off false v) s0 = .next t ∧ t = { s with log := t.log, ao := t.ao, pins := t.pins } ∧
      Logs s t 2 (roleOf m) (masterId m) (0x20000000 + off.toNat) (v.toNat % 2 ^ 32) 1 0 ∧ Answers s t m 1 [] := by
  have value : leNat ((leBytes 4 v.toNat).take 8) = v.toNat % 2 ^ 32 := leNat_leBytes 4 v.toNat
  rw [exec_registerWrite_of_serves h.toServes, State.bridgeWrite_word_refused v aligned present plain may]
  simp only [State.refuseWrite, h.room, State.actLog, value]
  exact ⟨_, rfl, rfl, logs_of_enterLog rfl, answers_respond m 1 [] rfl rfl rfl⟩

/-! ## A counter store that is not canonical -/

/-- A machine that runs and lists PSI_BADWRCNT with a value. -/
def listing (n : BitVec 32) : State :=
  { State.reset with unit := { UnitCtl.reset with state := .running }, regs := { Regs.reset with counts := [(counterOffset .badWr, n)] } }

theorem listing_ready (n : BitVec 32) (role : BitVec 2) (id : BitVec 5) (h : role ≠ 3) : Ready (listing n) (listing n) (.host role id) :=
  ⟨⟨rfl, by simpa [State.gate, listing] using h, rfl⟩, rfl⟩

/-- The states that the theorems above for canonical counters speak of. -/
theorem listing_canonical : Ready (listing 3) (listing 3) (.host 1 5) ∧ sparseWf 0 (listing 3).regs.counts = true :=
  ⟨listing_ready 3 1 5 (by decide), by decide⟩

/-- A performed write counts 0 discarded words, and drops an entry with the value 0. -/
theorem listing_zero_dropped (v : Nat) :
    (((listing 0).applyWord (.host 0 0) 0x20 v).count .badWr 0).regs.counts = [] := rfl

/-- Refutes O40, which speaks of every state: a write that the bridge performs also counts the words that it discards, here 0 of them, and
`sparseSet` then brings the counters' store into canonical form. `listing 0`, which the statement does not rule out, is not in that form, though
every write of a store keeps it (`sparseWf_set`): its entry of PSI_BADWRCNT goes, where the statement keeps every register but PSI_ALERT as it
is. Where the store is canonical each clause holds:
`installer_writes_rwl`, `installer_writes_pwrPolicy`, `operator_writes_alert` and `write_without_right_refused`. -/
theorem not_registerWrites : ¬ Obligations.RegisterWrites := by
  unfold Obligations.RegisterWrites
  rintro ⟨-, -, alertClause, -⟩
  have serves : Serves (listing 0) (listing 0) (.host 0 0) := (listing_ready 0 0 0 (by decide)).toServes
  obtain ⟨t, written, frame, -, -⟩ := alertClause (listing 0) (listing 0) 0 0 serves
  rw [exec_alert_of_serves serves, Host.Outcome.next.injEq] at written
  have dropped : t.regs.counts = [] := by rw [← written, State.respond_regs, listing_zero_dropped]
  have kept : t.regs.counts = [(counterOffset .badWr, 0)] := by rw [frame]; rfl
  exact List.cons_ne_nil _ _ (kept.symm.trans dropped)

end Sys2Proof.Machine
end

section
/-! A stream instruction that completes its stream: HALT (R92, R119), and one that names a resource which its stream does not hold (R87, R92,
R97, R117). -/

namespace Sys2Proof.Machine

open Sys2Proof.Claims

/-! ## The allocation check -/

/-- The allocation check reads the configuration and the image alone (R97, R98). -/
theorem State.foreign_congr {s t : State} (cfg : s.cfg = t.cfg) (image : s.image = t.image) (p : StreamId) (op : Op) :
    s.foreign p op = t.foreign p op := by
  have reads : ∀ u : State, u.foreign p op = State.foreign { State.reset with cfg := u.cfg, image := u.image } p op := fun u => by
    cases op <;> rfl
  rw [reads s, reads t, cfg, image]

theorem State.reach_foreign (s : State) (p q : StreamId) (op : Op) : (s.reach p).foreign q op = s.foreign q op :=
  State.foreign_congr (s.reach_cfg p) (s.reach_image p) q op

theorem State.issued_foreign (s : State) (p q : StreamId) (op o : Op) : (s.issued p op).foreign q o = (s.reach p).foreign q o :=
  State.foreign_congr (by simp [State.issued]) (by simp [State.issued]) q o

/-! ## The state in which an instruction has its effect -/

/-- A read that corrects flipped bits changes no register but the counters (R346). -/
theorem State.readCorrect_regs (s : State) (st : Store) (ws : List Nat) :
    { (s.readCorrect st ws).regs with counts := s.regs.counts } = s.regs := by
  unfold State.readCorrect; dsimp only; split <;> rfl

theorem State.issued_stream (s : State) (p : StreamId) (op : Op) : (s.issued p op).stream p =
    { (s.reach p).stream p with next := s.clock.offset + 1, reached := none, waitDl := none, waitOk := none } := by
  unfold State.issued
  rw [State.stream_congr (State.readCorrect_streams ..), State.accept_stream, State.reach_clock]

@[simp] theorem State.issued_ctx (s : State) (p : StreamId) (op : Op) : ((s.issued p op).stream p).ctx = (s.stream p).ctx := by
  rw [State.issued_stream]; exact s.reach_ctx p p

/-- What every issue does changes no stream but its own, and of the rest of the machine no more than counters (R95, R346). -/
theorem State.issued_quiet (s : State) (p : StreamId) (op : Op) : Quiet p s (s.issued p op) := by
  refine ⟨?base, fun q ne => ?others⟩
  case base =>
    constructor
    case regs => unfold State.issued; rw [← s.reach_regs p, ← (s.reach p).accept_regs p]; exact State.readCorrect_regs ..
    case perf => unfold State.issued; rw [State.readCorrect_perf, ← s.reach_perf p]; exact State.accept_perf ..
    all_goals simp [State.issued]
  case others =>
    unfold State.issued
    rw [State.stream_congr (State.readCorrect_streams ..), State.accept_stream_ne _ ne, s.reach_stream_ne ne]

@[simp] theorem State.issued_basin (s : State) (p : StreamId) (op : Op) : (s.issued p op).basin = s.basin := by simp [State.issued]
@[simp] theorem State.issued_ledger (s : State) (p : StreamId) (op : Op) : (s.issued p op).ledger = s.ledger := by simp [State.issued]
@[simp] theorem State.issued_pool (s : State) (p : StreamId) (op : Op) : (s.issued p op).pool = s.pool := by simp [State.issued]
@[simp] theorem State.issued_inflight (s : State) (p : StreamId) (op : Op) : (s.issued p op).inflight = s.inflight := by simp [State.issued]
@[simp] theorem State.issued_collector (s : State) (p : StreamId) (op : Op) : (s.issued p op).collector = s.collector := by simp [State.issued]
@[simp] theorem State.issued_clock (s : State) (p : StreamId) (op : Op) : (s.issued p op).clock = s.clock := by simp [State.issued]
@[simp] theorem State.issued_attempt (s : State) (p : StreamId) (op : Op) : (s.issued p op).unit.attempt = s.unit.attempt := by
  simp [State.issued]

/-! ## Completion -/

/-- The word that a stream which completes in the present cycle queues (R92, R94). -/
def State.completion (s : State) (faulted stopped : Bool) : Completion := ⟨s.clock.frame, s.clock.offset, faulted, stopped, s.unit.attempt⟩

/-- A stream as its completion leaves it (R92). -/
def Stream.completed (x : Stream) (c : Completion) : Stream :=
  { x with done := some c, start := none, waitDl := none, waitOk := none, reached := none
           ctx := { x.ctx with state := if c.faulted then .faulted else .halted } }

theorem State.complete_streams (s : State) (p : StreamId) (faulted stopped : Bool) :
    (s.complete p faulted stopped).streams = (s.modStream p (·.completed (s.completion faulted stopped))).streams := rfl

theorem State.complete_stream (s : State) (p : StreamId) (faulted stopped : Bool) :
    (s.complete p faulted stopped).stream p = (s.stream p).completed (s.completion faulted stopped) :=
  (State.stream_congr (s.complete_streams p faulted stopped) p).trans (s.stream_modStream_self p _)

theorem State.complete_stream_ne (s : State) {p q : StreamId} (ne : q ≠ p) (faulted stopped : Bool) :
    (s.complete p faulted stopped).stream q = s.stream q :=
  (State.stream_congr (s.complete_streams p faulted stopped) q).trans (s.stream_modStream_ne _ ne)

theorem State.complete_collector (s : State) (p : StreamId) (faulted stopped : Bool) :
    (s.complete p faulted stopped).collector = collectorInsert s.collector (p, s.completion faulted stopped) := rfl

/-- The word is the same after everything that an issue does before its effect. -/
theorem State.issued_completion (s : State) (p : StreamId) (op : Op) (faulted stopped : Bool) :
    (s.issued p op).completion faulted stopped = s.completion faulted stopped := by
  simp [State.completion]

/-- The sequencer of a stream that has completed goes no further (R92). -/
theorem State.advance_of_completed {s : State} {p : StreamId} (h : (s.stream p).ctx.state ≠ .running) (e : LoopEnd) : s.advance p e = s :=
  if_pos h

/-- A fault of a Running stream, with its PC and its number, completes it (R87, R92, R115). -/
theorem State.raise_running {s : State} {p : StreamId} (h : (s.stream p).ctx.state = .running) (code : BitVec 8) (faddr : Int) (cause : BitVec 3)
    (pc : BitVec 13) : s.raise p code faddr cause pc = (s.modStream p (fun x =>
      { x with ctx := { x.ctx with fault := code, faddr := BitVec.ofInt 64 faddr, pc := pc }
               stat := if code = faultPROT then { x.stat with protCause := cause } else x.stat })).complete p true false :=
  if_neg (not_not_intro h)

/-- An instruction that names a foreign resource takes its effect number where it has one, and raises PROT (R97, R117). -/
def State.refuseForeign (s : State) (p : StreamId) (op : Op) (n : Nat) : State :=
  (if numbered op then s.takeEffect p else s).raise p faultPROT n 2 (s.pc p)

/-! ## The frame of an instruction -/

section
variable {p : StreamId} {s t : State} (quiet : Quiet p s t)
include quiet

/-- A change of the issuing stream keeps the frame of its instruction. -/
theorem quiet_modStream (f : Stream → Stream) : Quiet p s (t.modStream p f) :=
  { quiet with others := fun q ne => (t.stream_modStream_ne f ne).trans (quiet.others q ne) }

theorem quiet_complete (faulted stopped : Bool) : Quiet p s (t.complete p faulted stopped) :=
  { quiet with others := fun q ne => (t.complete_stream_ne ne faulted stopped).trans (quiet.others q ne) }

theorem quiet_takeEffect : Quiet p s (t.takeEffect p) := by
  unfold State.takeEffect State.modCtx
  exact quiet_modStream quiet _

theorem quiet_raise (code : BitVec 8) (faddr : Int) (cause : BitVec 3) (pc : BitVec 13) : Quiet p s (t.raise p code faddr cause pc) := by
  unfold State.raise
  split
  · exact quiet
  · exact quiet_complete (quiet_modStream quiet _) true false

theorem quiet_haltEffect : Quiet p s (t.haltEffect p) := quiet_complete (quiet_modStream quiet _) false false

theorem quiet_refuseForeign (op : Op) (n : Nat) : Quiet p s (t.refuseForeign p op n) := by
  unfold State.refuseForeign
  split
  · exact quiet_raise (quiet_takeEffect quiet) ..
  · exact quiet_raise quiet ..

end

/-! ## HALT -/

/-- A HALT that issues ends its stream: the sequencer does not go on after it (R92, R119). -/
theorem exec_halt_of_issues {s0 s : State} {p : StreamId} {e : LoopEnd} (h : Issues s0 s p e .halt) :
    exec (.halt p e) s0 = .next ((s.issued p .halt).haltEffect p) := by
  obtain ⟨rfl, may, fetch, tables, holds⟩ := h
  have completed : (((s0.turn p).issued p .halt).haltEffect p |>.stream p).ctx.state ≠ .running := by
    rw [State.haltEffect, State.complete_stream]; exact StreamState.noConfusion
  change Host.Outcome.next _ = _
  rw [State.issue_eq may fetch tables ((State.issued_foreign ..).trans holds), State.advance_of_completed completed]

@[simp] theorem State.haltEffect_pool (s : State) (p : StreamId) : (s.haltEffect p).pool = s.pool := rfl
@[simp] theorem State.haltEffect_basin (s : State) (p : StreamId) : (s.haltEffect p).basin = s.basin := rfl
@[simp] theorem State.haltEffect_ledger (s : State) (p : StreamId) : (s.haltEffect p).ledger = s.ledger := rfl
@[simp] theorem State.haltEffect_inflight (s : State) (p : StreamId) : (s.haltEffect p).inflight = s.inflight := rfl

theorem State.haltEffect_collector (s : State) (p : StreamId) :
    (s.haltEffect p).collector = collectorInsert s.collector (p, s.completion false false) := rfl

/-- HALT's stream in its issue cycle: PC at the next index, and completed (R87, R92, R119). -/
theorem State.haltEffect_stream (s : State) (p : StreamId) : (s.haltEffect p).stream p =
    Stream.completed { s.stream p with ctx := { (s.stream p).ctx with pc := (s.stream p).ctx.pc + 1 } } (s.completion false false) := by
  rw [State.haltEffect, State.complete_stream, State.modCtx, State.stream_modStream_self]; rfl

/-! ## A foreign resource -/

theorem State.issue_of_foreign {s : State} {p : StreamId} {e : LoopEnd} {op : Op} {n : Nat} (may : (s.reach p).mayIssue p e op = true)
    (fetch : (s.reach p).copyBad ((s.reach p).fetchWords p) = false)
    (tables : (s.reach p).copyBad ((s.reach p).tableWords p op) = false)
    (foreign : (s.reach p).foreign p op = some n) (effect : State → State) :
    s.issue p e op effect = (s.issued p op).refuseForeign p op n := by
  simp [State.issue, State.refuseForeign, may, fetch, tables, State.issued_foreign, foreign]

/-- A stream instruction that names a foreign resource is nothing but an issue: what TWAIT and CRECV raise before theirs is for an
instruction that the allocation check lets pass (R97, R345). -/
theorem exec_of_foreign {s : State} {c : Instr} {p : StreamId} {e : LoopEnd} {op : Op} {n : Nat} (h : c.stream? = some (p, e, op))
    (foreign : (s.turn p).foreign p op = some n) : ∃ effect, exec c s = .next ((s.turn p).issue p e op effect) := by
  cases c
  case twait => cases h; cases foreign
  case crecv q l f =>
    cases h
    have noPoll : (s.turn p).pollBad p e f = none := if_neg (by simp [foreign])
    refine ⟨fun t => t.crecvEffect p f, ?_⟩
    change execCrecv p e f s = _
    simp only [execCrecv, noPoll]
  all_goals cases h
  all_goals exact ⟨_, rfl⟩

/-- A command whose instruction issues and names a foreign resource is refused (R97). -/
theorem exec_refuses_foreign {s : State} {c : Instr} {p : StreamId} {e : LoopEnd} {op : Op} {n : Nat}
    (command : c.stream? = some (p, e, op)) (may : ((s.turn p).reach p).mayIssue p e op = true)
    (fetch : ((s.turn p).reach p).copyBad (((s.turn p).reach p).fetchWords p) = false)
    (tables : ((s.turn p).reach p).copyBad (((s.turn p).reach p).tableWords p op) = false)
    (foreign : ((s.turn p).reach p).foreign p op = some n) :
    exec c s = .next (((s.turn p).issued p op).refuseForeign p op n) := by
  obtain ⟨effect, issues⟩ := exec_of_foreign command ((State.reach_foreign ..).symm.trans foreign)
  rw [issues, State.issue_of_foreign may fetch tables foreign]

/-- A refusal of a Running stream is the completion that PROT makes, after the effect number is taken (R92, R97, R117). -/
theorem State.refuseForeign_running {s : State} {p : StreamId} (run : (s.stream p).ctx.state = .running) (op : Op) (n : Nat) :
    s.refuseForeign p op n = ((if numbered op then s.takeEffect p else s).modStream p (fun x =>
      { x with ctx := { x.ctx with fault := faultPROT, faddr := BitVec.ofNat 64 n, pc := s.pc p }
               stat := { x.stat with protCause := 2 } })).complete p true false := by
  have run' : ((if numbered op then s.takeEffect p else s).stream p).ctx.state = .running := by
    split
    · simpa [State.takeEffect, State.modCtx] using run
    · exact run
  rw [State.refuseForeign, State.raise_running run']
  simp

section
variable {s : State} {p : StreamId} (run : (s.stream p).ctx.state = .running) (op : Op) (n : Nat)
include run

theorem State.refuseForeign_ctx : ((s.refuseForeign p op n).stream p).ctx =
    { (s.stream p).ctx with fault := faultPROT, faddr := BitVec.ofNat 64 n, state := .faulted
                            effseq := (s.stream p).ctx.effseq + (if numbered op then 1 else 0) } := by
  rw [State.refuseForeign_running run, State.complete_stream, State.stream_modStream_self]
  cases numbered op <;> simp [Stream.completed, State.completion, State.takeEffect, State.modCtx, State.pc]

theorem State.refuseForeign_protCause : ((s.refuseForeign p op n).stream p).stat.protCause = 2 := by
  rw [State.refuseForeign_running run, State.complete_stream, State.stream_modStream_self]; rfl

theorem State.refuseForeign_collector : (s.refuseForeign p op n).collector = collectorInsert s.collector (p, s.completion true false) := by
  rw [State.refuseForeign_running run, State.complete_collector]
  cases numbered op <;> rfl

end

@[simp] theorem State.refuseForeign_pool (s : State) (p : StreamId) (op : Op) (n : Nat) : (s.refuseForeign p op n).pool = s.pool := by
  unfold State.refuseForeign; split <;> simp
@[simp] theorem State.refuseForeign_basin (s : State) (p : StreamId) (op : Op) (n : Nat) : (s.refuseForeign p op n).basin = s.basin := by
  unfold State.refuseForeign; split <;> simp
@[simp] theorem State.refuseForeign_ledger (s : State) (p : StreamId) (op : Op) (n : Nat) : (s.refuseForeign p op n).ledger = s.ledger := by
  unfold State.refuseForeign; split <;> simp
@[simp] theorem State.refuseForeign_inflight (s : State) (p : StreamId) (op : Op) (n : Nat) : (s.refuseForeign p op n).inflight = s.inflight := by
  unfold State.refuseForeign; split <;> simp

/-! ## The obligation -/

/-- Settles O2: HALT's effect is the completion, after which the sequencer does not go on; the allocation check of every stream instruction comes
before its effect, so that a foreign resource leaves of it no more than its effect number. -/
theorem streamsComplete : Obligations.StreamsComplete := by
  unfold Obligations.StreamsComplete
  refine ⟨fun s0 s p e h => ?halt, fun s0 s c p e op n turn command may fetch tables foreign => ?foreign⟩
  case halt =>
    refine ⟨_, exec_halt_of_issues h, quiet_haltEffect (s.issued_quiet p .halt), by simp, by simp, by simp, by simp, ?_⟩
    rw [State.haltEffect_stream, State.haltEffect_collector, State.issued_completion, State.issued_ctx, State.issued_collector]
    exact ⟨rfl, rfl, rfl⟩
  case foreign =>
    subst turn
    have run : (((s0.turn p).issued p op).stream p).ctx.state = .running := by
      rw [State.issued_ctx, ← State.reach_ctx _ p p]; exact State.mayIssue_running may
    refine ⟨_, exec_refuses_foreign command may fetch tables foreign, quiet_refuseForeign (State.issued_quiet ..) op n, by simp, by simp, by simp,
      by simp, ?ctx, State.refuseForeign_protCause run op n, ?collector⟩
    case ctx => rw [State.refuseForeign_ctx run, State.issued_ctx]
    case collector => rw [State.refuseForeign_collector run, State.issued_completion, State.issued_collector]; rfl

end Sys2Proof.Machine
end

section
/-! The machine right after reset (R89, R329, R406 to R433): its register words, its memories and its streams. -/

namespace Sys2Proof.Machine

/-- The counters of R433 read as the value that the last cycle left. -/
theorem State.regWord_counter (s : State) (id : Nat) {off : Nat} (lo : 0x800 ≤ off) (hi : off < 0x884) :
    s.regWord id off = (sparseGet 0 s.regs.countsWas off).toNat := by
  unfold State.regWord
  simp (disch := omega) only [if_neg, if_pos]

@[simp] theorem State.reset_stream (p : StreamId) : State.reset.stream p = Stream.idle := by
  simp [State.stream, State.reset]

/-- Every memory of bytes is empty at reset, and so canonical. -/
theorem State.reset_memsWf : State.reset.MemsWf := by
  unfold State.MemsWf; decide

/-- Settles O52: each word of the list is its register's at that offset, whichever master reads it; the words of the counters are one case. -/
theorem resetState : Obligations.ResetState := by
  unfold Obligations.ResetState
  refine ⟨State.reset_memsWf, rfl, rfl, fun p => ?_, ?_, fun off lo hi id => ?_, fun d _ => rfl⟩
  · rw [State.reset_stream]; rfl
  · repeat refine List.forall_mem_cons.2 ⟨fun _ => rfl, ?_⟩
    exact List.forall_mem_nil _
  · rw [State.regWord_counter _ _ lo hi]; rfl

end Sys2Proof.Machine
end
